-- ==== Sys2Proof/Word.lean ====
section
/-! DEFINITION. The word types of the Yarfaurn Y7, finite maps as plain lists, and the names that operands take. -/

namespace Sys2Proof

/-- A 64-bit scalar value (R90). -/
abbrev Word := BitVec 64

/-- The smallest addressable unit of every memory (R1). -/
abbrev Byte := BitVec 8

/-- A finite map from numbers to records, written out as a list of pairs.
A key that is not listed reads as the default its owner names. -/
abbrev SMap (α : Type) := List (Nat × α)

namespace SMap

/-- The value at key `k`, or `d` when no entry of the map names `k`. -/
def get {α : Type} (d : α) : SMap α → Nat → α
  | [], _ => d
  | (j, v) :: m, k => if j = k then v else get d m k

/-- The value at key `k`, when an entry names it. -/
def find {α : Type} : SMap α → Nat → Option α
  | [], _ => none
  | (j, v) :: m, k => if j = k then some v else find m k

/-- The map with `v` at key `k`: the first entry of `k` is replaced, or a new one goes last. -/
def set {α : Type} : SMap α → Nat → α → SMap α
  | [], k, v => [(k, v)]
  | (j, w) :: m, k, v => if j = k then (k, v) :: m else (j, w) :: set m k v

/-- The map without the entries of key `k`. -/
def erase {α : Type} (m : SMap α) (k : Nat) : SMap α :=
  m.filter (fun e => e.1 ≠ k)

/-- The map whose value at `k` is changed by `f`. -/
def modify {α : Type} (d : α) (m : SMap α) (k : Nat) (f : α → α) : SMap α :=
  SMap.set m k (f (SMap.get d m k))

/-- Every value of the map changed by `f`, which also sees the key. -/
def mapVal {α : Type} (f : Nat → α → α) (m : SMap α) : SMap α :=
  m.map (fun e => (e.1, f e.1 e.2))

end SMap

/-- The rounding modes of R77. -/
inductive RMode where
  | rn | rz | rp | rd | rs
  deriving DecidableEq, Repr, Inhabited

/-- The scopes of R237. -/
inductive Scope where
  | stream | core | die | device | system
  deriving DecidableEq, Repr, Inhabited

/-- The conditions of `CMP` (R104). -/
inductive CmpCc where
  | eq | ne | lt | le | gt | ge | ltu | leu | gtu | geu | tst | tstn
  deriving DecidableEq, Repr, Inhabited

/-- The conditions of `ICMPI` (R105). -/
inductive ICmpCc where
  | eq | ne | lt | ge
  deriving DecidableEq, Repr, Inhabited

/-- The conditions of `FCMP` (R111). -/
inductive FCmpCc where
  | eq | lt | le | un | ne
  deriving DecidableEq, Repr, Inhabited

/-- The tile formats of R174. -/
inductive TileFmt where
  | e4m3 | e5m2 | fp16 | bf16 | fp32 | f4 | tc8
  deriving DecidableEq, Repr, Inhabited

/-- The format pairs of `MMA` and `MMA.SP` (R186). -/
inductive MmaPair where
  | e4m3 | e4m3E5m2 | e5m2E4m3 | e5m2 | f16 | f16Bf16 | bf16F16 | bf16 | f4
  deriving DecidableEq, Repr, Inhabited

/-- The format pairs of `MMA.TC` (R189). -/
inductive TcPair where
  | tc8 | tc8E4m3 | e4m3Tc8 | tc8E5m2 | e5m2Tc8
  deriving DecidableEq, Repr, Inhabited

/-- The system registers of R128 and R409. -/
inductive SysReg where
  | gen | pitch | mesh | srseed | nftrap | fewait | status
  | epc | ecause | eaddr | trapbase
  | bp (n : BitVec 3)
  | trate | txofs | tdead
  deriving DecidableEq, Repr, Inhabited

/-- The engines of a core (R170). -/
inductive Engine where
  | vector | matrix | tileMem | copy | loadStore
  deriving DecidableEq, Repr, Inhabited

/-- Where an uncorrectable error strikes (R215, R219, R231). -/
inductive ErrorSite where
  /-- A core's register files, TRB, tile or accumulator file, scale fields or codebooks. -/
  | coreFile (core : Nat)
  /-- The sector of device memory or of a scratchpad that holds the place `key`. -/
  | sector (key : Nat)
  /-- The sector of the line at `key` that an L2 slice holds: of its own lines, or of a guest copy. -/
  | l2Sector (slice : Nat) (key : Nat)
  /-- A node-cache line of an STE: its context and its virtual line. -/
  | nodeCache (ste : Nat) (ctx : Nat) (line : Nat)
  /-- A correctable error that a read of a sector of device memory or of a scratchpad meets (R231). -/
  | corrected (key : Nat)
  /-- A correctable error that a read of an L2 slice meets. -/
  | l2Corrected (slice : Nat)
  deriving DecidableEq, Repr, Inhabited

/-- Who raises a power alarm (R426). -/
inductive AlarmSource where
  | board | droop | thermal
  deriving DecidableEq, Repr, Inhabited

/-- Where a host access goes: device physical memory (CXL.mem) or host memory. -/
inductive HostSpace where
  | device | host
  deriving DecidableEq, Repr, Inhabited

end Sys2Proof
end

