-- ==== Sys2Proof/Syntax.lean ====
section
/-! DEFINITION. The instruction syntax of Bilhorn: one constructor for each row of the opcode table.
The first 384 constructors are the encoded words (their operands are the fields of the word, guard `g` first);
the constructors after them are the machine's other indivisible steps, whose operands name where the step happens. -/

namespace Sys2Proof


/-- The instructions and steps of the machine, one constructor for each row of the opcode table. -/
inductive Instr where
  /-- `BAT_MOV` (R38): Bat copy of one scalar register into another. -/
  | batMov (a : BitVec 5) (b : BitVec 5)
  /-- `BAT_ADD` (R38): Bat 64-bit wrapping add of S[fb] into S[fa]. -/
  | batAdd (a : BitVec 5) (b : BitVec 5)
  /-- `BAT_SUB` (R38): Bat 64-bit wrapping subtract of S[fb] from S[fa]. -/
  | batSub (a : BitVec 5) (b : BitVec 5)
  /-- `BAT_AND` (R38): Bat bitwise AND of two scalars. -/
  | batAnd (a : BitVec 5) (b : BitVec 5)
  /-- `BAT_OR` (R38): Bat bitwise OR of two scalars. -/
  | batOr (a : BitVec 5) (b : BitVec 5)
  /-- `BAT_XOR` (R38): Bat bitwise XOR of two scalars. -/
  | batXor (a : BitVec 5) (b : BitVec 5)
  /-- `BAT_SHL` (R38): Bat left shift by S[fb][5:0]. -/
  | batShl (a : BitVec 5) (b : BitVec 5)
  /-- `BAT_SHR` (R38): Bat logical right shift by S[fb][5:0]. -/
  | batShr (a : BitVec 5) (b : BitVec 5)
  /-- `BAT_SRA` (R38): Bat arithmetic right shift by S[fb][5:0]. -/
  | batSra (a : BitVec 5) (b : BitVec 5)
  /-- `BAT_MUL` (R38): Bat low 64 bits of the product of two scalars. -/
  | batMul (a : BitVec 5) (b : BitVec 5)
  /-- `BAT_LD_D` (R39): Bat 8-byte load from the address in any scalar register. -/
  | batLdD (a : BitVec 5) (b : BitVec 5)
  /-- `BAT_ST_D` (R39): Bat 8-byte store to the address in any scalar register. -/
  | batStD (a : BitVec 5) (b : BitVec 5)
  /-- `BAT_JR` (R38): Bat jump to the address in S[fb]. -/
  | batJr (b : BitVec 5)
  /-- `BAT_B` (R38): Bat branch by a signed parcel offset. -/
  | batB (o : BitVec 10)
  /-- `BAT_CALL` (R38): Bat call by a signed parcel offset, writing S31. -/
  | batCall (o : BitVec 10)
  /-- `IMX` (R46): Prefix supplying 20 payload bits that extend the immediate of the following RI or M brick. -/
  | imx (p : BitVec 4) (q : BitVec 16)
  /-- `MOVI` (R52): Writes the immediate into a scalar. -/
  | movi (g : BitVec 3) (i : BitVec 12) (d : BitVec 5)
  /-- `ADDI` (R52): Adds the immediate to a scalar. -/
  | addi (g : BitVec 3) (i : BitVec 12) (d : BitVec 5)
  /-- `ANDI` (R52): ANDs the immediate into a scalar. -/
  | andi (g : BitVec 3) (i : BitVec 12) (d : BitVec 5)
  /-- `ORI` (R52): ORs the immediate into a scalar. -/
  | ori (g : BitVec 3) (i : BitVec 12) (d : BitVec 5)
  /-- `XORI` (R52): XORs the immediate into a scalar. -/
  | xori (g : BitVec 3) (i : BitVec 12) (d : BitVec 5)
  /-- `SHLI` (R52): Shifts a scalar left by an immediate 0-63. -/
  | shli (g : BitVec 3) (i : BitVec 12) (d : BitVec 5)
  /-- `SHRI` (R52): Shifts a scalar logically right by an immediate. -/
  | shri (g : BitVec 3) (i : BitVec 12) (d : BitVec 5)
  /-- `SRAI` (R52): Shifts a scalar arithmetically right by an immediate. -/
  | srai (g : BitVec 3) (i : BitVec 12) (d : BitVec 5)
  /-- `MULI` (R52): Multiplies a scalar by the immediate, low 64 bits. -/
  | muli (g : BitVec 3) (i : BitVec 12) (d : BitVec 5)
  /-- `MOVH` (R52): Writes imm[31:0] into the upper half of a scalar. -/
  | movh (g : BitVec 3) (i : BitVec 12) (d : BitVec 5)
  /-- `LD_B` (R53): Loads one byte sign-extended. -/
  | ldB (g : BitVec 3) (b : BitVec 4) (i : BitVec 12) (t : BitVec 5)
  /-- `LD_BU` (R53): Loads one byte zero-extended. -/
  | ldBu (g : BitVec 3) (b : BitVec 4) (i : BitVec 12) (t : BitVec 5)
  /-- `LD_H` (R53): Loads two bytes sign-extended. -/
  | ldH (g : BitVec 3) (b : BitVec 4) (i : BitVec 12) (t : BitVec 5)
  /-- `LD_HU` (R53): Loads two bytes zero-extended. -/
  | ldHu (g : BitVec 3) (b : BitVec 4) (i : BitVec 12) (t : BitVec 5)
  /-- `LD_W` (R53): Loads four bytes sign-extended. -/
  | ldW (g : BitVec 3) (b : BitVec 4) (i : BitVec 12) (t : BitVec 5)
  /-- `LD_WU` (R53): Loads four bytes zero-extended. -/
  | ldWu (g : BitVec 3) (b : BitVec 4) (i : BitVec 12) (t : BitVec 5)
  /-- `LD_D` (R53): Loads eight bytes through L1D. -/
  | ldD (g : BitVec 3) (b : BitVec 4) (i : BitVec 12) (t : BitVec 5)
  /-- `LDX_D` (R235): Loads eight bytes at the home slice, bypassing L1D. -/
  | ldxD (g : BitVec 3) (b : BitVec 4) (i : BitVec 12) (t : BitVec 5)
  /-- `ST_B` (R53): Stores the low byte of a scalar. -/
  | stB (g : BitVec 3) (b : BitVec 4) (i : BitVec 12) (t : BitVec 5)
  /-- `ST_H` (R53): Stores the low two bytes of a scalar. -/
  | stH (g : BitVec 3) (b : BitVec 4) (i : BitVec 12) (t : BitVec 5)
  /-- `ST_W` (R53): Stores the low four bytes of a scalar. -/
  | stW (g : BitVec 3) (b : BitVec 4) (i : BitVec 12) (t : BitVec 5)
  /-- `ST_D` (R53): Stores eight bytes of a scalar. -/
  | stD (g : BitVec 3) (b : BitVec 4) (i : BitVec 12) (t : BitVec 5)
  /-- `PREF` (R236): Fills a 128-byte line into L2 and optionally L1D, silently dropped on miss or fault. -/
  | pref (g : BitVec 3) (b : BitVec 4) (i : BitVec 12) (l : BitVec 1)
  /-- `ADD` (R98): Scalar 64-bit add. -/
  | add (g : BitVec 3) (d : BitVec 5) (a : BitVec 5) (b : BitVec 5)
  /-- `SUB` (R98): Scalar 64-bit subtract. -/
  | sub (g : BitVec 3) (d : BitVec 5) (a : BitVec 5) (b : BitVec 5)
  /-- `MUL` (R98): Low 64 bits of a scalar product. -/
  | mul (g : BitVec 3) (d : BitVec 5) (a : BitVec 5) (b : BitVec 5)
  /-- `MULH` (R98): High 64 bits of a signed product. -/
  | mulh (g : BitVec 3) (d : BitVec 5) (a : BitVec 5) (b : BitVec 5)
  /-- `MULHU` (R98): High 64 bits of an unsigned product. -/
  | mulhu (g : BitVec 3) (d : BitVec 5) (a : BitVec 5) (b : BitVec 5)
  /-- `MULHM` (R98): High 64 bits of an unsigned-by-signed product. -/
  | mulhm (g : BitVec 3) (d : BitVec 5) (a : BitVec 5) (b : BitVec 5)
  /-- `DIV` (R98): Saturating signed division. -/
  | div (g : BitVec 3) (d : BitVec 5) (a : BitVec 5) (b : BitVec 5)
  /-- `DIVU` (R98): Saturating unsigned division. -/
  | divu (g : BitVec 3) (d : BitVec 5) (a : BitVec 5) (b : BitVec 5)
  /-- `REM` (R98): Signed remainder, 0 for a zero divisor. -/
  | rem (g : BitVec 3) (d : BitVec 5) (a : BitVec 5) (b : BitVec 5)
  /-- `REMU` (R98): Unsigned remainder, 0 for a zero divisor. -/
  | remu (g : BitVec 3) (d : BitVec 5) (a : BitVec 5) (b : BitVec 5)
  /-- `MIN` (R98): Signed minimum of two scalars. -/
  | min (g : BitVec 3) (d : BitVec 5) (a : BitVec 5) (b : BitVec 5)
  /-- `MINU` (R98): Unsigned minimum of two scalars. -/
  | minu (g : BitVec 3) (d : BitVec 5) (a : BitVec 5) (b : BitVec 5)
  /-- `MAX` (R98): Signed maximum of two scalars. -/
  | max (g : BitVec 3) (d : BitVec 5) (a : BitVec 5) (b : BitVec 5)
  /-- `MAXU` (R98): Unsigned maximum of two scalars. -/
  | maxu (g : BitVec 3) (d : BitVec 5) (a : BitVec 5) (b : BitVec 5)
  /-- `ADDS` (R98): Signed saturating add. -/
  | adds (g : BitVec 3) (d : BitVec 5) (a : BitVec 5) (b : BitVec 5)
  /-- `SUBS` (R98): Signed saturating subtract. -/
  | subs (g : BitVec 3) (d : BitVec 5) (a : BitVec 5) (b : BitVec 5)
  /-- `ADDSU` (R98): Unsigned saturating add. -/
  | addsu (g : BitVec 3) (d : BitVec 5) (a : BitVec 5) (b : BitVec 5)
  /-- `SUBSU` (R98): Unsigned saturating subtract. -/
  | subsu (g : BitVec 3) (d : BitVec 5) (a : BitVec 5) (b : BitVec 5)
  /-- `ABS` (R98): Absolute value of a scalar. -/
  | abs (g : BitVec 3) (d : BitVec 5) (a : BitVec 5)
  /-- `NEG` (R98): Negation of a scalar. -/
  | neg (g : BitVec 3) (d : BitVec 5) (a : BitVec 5)
  /-- `AND` (R99): Scalar bitwise AND. -/
  | and (g : BitVec 3) (d : BitVec 5) (a : BitVec 5) (b : BitVec 5)
  /-- `OR` (R99): Scalar bitwise OR. -/
  | or (g : BitVec 3) (d : BitVec 5) (a : BitVec 5) (b : BitVec 5)
  /-- `XOR` (R99): Scalar bitwise XOR. -/
  | xor (g : BitVec 3) (d : BitVec 5) (a : BitVec 5) (b : BitVec 5)
  /-- `ANDN` (R99): AND with the complement of S[b]. -/
  | andn (g : BitVec 3) (d : BitVec 5) (a : BitVec 5) (b : BitVec 5)
  /-- `ORN` (R99): OR with the complement of S[b]. -/
  | orn (g : BitVec 3) (d : BitVec 5) (a : BitVec 5) (b : BitVec 5)
  /-- `XNOR` (R99): Complement of the XOR. -/
  | xnor (g : BitVec 3) (d : BitVec 5) (a : BitVec 5) (b : BitVec 5)
  /-- `SHL` (R99): Left shift by S[b][5:0]. -/
  | shl (g : BitVec 3) (d : BitVec 5) (a : BitVec 5) (b : BitVec 5)
  /-- `SHR` (R99): Logical right shift by S[b][5:0]. -/
  | shr (g : BitVec 3) (d : BitVec 5) (a : BitVec 5) (b : BitVec 5)
  /-- `SRA` (R99): Arithmetic right shift by S[b][5:0]. -/
  | sra (g : BitVec 3) (d : BitVec 5) (a : BitVec 5) (b : BitVec 5)
  /-- `ROL` (R99): Rotate left by S[b][5:0]. -/
  | rol (g : BitVec 3) (d : BitVec 5) (a : BitVec 5) (b : BitVec 5)
  /-- `ROR` (R99): Rotate right by S[b][5:0]. -/
  | ror (g : BitVec 3) (d : BitVec 5) (a : BitVec 5) (b : BitVec 5)
  /-- `CLZ` (R100): Counts leading zero bits. -/
  | clz (g : BitVec 3) (d : BitVec 5) (a : BitVec 5)
  /-- `CTZ` (R100): Counts trailing zero bits. -/
  | ctz (g : BitVec 3) (d : BitVec 5) (a : BitVec 5)
  /-- `POPC` (R100): Counts one bits. -/
  | popc (g : BitVec 3) (d : BitVec 5) (a : BitVec 5)
  /-- `BREV` (R100): Reverses the bit order. -/
  | brev (g : BitVec 3) (d : BitVec 5) (a : BitVec 5)
  /-- `BSWAP` (R100): Reverses the byte order. -/
  | bswap (g : BitVec 3) (d : BitVec 5) (a : BitVec 5)
  /-- `SXT_B` (R100): Sign-extends the low byte. -/
  | sxtB (g : BitVec 3) (d : BitVec 5) (a : BitVec 5)
  /-- `SXT_H` (R100): Sign-extends the low halfword. -/
  | sxtH (g : BitVec 3) (d : BitVec 5) (a : BitVec 5)
  /-- `SXT_W` (R100): Sign-extends the low word. -/
  | sxtW (g : BitVec 3) (d : BitVec 5) (a : BitVec 5)
  /-- `ZXT_B` (R100): Zero-extends the low byte. -/
  | zxtB (g : BitVec 3) (d : BitVec 5) (a : BitVec 5)
  /-- `ZXT_H` (R100): Zero-extends the low halfword. -/
  | zxtH (g : BitVec 3) (d : BitVec 5) (a : BitVec 5)
  /-- `ZXT_W` (R100): Zero-extends the low word. -/
  | zxtW (g : BitVec 3) (d : BitVec 5) (a : BitVec 5)
  /-- `BFX` (R100): Extracts a bit field sign-extended. -/
  | bfx (g : BitVec 3) (d : BitVec 5) (a : BitVec 5) (b : BitVec 5)
  /-- `BFXU` (R100): Extracts a bit field zero-extended. -/
  | bfxu (g : BitVec 3) (d : BitVec 5) (a : BitVec 5) (b : BitVec 5)
  /-- `BFI` (R100): Inserts the low bits of S[a] into a field of S[d]. -/
  | bfi (g : BitVec 3) (d : BitVec 5) (a : BitVec 5) (b : BitVec 5)
  /-- `ADD_W` (R101): 32-bit add, sign-extended result. -/
  | addW (g : BitVec 3) (d : BitVec 5) (a : BitVec 5) (b : BitVec 5)
  /-- `SUB_W` (R101): 32-bit subtract, sign-extended result. -/
  | subW (g : BitVec 3) (d : BitVec 5) (a : BitVec 5) (b : BitVec 5)
  /-- `MUL_W` (R101): Low 32 bits of a product, sign-extended. -/
  | mulW (g : BitVec 3) (d : BitVec 5) (a : BitVec 5) (b : BitVec 5)
  /-- `DIV_W` (R101): 32-bit saturating signed division. -/
  | divW (g : BitVec 3) (d : BitVec 5) (a : BitVec 5) (b : BitVec 5)
  /-- `DIVU_W` (R101): 32-bit saturating unsigned division. -/
  | divuW (g : BitVec 3) (d : BitVec 5) (a : BitVec 5) (b : BitVec 5)
  /-- `REM_W` (R101): 32-bit signed remainder. -/
  | remW (g : BitVec 3) (d : BitVec 5) (a : BitVec 5) (b : BitVec 5)
  /-- `REMU_W` (R101): 32-bit unsigned remainder. -/
  | remuW (g : BitVec 3) (d : BitVec 5) (a : BitVec 5) (b : BitVec 5)
  /-- `SHL_W` (R101): 32-bit left shift by S[b][4:0]. -/
  | shlW (g : BitVec 3) (d : BitVec 5) (a : BitVec 5) (b : BitVec 5)
  /-- `SHR_W` (R101): 32-bit logical right shift. -/
  | shrW (g : BitVec 3) (d : BitVec 5) (a : BitVec 5) (b : BitVec 5)
  /-- `SRA_W` (R101): 32-bit arithmetic right shift. -/
  | sraW (g : BitVec 3) (d : BitVec 5) (a : BitVec 5) (b : BitVec 5)
  /-- `RDI` (R102): Reads a loop index into a scalar. -/
  | rdi (g : BitVec 3) (d : BitVec 5) (a : BitVec 2)
  /-- `RDLC` (R102): Reads a loop count into a scalar. -/
  | rdlc (g : BitVec 3) (d : BitVec 5) (a : BitVec 2)
  /-- `WRI` (R102): Writes a loop index from a scalar. -/
  | wri (g : BitVec 3) (d : BitVec 2) (a : BitVec 5)
  /-- `WRLC` (R102): Writes a loop count, activating or deactivating the pair. -/
  | wrlc (g : BitVec 3) (d : BitVec 2) (a : BitVec 5)
  /-- `RDLB` (R102): Reads a loop bound register. -/
  | rdlb (g : BitVec 3) (d : BitVec 5) (a : BitVec 2)
  /-- `WRLB` (R102): Writes a loop bound register. -/
  | wrlb (g : BitVec 3) (d : BitVec 2) (a : BitVec 5)
  /-- `RDP` (R102): Reads all predicates into a scalar. -/
  | rdp (g : BitVec 3) (d : BitVec 5)
  /-- `WRP` (R102): Writes P1-P7 from scalar bits. -/
  | wrp (g : BitVec 3) (a : BitVec 5)
  /-- `RDPC` (R102): Reads the address of this word. -/
  | rdpc (g : BitVec 3) (d : BitVec 5)
  /-- `MADD` (R103): Adds a product to S[d]. -/
  | madd (g : BitVec 3) (d : BitVec 5) (a : BitVec 5) (b : BitVec 5)
  /-- `MSUB` (R103): Subtracts a product from S[d]. -/
  | msub (g : BitVec 3) (d : BitVec 5) (a : BitVec 5) (b : BitVec 5)
  /-- `SHADD1` (R103): S[a] + (S[b] << 1). -/
  | shadd1 (g : BitVec 3) (d : BitVec 5) (a : BitVec 5) (b : BitVec 5)
  /-- `SHADD2` (R103): S[a] + (S[b] << 2). -/
  | shadd2 (g : BitVec 3) (d : BitVec 5) (a : BitVec 5) (b : BitVec 5)
  /-- `SHADD3` (R103): S[a] + (S[b] << 3). -/
  | shadd3 (g : BitVec 3) (d : BitVec 5) (a : BitVec 5) (b : BitVec 5)
  /-- `SHADD4` (R103): S[a] + (S[b] << 4). -/
  | shadd4 (g : BitVec 3) (d : BitVec 5) (a : BitVec 5) (b : BitVec 5)
  /-- `CMP` (R104): Compares two scalars under condition cc into a predicate. -/
  | cmp (g : BitVec 3) (d : BitVec 3) (a : BitVec 5) (b : BitVec 5) (c : CmpCc)
  /-- `ICMPI` (R105): Compares a loop index with an immediate into a predicate. -/
  | icmpi (g : BitVec 3) (n : BitVec 2) (c : ICmpCc) (i : BitVec 12) (d : BitVec 3)
  /-- `PAND` (R106): Predicate AND. -/
  | pand (g : BitVec 3) (d : BitVec 3) (a : BitVec 3) (b : BitVec 3)
  /-- `POR` (R106): Predicate OR. -/
  | por (g : BitVec 3) (d : BitVec 3) (a : BitVec 3) (b : BitVec 3)
  /-- `PXOR` (R106): Predicate XOR. -/
  | pxor (g : BitVec 3) (d : BitVec 3) (a : BitVec 3) (b : BitVec 3)
  /-- `PANDN` (R106): Predicate a AND NOT b. -/
  | pandn (g : BitVec 3) (d : BitVec 3) (a : BitVec 3) (b : BitVec 3)
  /-- `PORN` (R106): Predicate a OR NOT b. -/
  | porn (g : BitVec 3) (d : BitVec 3) (a : BitVec 3) (b : BitVec 3)
  /-- `PNAND` (R106): Predicate NAND. -/
  | pnand (g : BitVec 3) (d : BitVec 3) (a : BitVec 3) (b : BitVec 3)
  /-- `PNOR` (R106): Predicate NOR. -/
  | pnor (g : BitVec 3) (d : BitVec 3) (a : BitVec 3) (b : BitVec 3)
  /-- `PXNOR` (R106): Predicate XNOR. -/
  | pxnor (g : BitVec 3) (d : BitVec 3) (a : BitVec 3) (b : BitVec 3)
  /-- `SEL` (R107): Selects one of two scalars on a predicate. -/
  | sel (g : BitVec 3) (d : BitVec 5) (a : BitVec 5) (b : BitVec 5) (c : BitVec 3)
  /-- `CSET` (R107): Writes 1 or 0 from a predicate. -/
  | cset (g : BitVec 3) (d : BitVec 5) (c : BitVec 3)
  /-- `SELZ` (R107): Selects S[a] or 0 on a predicate. -/
  | selz (g : BitVec 3) (d : BitVec 5) (a : BitVec 5) (c : BitVec 3)
  /-- `FCMP` (R111): Compares two FP32 values under cc into a predicate. -/
  | fcmp (g : BitVec 3) (d : BitVec 3) (a : BitVec 5) (b : BitVec 5) (c : FCmpCc)
  /-- `FADD` (R109): FP32 add rounded once in the given mode. -/
  | fadd (g : BitVec 3) (d : BitVec 5) (a : BitVec 5) (b : BitVec 5) (m : RMode)
  /-- `FSUB` (R109): FP32 subtract. -/
  | fsub (g : BitVec 3) (d : BitVec 5) (a : BitVec 5) (b : BitVec 5) (m : RMode)
  /-- `FMUL` (R109): FP32 multiply. -/
  | fmul (g : BitVec 3) (d : BitVec 5) (a : BitVec 5) (b : BitVec 5) (m : RMode)
  /-- `FDIV` (R109): FP32 divide. -/
  | fdiv (g : BitVec 3) (d : BitVec 5) (a : BitVec 5) (b : BitVec 5) (m : RMode)
  /-- `FMA` (R109): Fused d + a*b in FP32. -/
  | fma (g : BitVec 3) (d : BitVec 5) (a : BitVec 5) (b : BitVec 5) (m : RMode)
  /-- `FMS` (R109): Fused d - a*b in FP32. -/
  | fms (g : BitVec 3) (d : BitVec 5) (a : BitVec 5) (b : BitVec 5) (m : RMode)
  /-- `FSQRT` (R109): FP32 square root. -/
  | fsqrt (g : BitVec 3) (d : BitVec 5) (a : BitVec 5) (m : RMode)
  /-- `FCVT_I_F` (R109): Converts FP32 to int(64). -/
  | fcvtIF (g : BitVec 3) (d : BitVec 5) (a : BitVec 5) (m : RMode)
  /-- `FMIN` (R110): FP32 minimum with -0 below +0. -/
  | fmin (g : BitVec 3) (d : BitVec 5) (a : BitVec 5) (b : BitVec 5)
  /-- `FMAX` (R110): FP32 maximum. -/
  | fmax (g : BitVec 3) (d : BitVec 5) (a : BitVec 5) (b : BitVec 5)
  /-- `FNEG` (R110): Inverts the FP32 sign bit. -/
  | fneg (g : BitVec 3) (d : BitVec 5) (a : BitVec 5)
  /-- `FABS` (R110): Clears the FP32 sign bit. -/
  | fabs (g : BitVec 3) (d : BitVec 5) (a : BitVec 5)
  /-- `FCPYS` (R110): Copies the sign of S[b] onto S[a]. -/
  | fcpys (g : BitVec 3) (d : BitVec 5) (a : BitVec 5) (b : BitVec 5)
  /-- `FCLASS` (R110): Writes the class word of an FP32 value. -/
  | fclass (g : BitVec 3) (d : BitVec 5) (a : BitVec 5)
  /-- `FCVT_F_I` (R110): Rounds an int(64) to FP32. -/
  | fcvtFI (g : BitVec 3) (d : BitVec 5) (a : BitVec 5) (m : RMode)
  /-- `FCVT_F_U` (R110): Rounds a nat(64) to FP32. -/
  | fcvtFU (g : BitVec 3) (d : BitVec 5) (a : BitVec 5) (m : RMode)
  /-- `FCVT_U_F` (R110): Converts FP32 to nat(64). -/
  | fcvtUF (g : BitVec 3) (d : BitVec 5) (a : BitVec 5) (m : RMode)
  /-- `B_L` (R112): Conditional branch by a 16-bit parcel offset. -/
  | bL (g : BitVec 3) (o : BitVec 16) (n : BitVec 1)
  /-- `CALL_L` (R112): Conditional call by offset, writing S31. -/
  | callL (g : BitVec 3) (o : BitVec 16) (n : BitVec 1)
  /-- `JR_L` (R113): Conditional jump through a register. -/
  | jrL (g : BitVec 3) (a : BitVec 5) (n : BitVec 1)
  /-- `CALLR` (R113): Conditional call through a register. -/
  | callr (g : BitVec 3) (a : BitVec 5) (n : BitVec 1)
  /-- `LOOP` (R115): Sets up a zero-overhead loop pair. -/
  | loop (n : BitVec 2) (a : BitVec 5) (l : BitVec 9)
  /-- `LEXIT` (R115): Ends an active loop pair and jumps to its end. -/
  | lexit (n : BitVec 2)
  /-- `HLD` (R124): Loads a 256-byte handle image from global memory. -/
  | hld (g : BitVec 3) (d : BitVec 4) (s : BitVec 5)
  /-- `HLD_L` (R124): Loads a handle image from the local scratchpad. -/
  | hldL (g : BitVec 3) (d : BitVec 4) (s : BitVec 5)
  /-- `HST` (R124): Stores a handle image to global memory. -/
  | hst (g : BitVec 3) (a : BitVec 4) (s : BitVec 5)
  /-- `HST_L` (R124): Stores a handle image to the scratchpad. -/
  | hstL (g : BitVec 3) (a : BitVec 4) (s : BitVec 5)
  /-- `HSETD` (R124): Sets the extent and stride of one handle dimension. -/
  | hsetd (g : BitVec 3) (d : BitVec 4) (k : BitVec 4) (s : BitVec 5) (x : BitVec 3)
  /-- `HOFF` (R124): Moves a handle's address along one dimension. -/
  | hoff (g : BitVec 3) (d : BitVec 4) (k : BitVec 4) (s : BitVec 5)
  /-- `XSET` (R127): Writes an extension register from a scalar. -/
  | xset (g : BitVec 3) (d : BitVec 3) (a : BitVec 5)
  /-- `XGET` (R127): Reads an extension register into a scalar. -/
  | xget (g : BitVec 3) (d : BitVec 5) (a : BitVec 3)
  /-- `SYSR` (R130): Reads a system register. -/
  | sysr (g : BitVec 3) (r : SysReg) (d : BitVec 5)
  /-- `SYSW` (R131): Writes a system register, effective before the next decode. -/
  | sysw (g : BitVec 3) (r : SysReg) (d : BitVec 5)
  /-- `SYSX` (R130): Exchanges a system register with a scalar. -/
  | sysx (g : BitVec 3) (r : SysReg) (d : BitVec 5)
  /-- `VADD_F` (R138): Lane-wise FP32 add. -/
  | vaddF (g : BitVec 3) (d : BitVec 4) (a : BitVec 4) (b : BitVec 4) (m : RMode)
  /-- `VSUB_F` (R138): Lane-wise FP32 subtract. -/
  | vsubF (g : BitVec 3) (d : BitVec 4) (a : BitVec 4) (b : BitVec 4) (m : RMode)
  /-- `VMUL_F` (R138): Lane-wise FP32 multiply. -/
  | vmulF (g : BitVec 3) (d : BitVec 4) (a : BitVec 4) (b : BitVec 4) (m : RMode)
  /-- `VDIV_F` (R138): Lane-wise FP32 divide. -/
  | vdivF (g : BitVec 3) (d : BitVec 4) (a : BitVec 4) (b : BitVec 4) (m : RMode)
  /-- `VMIN_F` (R138): Lane-wise FP32 minimum. -/
  | vminF (g : BitVec 3) (d : BitVec 4) (a : BitVec 4) (b : BitVec 4)
  /-- `VMAX_F` (R138): Lane-wise FP32 maximum. -/
  | vmaxF (g : BitVec 3) (d : BitVec 4) (a : BitVec 4) (b : BitVec 4)
  /-- `VFMA_F` (R138): Lane-wise fused multiply-add into vd. -/
  | vfmaF (g : BitVec 3) (d : BitVec 4) (a : BitVec 4) (b : BitVec 4) (m : RMode)
  /-- `VFMS_F` (R138): Lane-wise fused multiply-subtract from vd. -/
  | vfmsF (g : BitVec 3) (d : BitVec 4) (a : BitVec 4) (b : BitVec 4) (m : RMode)
  /-- `VSQRT` (R84): Correctly rounded lane-wise square root. -/
  | vsqrt (g : BitVec 3) (d : BitVec 4) (a : BitVec 4) (m : RMode)
  /-- `VRCP` (R84): Correctly rounded lane-wise reciprocal. -/
  | vrcp (g : BitVec 3) (d : BitVec 4) (a : BitVec 4) (m : RMode)
  /-- `VRSQ` (R84): Correctly rounded lane-wise reciprocal square root. -/
  | vrsq (g : BitVec 3) (d : BitVec 4) (a : BitVec 4) (m : RMode)
  /-- `VEXP2` (R84): Correctly rounded lane-wise 2^x. -/
  | vexp2 (g : BitVec 3) (d : BitVec 4) (a : BitVec 4) (m : RMode)
  /-- `VLOG2` (R84): Correctly rounded lane-wise log2. -/
  | vlog2 (g : BitVec 3) (d : BitVec 4) (a : BitVec 4) (m : RMode)
  /-- `VNEG_F` (R138): Inverts each lane's sign bit. -/
  | vnegF (g : BitVec 3) (d : BitVec 4) (a : BitVec 4)
  /-- `VABS_F` (R138): Clears each lane's sign bit. -/
  | vabsF (g : BitVec 3) (d : BitVec 4) (a : BitVec 4)
  /-- `VCPYS_F` (R138): Copies the sign of vb onto va lane-wise. -/
  | vcpysF (g : BitVec 3) (d : BitVec 4) (a : BitVec 4) (b : BitVec 4)
  /-- `VCLASS_F` (R138): Writes each lane's class word. -/
  | vclassF (g : BitVec 3) (d : BitVec 4) (a : BitVec 4)
  /-- `VRND_F` (R138): Rounds each lane to an integral FP32 value. -/
  | vrndF (g : BitVec 3) (d : BitVec 4) (a : BitVec 4) (m : RMode)
  /-- `VADD_I` (R139): Lane-wise 32-bit add. -/
  | vaddI (g : BitVec 3) (d : BitVec 4) (a : BitVec 4) (b : BitVec 4)
  /-- `VSUB_I` (R139): Lane-wise 32-bit subtract. -/
  | vsubI (g : BitVec 3) (d : BitVec 4) (a : BitVec 4) (b : BitVec 4)
  /-- `VMUL_I` (R139): Lane-wise low 32-bit product. -/
  | vmulI (g : BitVec 3) (d : BitVec 4) (a : BitVec 4) (b : BitVec 4)
  /-- `VMULH_I` (R139): Lane-wise high 32 bits of a signed product. -/
  | vmulhI (g : BitVec 3) (d : BitVec 4) (a : BitVec 4) (b : BitVec 4)
  /-- `VMULH_U` (R139): Lane-wise high 32 bits of an unsigned product. -/
  | vmulhU (g : BitVec 3) (d : BitVec 4) (a : BitVec 4) (b : BitVec 4)
  /-- `VMIN_I` (R139): Lane-wise signed minimum. -/
  | vminI (g : BitVec 3) (d : BitVec 4) (a : BitVec 4) (b : BitVec 4)
  /-- `VMIN_U` (R139): Lane-wise unsigned minimum. -/
  | vminU (g : BitVec 3) (d : BitVec 4) (a : BitVec 4) (b : BitVec 4)
  /-- `VMAX_I` (R139): Lane-wise signed maximum. -/
  | vmaxI (g : BitVec 3) (d : BitVec 4) (a : BitVec 4) (b : BitVec 4)
  /-- `VMAX_U` (R139): Lane-wise unsigned maximum. -/
  | vmaxU (g : BitVec 3) (d : BitVec 4) (a : BitVec 4) (b : BitVec 4)
  /-- `VADDS_I` (R139): Lane-wise INT32 saturating add. -/
  | vaddsI (g : BitVec 3) (d : BitVec 4) (a : BitVec 4) (b : BitVec 4)
  /-- `VSUBS_I` (R139): Lane-wise INT32 saturating subtract. -/
  | vsubsI (g : BitVec 3) (d : BitVec 4) (a : BitVec 4) (b : BitVec 4)
  /-- `VADDS_U` (R139): Lane-wise NAT32 saturating add. -/
  | vaddsU (g : BitVec 3) (d : BitVec 4) (a : BitVec 4) (b : BitVec 4)
  /-- `VSUBS_U` (R139): Lane-wise NAT32 saturating subtract. -/
  | vsubsU (g : BitVec 3) (d : BitVec 4) (a : BitVec 4) (b : BitVec 4)
  /-- `VABS_I` (R139): Lane-wise integer absolute value. -/
  | vabsI (g : BitVec 3) (d : BitVec 4) (a : BitVec 4)
  /-- `VNEG_I` (R139): Lane-wise integer negation. -/
  | vnegI (g : BitVec 3) (d : BitVec 4) (a : BitVec 4)
  /-- `VMADD_I` (R139): Lane-wise integer multiply-add into vd. -/
  | vmaddI (g : BitVec 3) (d : BitVec 4) (a : BitVec 4) (b : BitVec 4)
  /-- `VAND` (R139): Lane-wise AND. -/
  | vand (g : BitVec 3) (d : BitVec 4) (a : BitVec 4) (b : BitVec 4)
  /-- `VOR` (R139): Lane-wise OR. -/
  | vor (g : BitVec 3) (d : BitVec 4) (a : BitVec 4) (b : BitVec 4)
  /-- `VXOR` (R139): Lane-wise XOR. -/
  | vxor (g : BitVec 3) (d : BitVec 4) (a : BitVec 4) (b : BitVec 4)
  /-- `VANDN` (R139): Lane-wise a AND NOT b. -/
  | vandn (g : BitVec 3) (d : BitVec 4) (a : BitVec 4) (b : BitVec 4)
  /-- `VNOT` (R139): Lane-wise complement. -/
  | vnot (g : BitVec 3) (d : BitVec 4) (a : BitVec 4)
  /-- `VSHL` (R139): Lane-wise left shift by vb. -/
  | vshl (g : BitVec 3) (d : BitVec 4) (a : BitVec 4) (b : BitVec 4)
  /-- `VSHR` (R139): Lane-wise logical right shift by vb. -/
  | vshr (g : BitVec 3) (d : BitVec 4) (a : BitVec 4) (b : BitVec 4)
  /-- `VSRA` (R139): Lane-wise arithmetic right shift by vb. -/
  | vsra (g : BitVec 3) (d : BitVec 4) (a : BitVec 4) (b : BitVec 4)
  /-- `VSHLI` (R139): Lane-wise left shift by constant k. -/
  | vshli (g : BitVec 3) (d : BitVec 4) (a : BitVec 4) (k : BitVec 5)
  /-- `VSHRI` (R139): Lane-wise logical right shift by k. -/
  | vshri (g : BitVec 3) (d : BitVec 4) (a : BitVec 4) (k : BitVec 5)
  /-- `VSRAI` (R139): Lane-wise arithmetic right shift by k. -/
  | vsrai (g : BitVec 3) (d : BitVec 4) (a : BitVec 4) (k : BitVec 5)
  /-- `VPOPC` (R139): Lane-wise one-bit count. -/
  | vpopc (g : BitVec 3) (d : BitVec 4) (a : BitVec 4)
  /-- `VCLZ` (R139): Lane-wise leading-zero count. -/
  | vclz (g : BitVec 3) (d : BitVec 4) (a : BitVec 4)
  /-- `VFCMP_EQ` (R140): Lane-wise FP32 ordered equal mask. -/
  | vfcmpEq (g : BitVec 3) (d : BitVec 4) (a : BitVec 4) (b : BitVec 4)
  /-- `VFCMP_LT` (R140): Lane-wise FP32 ordered less-than mask. -/
  | vfcmpLt (g : BitVec 3) (d : BitVec 4) (a : BitVec 4) (b : BitVec 4)
  /-- `VFCMP_LE` (R140): Lane-wise FP32 ordered less-or-equal mask. -/
  | vfcmpLe (g : BitVec 3) (d : BitVec 4) (a : BitVec 4) (b : BitVec 4)
  /-- `VFCMP_UN` (R140): Lane-wise FP32 unordered mask. -/
  | vfcmpUn (g : BitVec 3) (d : BitVec 4) (a : BitVec 4) (b : BitVec 4)
  /-- `VFCMP_NE` (R140): Lane-wise FP32 not-equal mask. -/
  | vfcmpNe (g : BitVec 3) (d : BitVec 4) (a : BitVec 4) (b : BitVec 4)
  /-- `VCMP_EQ` (R140): Lane-wise integer equal mask. -/
  | vcmpEq (g : BitVec 3) (d : BitVec 4) (a : BitVec 4) (b : BitVec 4)
  /-- `VCMP_NE` (R140): Lane-wise integer not-equal mask. -/
  | vcmpNe (g : BitVec 3) (d : BitVec 4) (a : BitVec 4) (b : BitVec 4)
  /-- `VCMP_LT` (R140): Lane-wise signed less-than mask. -/
  | vcmpLt (g : BitVec 3) (d : BitVec 4) (a : BitVec 4) (b : BitVec 4)
  /-- `VCMP_LE` (R140): Lane-wise signed less-or-equal mask. -/
  | vcmpLe (g : BitVec 3) (d : BitVec 4) (a : BitVec 4) (b : BitVec 4)
  /-- `VCMP_LTU` (R140): Lane-wise unsigned less-than mask. -/
  | vcmpLtu (g : BitVec 3) (d : BitVec 4) (a : BitVec 4) (b : BitVec 4)
  /-- `VCMP_LEU` (R140): Lane-wise unsigned less-or-equal mask. -/
  | vcmpLeu (g : BitVec 3) (d : BitVec 4) (a : BitVec 4) (b : BitVec 4)
  /-- `VSEL` (R141): Selects lanes of va or vb by the set lanes of vc. -/
  | vsel (g : BitVec 3) (d : BitVec 4) (a : BitVec 4) (b : BitVec 4) (c : BitVec 4)
  /-- `VANY` (R141): Sets a predicate if any lane is set. -/
  | vany (g : BitVec 3) (d : BitVec 3) (a : BitVec 4)
  /-- `VALL` (R141): Sets a predicate if every lane is set. -/
  | vall (g : BitVec 3) (d : BitVec 3) (a : BitVec 4)
  /-- `VCVT_F_I` (R143): Rounds INT32 lanes to FP32. -/
  | vcvtFI (g : BitVec 3) (d : BitVec 4) (a : BitVec 4) (m : RMode)
  /-- `VCVT_F_U` (R143): Rounds NAT32 lanes to FP32. -/
  | vcvtFU (g : BitVec 3) (d : BitVec 4) (a : BitVec 4) (m : RMode)
  /-- `VCVT_I_F` (R143): Converts FP32 lanes to saturated INT32. -/
  | vcvtIF (g : BitVec 3) (d : BitVec 4) (a : BitVec 4) (m : RMode)
  /-- `VCVT_U_F` (R143): Converts FP32 lanes to saturated NAT32. -/
  | vcvtUF (g : BitVec 3) (d : BitVec 4) (a : BitVec 4) (m : RMode)
  /-- `VPACK_F16` (R143): Packs 128 FP32 sources into FP16 elements. -/
  | vpackF16 (g : BitVec 3) (d : BitVec 4) (a : BitVec 4) (b : BitVec 4) (m : RMode)
  /-- `VPACK_BF16` (R143): Packs 128 FP32 sources into BF16 elements. -/
  | vpackBf16 (g : BitVec 3) (d : BitVec 4) (a : BitVec 4) (b : BitVec 4) (m : RMode)
  /-- `VPACK_E4M3_LO` (R143): Packs into E4M3 bytes 0-127, keeping the other half. -/
  | vpackE4m3Lo (g : BitVec 3) (d : BitVec 4) (a : BitVec 4) (b : BitVec 4) (m : RMode)
  /-- `VPACK_E4M3_HI` (R143): Packs into E4M3 bytes 128-255. -/
  | vpackE4m3Hi (g : BitVec 3) (d : BitVec 4) (a : BitVec 4) (b : BitVec 4) (m : RMode)
  /-- `VPACK_E5M2_LO` (R143): Packs into E5M2 bytes 0-127. -/
  | vpackE5m2Lo (g : BitVec 3) (d : BitVec 4) (a : BitVec 4) (b : BitVec 4) (m : RMode)
  /-- `VPACK_E5M2_HI` (R143): Packs into E5M2 bytes 128-255. -/
  | vpackE5m2Hi (g : BitVec 3) (d : BitVec 4) (a : BitVec 4) (b : BitVec 4) (m : RMode)
  /-- `VPACK_I16` (R143): Packs 128 lanes into saturated INT16. -/
  | vpackI16 (g : BitVec 3) (d : BitVec 4) (a : BitVec 4) (b : BitVec 4)
  /-- `VPACK_I8_LO` (R143): Packs into saturated INT8 bytes 0-127. -/
  | vpackI8Lo (g : BitVec 3) (d : BitVec 4) (a : BitVec 4) (b : BitVec 4)
  /-- `VPACK_I8_HI` (R143): Packs into saturated INT8 bytes 128-255. -/
  | vpackI8Hi (g : BitVec 3) (d : BitVec 4) (a : BitVec 4) (b : BitVec 4)
  /-- `VUNPK_F16` (R143): Unpacks FP16 elements of one part exactly to FP32. -/
  | vunpkF16 (g : BitVec 3) (d : BitVec 4) (a : BitVec 4) (p : BitVec 1)
  /-- `VUNPK_BF16` (R143): Unpacks BF16 elements exactly to FP32. -/
  | vunpkBf16 (g : BitVec 3) (d : BitVec 4) (a : BitVec 4) (p : BitVec 1)
  /-- `VUNPK_E4M3` (R143): Unpacks E4M3 bytes exactly to FP32. -/
  | vunpkE4m3 (g : BitVec 3) (d : BitVec 4) (a : BitVec 4) (p : BitVec 2)
  /-- `VUNPK_E5M2` (R143): Unpacks E5M2 bytes exactly to FP32. -/
  | vunpkE5m2 (g : BitVec 3) (d : BitVec 4) (a : BitVec 4) (p : BitVec 2)
  /-- `VUNPK_TC8` (R143): Decodes TC8 bytes through a codebook to FP32. -/
  | vunpkTc8 (g : BitVec 3) (d : BitVec 4) (a : BitVec 4) (k : BitVec 2) (p : BitVec 2)
  /-- `VUNPK_I16` (R143): Sign-extends INT16 elements to lanes. -/
  | vunpkI16 (g : BitVec 3) (d : BitVec 4) (a : BitVec 4) (p : BitVec 1)
  /-- `VUNPK_I8` (R143): Sign-extends INT8 elements to lanes. -/
  | vunpkI8 (g : BitVec 3) (d : BitVec 4) (a : BitVec 4) (p : BitVec 2)
  /-- `VRED_ADD_F` (R144): Fixed-tree FP32 sum of all lanes broadcast to vd. -/
  | vredAddF (g : BitVec 3) (d : BitVec 4) (a : BitVec 4) (m : RMode)
  /-- `VRED_MIN_F` (R146): FP32 minimum of all lanes. -/
  | vredMinF (g : BitVec 3) (d : BitVec 4) (a : BitVec 4)
  /-- `VRED_MAX_F` (R146): FP32 maximum of all lanes. -/
  | vredMaxF (g : BitVec 3) (d : BitVec 4) (a : BitVec 4)
  /-- `VRED_ADD_I` (R146): Wrapping integer sum of all lanes. -/
  | vredAddI (g : BitVec 3) (d : BitVec 4) (a : BitVec 4)
  /-- `VRED_MIN_I` (R146): Signed minimum of all lanes. -/
  | vredMinI (g : BitVec 3) (d : BitVec 4) (a : BitVec 4)
  /-- `VRED_MAX_I` (R146): Signed maximum of all lanes. -/
  | vredMaxI (g : BitVec 3) (d : BitVec 4) (a : BitVec 4)
  /-- `VRED_MIN_U` (R146): Unsigned minimum of all lanes. -/
  | vredMinU (g : BitVec 3) (d : BitVec 4) (a : BitVec 4)
  /-- `VRED_MAX_U` (R146): Unsigned maximum of all lanes. -/
  | vredMaxU (g : BitVec 3) (d : BitVec 4) (a : BitVec 4)
  /-- `VSCAN_ADD_F` (R145): Fixed six-step FP32 inclusive prefix sum. -/
  | vscanAddF (g : BitVec 3) (d : BitVec 4) (a : BitVec 4) (m : RMode)
  /-- `VSCAN_ADD_I` (R145): Integer inclusive prefix sum. -/
  | vscanAddI (g : BitVec 3) (d : BitVec 4) (a : BitVec 4)
  /-- `VMOV` (R142): Copies all 64 lanes. -/
  | vmov (g : BitVec 3) (d : BitVec 4) (a : BitVec 4)
  /-- `VIOTA` (R142): Sets lane i to i. -/
  | viota (g : BitVec 3) (d : BitVec 4)
  /-- `VLD` (R153): Contiguous global vector load through L1D. -/
  | vld (g : BitVec 3) (d : BitVec 4) (s : BitVec 5)
  /-- `VLD_L` (R153): Contiguous local vector load. -/
  | vldL (g : BitVec 3) (d : BitVec 4) (s : BitVec 5)
  /-- `VLDX` (R155): Contiguous global vector load from L2, bypassing L1D. -/
  | vldx (g : BitVec 3) (d : BitVec 4) (s : BitVec 5)
  /-- `VLDS` (R153): Strided global vector load. -/
  | vlds (g : BitVec 3) (d : BitVec 4) (s : BitVec 5) (x : BitVec 3)
  /-- `VLDS_L` (R153): Strided local vector load. -/
  | vldsL (g : BitVec 3) (d : BitVec 4) (s : BitVec 5) (x : BitVec 3)
  /-- `VGTH` (R153): Indexed global vector gather. -/
  | vgth (g : BitVec 3) (d : BitVec 4) (a : BitVec 4) (s : BitVec 5)
  /-- `VGTH_L` (R153): Indexed local vector gather. -/
  | vgthL (g : BitVec 3) (d : BitVec 4) (a : BitVec 4) (s : BitVec 5)
  /-- `VST` (R153): Contiguous global vector store. -/
  | vst (g : BitVec 3) (a : BitVec 4) (s : BitVec 5)
  /-- `VST_L` (R153): Contiguous local vector store. -/
  | vstL (g : BitVec 3) (a : BitVec 4) (s : BitVec 5)
  /-- `VSTS` (R153): Strided global vector store. -/
  | vsts (g : BitVec 3) (a : BitVec 4) (s : BitVec 5) (x : BitVec 3)
  /-- `VSTS_L` (R153): Strided local vector store. -/
  | vstsL (g : BitVec 3) (a : BitVec 4) (s : BitVec 5) (x : BitVec 3)
  /-- `VSCT` (R156): Indexed global vector scatter, highest lane winning. -/
  | vsct (g : BitVec 3) (i : BitVec 4) (a : BitVec 4) (s : BitVec 5)
  /-- `VSCT_L` (R156): Indexed local vector scatter. -/
  | vsctL (g : BitVec 3) (i : BitVec 4) (a : BitVec 4) (s : BitVec 5)
  /-- `VSTM` (R153): Contiguous global store of the set lanes of vm. -/
  | vstm (g : BitVec 3) (m : BitVec 4) (a : BitVec 4) (s : BitVec 5)
  /-- `VSTM_L` (R153): Contiguous local masked store. -/
  | vstmL (g : BitVec 3) (m : BitVec 4) (a : BitVec 4) (s : BitVec 5)
  /-- `VPERM` (R147): Permutes lanes by an index vector. -/
  | vperm (g : BitVec 3) (d : BitVec 4) (a : BitVec 4) (b : BitVec 4)
  /-- `VROT` (R147): Rotates lanes by k. -/
  | vrot (g : BitVec 3) (d : BitVec 4) (a : BitVec 4) (k : BitVec 6)
  /-- `VBCST` (R147): Broadcasts lane k. -/
  | vbcst (g : BitVec 3) (d : BitVec 4) (a : BitVec 4) (k : BitVec 6)
  /-- `VZIP_LO` (R147): Interleaves the low halves of two vectors. -/
  | vzipLo (g : BitVec 3) (d : BitVec 4) (a : BitVec 4) (b : BitVec 4)
  /-- `VZIP_HI` (R147): Interleaves the high halves of two vectors. -/
  | vzipHi (g : BitVec 3) (d : BitVec 4) (a : BitVec 4) (b : BitVec 4)
  /-- `VUZP_EV` (R147): Gathers the even lanes of two vectors. -/
  | vuzpEv (g : BitVec 3) (d : BitVec 4) (a : BitVec 4) (b : BitVec 4)
  /-- `VUZP_OD` (R147): Gathers the odd lanes of two vectors. -/
  | vuzpOd (g : BitVec 3) (d : BitVec 4) (a : BitVec 4) (b : BitVec 4)
  /-- `VRNG` (R148): Draws 32 random bits per lane from G. -/
  | vrng (g : BitVec 3) (d : BitVec 4) (a : BitVec 4) (k : BitVec 3)
  /-- `VRNG_U` (R148): Draws a uniform FP32 in [0,1) per lane from G. -/
  | vrngU (g : BitVec 3) (d : BitVec 4) (a : BitVec 4) (k : BitVec 3)
  /-- `VFROMT` (R149): Copies four tile rows into a vector. -/
  | vfromt (g : BitVec 3) (d : BitVec 4) (a : BitVec 4) (q : BitVec 4)
  /-- `VTOT` (R149): Writes a vector into four tile rows. -/
  | vtot (g : BitVec 3) (d : BitVec 4) (a : BitVec 4) (q : BitVec 4)
  /-- `VEXT` (R149): Extracts lane k into a scalar. -/
  | vext (g : BitVec 3) (d : BitVec 5) (a : BitVec 4) (k : BitVec 6)
  /-- `VINS` (R149): Inserts a scalar into lane k. -/
  | vins (g : BitVec 3) (d : BitVec 4) (a : BitVec 5) (k : BitVec 6)
  /-- `VBCS` (R149): Broadcasts a scalar to every lane. -/
  | vbcs (g : BitVec 3) (d : BitVec 4) (a : BitVec 5)
  /-- `CBK_ENC_LO` (R150): Encodes values to nearest TC8 codes into bytes 0-127 via a sorted codebook. -/
  | cbkEncLo (g : BitVec 3) (d : BitVec 4) (a : BitVec 4) (b : BitVec 4) (k : BitVec 2)
  /-- `CBK_ENC_HI` (R150): Encodes values to TC8 codes into bytes 128-255. -/
  | cbkEncHi (g : BitVec 3) (d : BitVec 4) (a : BitVec 4) (b : BitVec 4) (k : BitVec 2)
  /-- `VENC_F4` (R151): Encodes 128 values as four F4 blocks into an F4 vector image. -/
  | vencF4 (g : BitVec 3) (d : BitVec 4) (a : BitVec 4) (b : BitVec 4) (m : RMode)
  /-- `VDEC_F4` (R151): Decodes one part of an F4 vector image to FP32. -/
  | vdecF4 (g : BitVec 3) (d : BitVec 4) (a : BitVec 4) (p : BitVec 1)
  /-- `TLD` (R177): Loads a tile window through a handle. -/
  | tld (g : BitVec 3) (d : BitVec 4) (a : BitVec 4) (s : BitVec 5)
  /-- `TLD_T` (R178): Loads the transpose of a tile window. -/
  | tldT (g : BitVec 3) (d : BitVec 4) (a : BitVec 4) (s : BitVec 5)
  /-- `TLD_P6` (R179): Unpacks P6 codes into TC8 tile bytes. -/
  | tldP6 (g : BitVec 3) (d : BitVec 4) (a : BitVec 4) (s : BitVec 5)
  /-- `TST` (R180): Stores a tile window through a handle. -/
  | tst (g : BitVec 3) (t : BitVec 4) (a : BitVec 4) (s : BitVec 5)
  /-- `TMOV` (R182): Copies a tile with its scale field. -/
  | tmov (g : BitVec 3) (d : BitVec 4) (a : BitVec 4)
  /-- `TZERO` (R182): Zeroes a tile and sets scales to 0x7F. -/
  | tzero (g : BitVec 3) (d : BitVec 4)
  /-- `TCVT` (R184): Converts tile elements between tile formats. -/
  | tcvt (g : BitVec 3) (d : BitVec 4) (a : BitVec 4) (s : TileFmt) (p : BitVec 2) (k : BitVec 2) (f : TileFmt)
  /-- `TRED` (R185): Sums each tile row exactly, rounding once to FP32. -/
  | tred (g : BitVec 3) (d : BitVec 4) (a : BitVec 4) (k : BitVec 2) (m : RMode) (f : TileFmt)
  /-- `MMA` (R187): Accumulates A times B transposed into an accumulator with one rounding per element. -/
  | mma (g : BitVec 3) (d : BitVec 2) (a : BitVec 4) (b : BitVec 4) (m : RMode) (p : MmaPair)
  /-- `MMA_SP` (R188): MMA with a 2:4-sparse A operand and pattern metadata. -/
  | mmaSp (g : BitVec 3) (d : BitVec 2) (a : BitVec 4) (b : BitVec 4) (t : BitVec 4) (p : MmaPair)
  /-- `MMA_TC` (R189): MMA with TC8 operands decoded through codebooks. -/
  | mmaTc (g : BitVec 3) (d : BitVec 2) (a : BitVec 4) (b : BitVec 4) (y : BitVec 2) (x : BitVec 2) (p : TcPair)
  /-- `CZERO` (R190): Sets every accumulator element to +0. -/
  | czero (g : BitVec 3) (d : BitVec 2)
  /-- `CMOV` (R190): Copies an accumulator. -/
  | cmov (g : BitVec 3) (d : BitVec 2) (a : BitVec 2)
  /-- `CLD` (R191): Loads 64x64 W36 containers into an accumulator. -/
  | cld (g : BitVec 3) (d : BitVec 2) (a : BitVec 4)
  /-- `CST` (R191): Stores an accumulator as W36 containers. -/
  | cst (g : BitVec 3) (d : BitVec 2) (a : BitVec 4)
  /-- `CCVT_E4M3` (R192): Converts accumulator elements to an E4M3 tile. -/
  | ccvtE4m3 (g : BitVec 3) (d : BitVec 4) (a : BitVec 2) (p : BitVec 4) (m : RMode)
  /-- `CCVT_E5M2` (R192): Converts accumulator elements to an E5M2 tile. -/
  | ccvtE5m2 (g : BitVec 3) (d : BitVec 4) (a : BitVec 2) (p : BitVec 4) (m : RMode)
  /-- `CCVT_F16` (R192): Converts accumulator elements to FP16 tile columns. -/
  | ccvtF16 (g : BitVec 3) (d : BitVec 4) (a : BitVec 2) (p : BitVec 4) (m : RMode)
  /-- `CCVT_BF16` (R192): Converts accumulator elements to BF16 tile columns. -/
  | ccvtBf16 (g : BitVec 3) (d : BitVec 4) (a : BitVec 2) (p : BitVec 4) (m : RMode)
  /-- `CCVT_F32` (R192): Converts accumulator elements to FP32 tile columns. -/
  | ccvtF32 (g : BitVec 3) (d : BitVec 4) (a : BitVec 2) (p : BitVec 4) (m : RMode)
  /-- `CCVT_F4` (R192): Encodes accumulator rows as F4 blocks into a tile. -/
  | ccvtF4 (g : BitVec 3) (d : BitVec 4) (a : BitVec 2) (p : BitVec 4) (m : RMode)
  /-- `CSCL_R` (R193): Scales accumulator rows by vector lanes. -/
  | csclR (g : BitVec 3) (d : BitVec 2) (a : BitVec 2) (v : BitVec 4) (m : RMode)
  /-- `CSCL_C` (R193): Scales accumulator columns by vector lanes. -/
  | csclC (g : BitVec 3) (d : BitVec 2) (a : BitVec 2) (v : BitVec 4) (m : RMode)
  /-- `CBK_LD` (R194): Loads a 1,024-byte codebook image from global memory and sets its sorted flag. -/
  | cbkLd (g : BitVec 3) (d : BitVec 2) (s : BitVec 5)
  /-- `CBK_LD_L` (R194): Loads a codebook image from the scratchpad. -/
  | cbkLdL (g : BitVec 3) (d : BitVec 2) (s : BitVec 5)
  /-- `ERET` (R208): Serialising return from a trap handler to user level at SYS.EPC. -/
  | eret
  /-- `ERET_STEP` (R208): Returns to user level with single-step armed. -/
  | eretStep
  /-- `BRK` (R208): Raises BREAK with code k. -/
  | brk (g : BitVec 3) (k : BitVec 6)
  /-- `RDUS` (R208): Reads the user S28 or S29 at supervisor level. -/
  | rdus (g : BitVec 3) (d : BitVec 5) (a : BitVec 1)
  /-- `WRUS` (R208): Writes the user S28 or S29 at supervisor level. -/
  | wrus (g : BitVec 3) (d : BitVec 1) (a : BitVec 5)
  /-- `RDTIME` (R208): Reads the die time, optionally converted to die 0's base. -/
  | rdtime (g : BitVec 3) (d : BitVec 5) (k : BitVec 1)
  /-- `LDA` (R239): Acquire load at a scope, read at the home. -/
  | lda (g : BitVec 3) (d : BitVec 5) (a : BitVec 5) (r : BitVec 1) (s : Scope) (z : BitVec 1)
  /-- `STL` (R240): Release store at a scope. -/
  | stl (g : BitVec 3) (r : BitVec 1) (s : Scope) (a : BitVec 5) (b : BitVec 5) (z : BitVec 1)
  /-- `STR` (R242): Remote store into another logical core's scratchpad. -/
  | str (g : BitVec 3) (a : BitVec 5) (b : BitVec 5) (z : BitVec 2)
  /-- `ATOM_ADD` (R244): Atomic add at the home returning the old value. -/
  | atomAdd (g : BitVec 3) (d : BitVec 5) (a : BitVec 5) (b : BitVec 5) (z : BitVec 1)
  /-- `ATOM_MIN` (R244): Atomic signed minimum returning the old value. -/
  | atomMin (g : BitVec 3) (d : BitVec 5) (a : BitVec 5) (b : BitVec 5) (z : BitVec 1)
  /-- `ATOM_MAX` (R244): Atomic signed maximum returning the old value. -/
  | atomMax (g : BitVec 3) (d : BitVec 5) (a : BitVec 5) (b : BitVec 5) (z : BitVec 1)
  /-- `ATOM_AND` (R244): Atomic AND returning the old value. -/
  | atomAnd (g : BitVec 3) (d : BitVec 5) (a : BitVec 5) (b : BitVec 5) (z : BitVec 1)
  /-- `ATOM_OR` (R244): Atomic OR returning the old value. -/
  | atomOr (g : BitVec 3) (d : BitVec 5) (a : BitVec 5) (b : BitVec 5) (z : BitVec 1)
  /-- `ATOM_XOR` (R244): Atomic XOR returning the old value. -/
  | atomXor (g : BitVec 3) (d : BitVec 5) (a : BitVec 5) (b : BitVec 5) (z : BitVec 1)
  /-- `ATOM_XCHG` (R244): Atomic exchange. -/
  | atomXchg (g : BitVec 3) (d : BitVec 5) (a : BitVec 5) (b : BitVec 5) (z : BitVec 1)
  /-- `ATOM_CAS` (R244): Atomic compare-and-swap. -/
  | atomCas (g : BitVec 3) (d : BitVec 5) (a : BitVec 5) (b : BitVec 5) (z : BitVec 1)
  /-- `ATOM_FADD_F32` (R244): Atomic FP32 add rounded to nearest even. -/
  | atomFaddF32 (g : BitVec 3) (d : BitVec 5) (a : BitVec 5) (b : BitVec 5)
  /-- `RED_ADD_W` (R244): 4-byte reduction add without return. -/
  | redAddW (g : BitVec 3) (a : BitVec 5) (b : BitVec 5)
  /-- `RED_ADD_D` (R244): 8-byte reduction add without return. -/
  | redAddD (g : BitVec 3) (a : BitVec 5) (b : BitVec 5)
  /-- `RED_MIN_W` (R244): 4-byte reduction minimum. -/
  | redMinW (g : BitVec 3) (a : BitVec 5) (b : BitVec 5)
  /-- `RED_MIN_D` (R244): 8-byte reduction minimum. -/
  | redMinD (g : BitVec 3) (a : BitVec 5) (b : BitVec 5)
  /-- `RED_MAX_W` (R244): 4-byte reduction maximum. -/
  | redMaxW (g : BitVec 3) (a : BitVec 5) (b : BitVec 5)
  /-- `RED_MAX_D` (R244): 8-byte reduction maximum. -/
  | redMaxD (g : BitVec 3) (a : BitVec 5) (b : BitVec 5)
  /-- `RED_AND_W` (R244): 4-byte reduction AND. -/
  | redAndW (g : BitVec 3) (a : BitVec 5) (b : BitVec 5)
  /-- `RED_AND_D` (R244): 8-byte reduction AND. -/
  | redAndD (g : BitVec 3) (a : BitVec 5) (b : BitVec 5)
  /-- `RED_OR_W` (R244): 4-byte reduction OR. -/
  | redOrW (g : BitVec 3) (a : BitVec 5) (b : BitVec 5)
  /-- `RED_OR_D` (R244): 8-byte reduction OR. -/
  | redOrD (g : BitVec 3) (a : BitVec 5) (b : BitVec 5)
  /-- `RED_XOR_W` (R244): 4-byte reduction XOR. -/
  | redXorW (g : BitVec 3) (a : BitVec 5) (b : BitVec 5)
  /-- `RED_XOR_D` (R244): 8-byte reduction XOR. -/
  | redXorD (g : BitVec 3) (a : BitVec 5) (b : BitVec 5)
  /-- `RED_ADD_F32` (R246): FP32 reduction add rounded at the home. -/
  | redAddF32 (g : BitVec 3) (a : BitVec 5) (b : BitVec 5)
  /-- `LDFE` (R249): Waits for a full word, reads it and empties it. -/
  | ldfe (g : BitVec 3) (d : BitVec 5) (a : BitVec 5)
  /-- `LDFF` (R249): Waits for a full word and reads it, leaving it full. -/
  | ldff (g : BitVec 3) (d : BitVec 5) (a : BitVec 5)
  /-- `STFL` (R249): Writes a word and marks it full. -/
  | stfl (g : BitVec 3) (a : BitVec 5) (b : BitVec 5)
  /-- `FECLR` (R249): Zeroes a word and marks it empty. -/
  | feclr (g : BitVec 3) (a : BitVec 5)
  /-- `LOCK` (R251): Tries to lock an L2 line for the context. -/
  | lock (g : BitVec 3) (d : BitVec 3) (a : BitVec 5)
  /-- `UNLOCK` (R251): Unlocks a line charged to the context. -/
  | unlock (g : BitVec 3) (a : BitVec 5)
  /-- `PIN_L` (R252): Pins a scratchpad page if room allows. -/
  | pinL (g : BitVec 3) (d : BitVec 3) (a : BitVec 5)
  /-- `UNPIN_L` (R252): Clears a scratchpad page pin. -/
  | unpinL (g : BitVec 3) (a : BitVec 5)
  /-- `PLOCK_L` (R253): Tries to take the page lock of a scratchpad page. -/
  | plockL (g : BitVec 3) (d : BitVec 3) (a : BitVec 5)
  /-- `PUNLOCK_L` (R253): Releases the stream's page lock after older accesses perform. -/
  | punlockL (g : BitVec 3) (a : BitVec 5)
  /-- `FENCE_ACQ` (R284): Acquire fence at a scope, optionally ranged, invalidating caches and L1I. -/
  | fenceAcq (g : BitVec 3) (r : BitVec 1) (m : BitVec 8) (s : Scope)
  /-- `FENCE_REL` (R284): Release fence waiting for older (tracked) accesses to perform. -/
  | fenceRel (g : BitVec 3) (r : BitVec 1) (m : BitVec 8) (s : Scope)
  /-- `FENCE_AR` (R284): Combined acquire-release fence. -/
  | fenceAr (g : BitVec 3) (r : BitVec 1) (m : BitVec 8) (s : Scope)
  /-- `MON_ARM` (R256): Arms monitor k on a line at its home slice. -/
  | monArm (g : BitVec 3) (a : BitVec 5) (k : BitVec 2)
  /-- `MON_DISARM` (R256): Disarms monitor k. -/
  | monDisarm (g : BitVec 3) (k : BitVec 2)
  /-- `MON_WAIT` (R258): Waits for a fired monitor, a deadline or an event. -/
  | monWait (g : BitVec 3) (d : BitVec 5) (a : BitVec 5)
  /-- `COPY_G2L` (R263): Starts an asynchronous global-to-local tensor copy with a token. -/
  | copyG2l (g : BitVec 3) (d : BitVec 4) (a : BitVec 4) (s : BitVec 5)
  /-- `COPY_L2G` (R263): Starts an asynchronous local-to-global tensor copy. -/
  | copyL2g (g : BitVec 3) (d : BitVec 4) (a : BitVec 4) (s : BitVec 5)
  /-- `COPY_G2L_B` (R263): Global-to-local copy bound to a barrier phase. -/
  | copyG2lB (g : BitVec 3) (d : BitVec 4) (a : BitVec 4) (s : BitVec 5) (k : BitVec 3)
  /-- `COPY_L2G_B` (R263): Local-to-global copy bound to a barrier phase. -/
  | copyL2gB (g : BitVec 3) (d : BitVec 4) (a : BitVec 4) (s : BitVec 5) (k : BitVec 3)
  /-- `COPY_RESUME` (R266): Restarts a faulted copy record from its progress. -/
  | copyResume (g : BitVec 3) (s : BitVec 5)
  /-- `COPY_CANCEL` (R266): Frees a faulted copy record and writes status 33. -/
  | copyCancel (g : BitVec 3) (s : BitVec 5)
  /-- `COPY_CHK` (R266): Raises COPYFAULT if the token records a fault. -/
  | copyChk (g : BitVec 3) (s : BitVec 5)
  /-- `TASK_SPAWN` (R304): Inserts a task from a 64-byte image into a die's heap. -/
  | taskSpawn (g : BitVec 3) (d : BitVec 3) (a : BitVec 5) (x : BitVec 1)
  /-- `TASK_NEXT` (R305): Ends the running task and waits for a new one from the heap. -/
  | taskNext (g : BitVec 3)
  /-- `TASK_DONE` (R305): Ends the running task and makes the stream idle. -/
  | taskDone (g : BitVec 3)
  /-- `TASK_YIELD` (R305): Reinserts the running task with a new key and takes another. -/
  | taskYield (g : BitVec 3) (a : BitVec 5)
  /-- `CANCEL` (R309): Removes queued tasks with a tag and signals running ones. -/
  | cancel (g : BitVec 3) (d : BitVec 5) (a : BitVec 5)
  /-- `TASK_INFO` (R306): Reads a field of the running task. -/
  | taskInfo (g : BitVec 3) (d : BitVec 5) (k : BitVec 3)
  /-- `GJOIN` (R314): Joins or creates a group. -/
  | gjoin (g : BitVec 3) (d : BitVec 3) (a : BitVec 5) (t : BitVec 1)
  /-- `GLEAVE` (R314): Leaves a group. -/
  | gleave (g : BitVec 3) (a : BitVec 5)
  /-- `BAR` (R316): Arrives at a group barrier and waits for the phase to complete. -/
  | bar (g : BitVec 3) (d : BitVec 3) (a : BitVec 5)
  /-- `BAR_ARR` (R316): Arrives at a barrier without waiting, returning the phase word. -/
  | barArr (g : BitVec 3) (d : BitVec 5) (a : BitVec 5)
  /-- `BAR_WAIT` (R316): Waits for a named barrier phase to complete. -/
  | barWait (g : BitVec 3) (d : BitVec 3) (a : BitVec 5)
  /-- `STE_CFG` (R379): Reads a configuration image and sends it to the tree's STE. -/
  | steCfg (g : BitVec 3) (d : BitVec 5) (a : BitVec 5)
  /-- `STE_INS` (R379): Sends an insertion of a leaf priority. -/
  | steIns (g : BitVec 3) (d : BitVec 5) (a : BitVec 5)
  /-- `STE_UPD` (R379): Sends a generation-checked update of a leaf priority. -/
  | steUpd (g : BitVec 3) (d : BitVec 5) (a : BitVec 5)
  /-- `STE_DRAW` (R379): Sends a stratified draw of b leaves into a buffer. -/
  | steDraw (g : BitVec 3) (d : BitVec 5) (a : BitVec 5) (b : BitVec 6)
  /-- `STE_SUM` (R379): Sends a read of a tree total, minimum, drops, epoch or leaf. -/
  | steSum (g : BitVec 3) (d : BitVec 5) (q : BitVec 6)
  /-- `RANGE_TAG` (R395): Binds a range slot to an address range. -/
  | rangeTag (g : BitVec 3) (d : BitVec 3) (a : BitVec 5) (b : BitVec 5)
  /-- `RANGE_TAG_H` (R396): Binds a range slot to a handle's bounding range. -/
  | rangeTagH (g : BitVec 3) (d : BitVec 3) (k : BitVec 4)
  /-- `RANGE_CLR` (R395): Unbinds a range slot. -/
  | rangeClr (g : BitVec 3) (d : BitVec 3)
  /-- `RANGE_RD` (R399): Reads a range slot field. -/
  | rangeRd (g : BitVec 3) (d : BitVec 5) (a : BitVec 3) (k : BitVec 2)
  /-- `NEST_CLAIM` (R402): Atomically claims a chunk of a shared loop nest and sets I0-I3. -/
  | nestClaim (g : BitVec 3) (d : BitVec 5) (a : BitVec 5)
  /-- `PERF_RD` (R406): Reads a stall-bank counter of the present context. -/
  | perfRd (g : BitVec 3) (d : BitVec 5) (a : BitVec 5)
  /-- ENTRY_ISSUE (R171): An engine takes the oldest ready TRB entry it serves. -/
  | entryIssue (core : Nat) (e : Engine)
  /-- ENGINE_COMPLETION (R165): An engine finishes an instruction and writes its destination, completing the entry. -/
  | engineCompletion (core : Nat) (e : Engine)
  /-- TRB_RETIRE (R163): Completed entries at partition heads leave the TRB in program order. -/
  | trbRetire (core : Nat)
  /-- STORE_QUEUE_PERFORM (R234): A retired store leaves the store queue toward its home or the scratchpad. -/
  | storeQueuePerform (q : Nat)
  /-- TRAP_ENTRY (R203): The oldest entry's recorded cause is raised: squash, set EPC, ECAUSE, EADDR and enter the handler. -/
  | trapEntry (q : Nat)
  /-- EVENT_TAKEN (R167): A pending event meets the stream at its event point after older entries retire. -/
  | eventTaken (q : Nat)
  /-- UNCORRECTABLE_ERROR (R215): An uncorrectable error stops the affected streams with UNCORR. -/
  | uncorrectableError (site : ErrorSite)
  /-- SCRATCHPAD_REFILL (R225): A non-resident page is filled from its backing, evicting an LRU page. -/
  | scratchpadRefill (core : Nat) (page : Nat)
  /-- PAGE_WALK (R353): A TLB miss walks the page tables and fills the TLBs or returns a fault. -/
  | pageWalk (core : Nat) (va : Word)
  /-- RDREQ (R230): A read request is served at its slice or home. -/
  | rdreq (n : Nat)
  /-- RDDATA (R230): Read data arrives at the requester with its sector records. -/
  | rddata (n : Nat)
  /-- WRITE (R232): Write data reaches the home, is checked and merged, and sets armed monitors. -/
  | write (q : Nat)
  /-- WRACK (R271): A write acknowledgement reaches the writer and marks the write performed. -/
  | wrack (q : Nat)
  /-- ATOM (R340): An atomic or reduction request is carried out once at its home, deduplicated by reqnum. -/
  | atom (q : Nat)
  /-- ATREP (R245): An atomic reply writes the old value and wakes the stream. -/
  | atrep (q : Nat)
  /-- STR_PACKET (R242): A remote store lands in the target scratchpad and triggers a WRACK. -/
  | strPacket (q : Nat)
  /-- FEOP (R249): A full/empty operation is carried out or queued at the home. -/
  | feop (q : Nat)
  /-- FEREP (R249): A full/empty reply delivers the value to a waiting stream. -/
  | ferep (q : Nat)
  /-- MON (R256): A monitor arm or wake message is handled at the home or the waiting stream. -/
  | mon (q : Nat)
  /-- BARMSG (R315): A barrier arrival or completion message updates the group and releases waiters. -/
  | barmsg (n : Nat)
  /-- STECMD (R389): A command packet is queued at its STE for in-order execution on its tree. -/
  | stecmd (n : Nat)
  /-- STEREP (R380): The STE's reply word is written into the issuing stream's register. -/
  | sterep (n : Nat)
  /-- STE_CFG_CREATE (R382): Creates a tree, zeroing its whole region. -/
  | steCfgCreate (t : Nat)
  /-- STE_CFG_BUILD (R382): Builds all internal nodes from existing leaves. -/
  | steCfgBuild (t : Nat)
  /-- STE_CFG_SET (R382): Writes beta, seed and epoch of a tree. -/
  | steCfgSet (t : Nat)
  /-- STE_CFG_RELEASE (R382): Frees a tree slot, leaving the region untouched. -/
  | steCfgRelease (t : Nat)
  /-- STE_INS_EXEC (R383): Sets a leaf's mass, bumps its generation and updates the nodes above. -/
  | steInsExec (t : Nat)
  /-- STE_UPD_EXEC (R383): Applies a leaf update or drops it for a stale generation. -/
  | steUpdExec (t : Nat)
  /-- STE_DRAW_EXEC (R384): Draws b stratified leaves with weights and writes the records. -/
  | steDrawExec (t : Nat)
  /-- STE_SUM_EXEC (R387): Returns a tree total, minimum, drops, epoch or leaf. -/
  | steSumExec (t : Nat)
  /-- COPY_TRANSFER (R263): After retire and older overlapping stores, the copy engine moves elements. -/
  | copyTransfer (core : Nat) (rec : Nat) (n : Nat)
  /-- COPY_COMPLETE (R264): When all writes perform, L1D is invalidated, the arrival delivered and the token written. -/
  | copyComplete (core : Nat) (rec : Nat)
  /-- LAUNCH_WRITE (R291): The host's notification write advances a command queue's tail. -/
  | launchWrite (page : Nat) (die : Nat) (v : Word)
  /-- LAUNCH_NOP (R294): A NOP launch writes its status after earlier entries take effect. -/
  | launchNop (die : Nat) (ctx : Nat)
  /-- LAUNCH_TASKS (R294): Inserts n tasks into a die's heap, all or none. -/
  | launchTasks (die : Nat) (ctx : Nat)
  /-- LAUNCH_START (R294): Sends a start message to begin a task on a named stream. -/
  | launchStart (die : Nat) (ctx : Nat)
  /-- LAUNCH_SERVE (R294): Places named idle streams in TASK.NEXT. -/
  | launchServe (die : Nat) (ctx : Nat)
  /-- LAUNCH_CANCEL (R294): Cancels the launch's tag as CANCEL does. -/
  | launchCancel (die : Nat) (ctx : Nat)
  /-- START (R293): A start message reaches the target core, checks the stream and starts or places it. -/
  | start (n : Nat)
  /-- TASK_DELIVERY (R300): The heap delivers an eligible task to a waiting stream. -/
  | taskDelivery (die : Nat)
  /-- TASKMSG (R301): A take that finds no task on its die steals from the other die. -/
  | taskmsg (die : Nat)
  /-- SPILL_REFILL (R299): The heap refills SRAM from its spill region when below 61,440 entries. -/
  | spillRefill (die : Nat)
  /-- HOST_EVENT_WRITE (R418): A host write to the host-event register sends HOSTIRQ to a stream. -/
  | hostEventWrite (page : Nat) (v : Word)
  /-- CTXCREATE (R344): Creates a context with a free ID and owner number. -/
  | ctxcreate (die : Nat)
  /-- CTXSET (R344): Replaces selected descriptor fields of a context. -/
  | ctxset (die : Nat)
  /-- INVTLB (R354): Removes a context's translations in a range and invalidates its L1 lines. -/
  | invtlb (die : Nat)
  /-- MIGRATE (R217): Starts a live migration of one logical core. -/
  | migrate (die : Nat)
  /-- MIGRATION_DRAIN_COMPLETE (R217): After the streams drain and copies stop, the core image is streamed out. -/
  | migrationDrainComplete (n : Nat)
  /-- MIGRATION_INSTALL (R217): The destination installs the image, the core table switches and the source becomes a peg. -/
  | migrationInstall (n : Nat)
  /-- PEG_FORWARD (R218): A message arriving at a peg is forwarded to the destination core. -/
  | pegForward (n : Nat)
  /-- MARKER (R364): A marker packet reaches a peg; when all arrive the peg clears. -/
  | marker (n : Nat)
  /-- REPART (R371): Moves a list of logical cores to a new rectangle. -/
  | repart (die : Nat)
  /-- SWITCHOUT (R220): Saves a context to memory, parks its arms and frees its cores and ID. -/
  | switchout (die : Nat)
  /-- RESUME (R221): Places a saved context on a free rectangle and restores it. -/
  | resume (die : Nat)
  /-- CLRFAULT (R344): Clears a stream's fault mark and removes it from its groups. -/
  | clrfault (die : Nat)
  /-- CTXDESTROY (R344): Removes a context's tasks, locks, cores, ID and owner number. -/
  | ctxdestroy (die : Nat)
  /-- SETHOME (R359): Rewrites an address-range entry, moving the lines to their new backing. -/
  | sethome (die : Nat)
  /-- SETQUEUE (R346): Gives a context's queue a ring and head word. -/
  | setqueue (die : Nat)
  /-- SETSPILL (R346): Gives a die a heap spill region. -/
  | setspill (die : Nat)
  /-- STREAMSET (R345): Writes supervisor bank, trap base, seeds and breakpoints into idle streams. -/
  | streamset (die : Nat)
  /-- OUTPUT_PORT_SLOT (R328): Each flit slot the output port picks an ALERT, PROMPT, BULK or control flit. -/
  | outputPortSlot (port : Nat)
  /-- MESH_FLIT_RECEIVE (R330): A mesh port accepts a flit into its reassembly state and forwards it. -/
  | meshFlitReceive (port : Nat) (flit : BitVec 512)
  /-- MORTAR_FLIT_RECEIVE (R334): A Mortar receiver accepts or refuses a flit by CRC and sequence number. -/
  | mortarFlitReceive (link : Nat) (flit : BitVec 512)
  /-- CONTROL_FLIT (R323): Acks, naks and credits reach the sender; a nak starts a replay. -/
  | controlFlit (link : Nat) (flit : BitVec 512)
  /-- REPLAY_TIMEOUT (R334): The oldest unacknowledged flit waits 512 slots and a replay starts. -/
  | replayTimeout (link : Nat)
  /-- MARGIN_ALARM (R335): A lane's running margin falls below its threshold. -/
  | marginAlarm (module : Nat) (lane : Nat)
  /-- RETRAIN_COMPLETE (R335): Training ends on one lane half and packets are re-sent. -/
  | retrainComplete (module : Nat)
  /-- POISON (R337): A POISON flit ends the open packet of its class at each port. -/
  | poison (n : Nat)
  /-- MGMT (R325): A management packet reaches a command processor. -/
  | mgmt (n : Nat)
  /-- SNOOP (R290): A CXL.cache snoop is served for a host-memory line. -/
  | snoop (line : Nat)
  /-- REASSEMBLY_WATCHDOG (R338): An open packet idle for 8,192 slots is ended with a POISON. -/
  | reassemblyWatchdog (port : Nat)
  /-- REPLY_TIMER_EXPIRY (R332): A request's reply timer of 100,000 ticks runs out and it is ended. -/
  | replyTimerExpiry (q : Nat)
  /-- ATOM_REPEAT_TIMEOUT (R340): A remote atomic without reply after 20 µs is re-sent unchanged. -/
  | atomRepeatTimeout (agent : Nat) (reqnum : BitVec 16)
  /-- TIMER_DEADLINE (R410): Die time reaches SYS.TDEAD, setting TIMER pending. -/
  | timerDeadline (q : Nat)
  /-- WAIT_LIMIT_EXPIRY (R250): An LDFE or LDFF wait limit runs out and the request is withdrawn. -/
  | waitLimitExpiry (q : Nat)
  /-- MON_WAIT_DEADLINE (R258): A MON.WAIT deadline passes and the stream wakes with reason 2. -/
  | monWaitDeadline (q : Nat)
  /-- TIME_CALIBRATION (R408): Every 100 µs die 1 exchanges readings and rewrites XOFS_1. -/
  | timeCalibration
  /-- TIME_STEP (R407): A host-window write adds a nonnegative step to a die's accumulator. -/
  | timeStep (die : Nat) (v : Word)
  /-- REGULATOR_ADMIT (R412): A held transfer begins once the regulator level allows it. -/
  | regulatorAdmit (stack : Nat) (ctx : Nat) (n : Nat)
  /-- REGULATOR_WRITE (R411): A host write to a regulator register sets or refuses its fields and level. -/
  | regulatorWrite (stack : Nat) (ctx : Nat) (v : Word)
  /-- POWER_ALARM (R426): A power or thermal alarm sets half-column mode on both dies. -/
  | powerAlarm (src : AlarmSource)
  /-- ALARM_CLEAR (R426): After every alarm stays clear for 1 ms, narrow returns to 0. -/
  | alarmClear (src : AlarmSource)
  /-- CLOCK_STEP_DOWN (R427): The board controller lowers the core clock by 100 MHz. -/
  | clockStepDown
  /-- CLOCK_STEP_UP (R427): The board controller raises the core clock by 100 MHz. -/
  | clockStepUp
  /-- COLD_RESET (R423): The boot ROM verifies record, keys and firmware, trains links and starts running. -/
  | coldReset
  /-- REBOOT (R424): A write of 1 to the reboot register restarts the boot. -/
  | reboot (v : Word)
  /-- ROLLBACK_COMMIT (R425): Blows fuses until the rollback counter equals the running image's number. -/
  | rollbackCommit (v : Word)
  /-- HOST_PORT_FREEZE_CLEAR (R421): Clears the host-port freeze. -/
  | hostPortFreezeClear (v : Word)
  /-- STE_FREEZE_CLEAR (R421): Clears an STE's freeze. -/
  | steFreezeClear (k : Nat) (v : Word)
  /-- COPY_ENGINE_FREEZE_CLEAR (R421): Clears a core's copy-engine freeze. -/
  | copyEngineFreezeClear (core : Nat) (v : Word)
  /-- HOST_WINDOW_WRITE (R420): A host write to a privileged-window register that has no behaviour of its own. -/
  | hostWindowWrite (off : Nat) (v : Word)
  /-- HOST_WRITE (R290): A host write to device memory performs at its home as a release at .Y. -/
  | hostWrite (space : HostSpace) (addr : Nat) (bytes : List Byte)
  /-- HOST_READ (R290): A host read of device memory is served at the home. -/
  | hostRead (space : HostSpace) (addr : Nat) (n : Nat)
  /-- ILLEGAL_WORD (R50): Decode of a word that is no instruction (reserved bat or major, unlisted minor or func, nonzero reserved bits, invalid register field, or bat 0x0000) records ILLEGAL. -/
  | illegalWord
  /-- OSCILLATOR_TICK (R407): At each tick of a die's 1 GHz oscillator the time accumulator grows by 1 + RATE·2^-40, and every regulator level refills by its rate. -/
  | oscillatorTick (die : Nat)
  /-- CORE_CLOCK_CYCLE (R405): Each core clock cycle, the decoder runs its rotation and each engine adds its cycle to a busy, stall-cause or TRB-full counter of the context's bank. -/
  | coreClockCycle (core : Nat)
  /-- COMMANDED_RETRAIN (R335): System software commands, through the command processor, a retrain that can return a Mortar module to 64 lanes or bring an out-of-service module back into service. -/
  | commandedRetrain (module : Nat)
  deriving DecidableEq, Repr

end Sys2Proof
end

