-- ==== Sys2Proof/Config.lean ====
section
/-! DEFINITION. What the spec fixes once for the machine, and the values it leaves open.
A free value is an opaque constant without a body: no proof can learn it, so a statement holds whatever it is. -/

namespace Sys2Proof.Config

/-! ## Numbers of the machine (R11, R12, R15) -/

def meshSize : Nat := 16
def coreCount : Nat := 256
def streamsPerCore : Nat := 4
def streamCount : Nat := 1024
/-- Entries of a stream's TRB partition (R163). -/
def trbPartition : Nat := 24
/-- Entries of a stream's store queue (R234). -/
def storeQueueSize : Nat := 16
/-- Copy records of a core and of one stream (R262). -/
def copyRecords : Nat := 16
def copyRecordsPerStream : Nat := 8
/-- STE commands that await a reply, for a core and for one stream (R379). -/
def steOutstandingCore : Nat := 64
def steOutstandingStream : Nat := 16
/-- Entries of a heap's SRAM, and the level below which it refills (R299). -/
def heapEntries : Nat := 65536
def heapRefillBelow : Nat := 61440
/-- Resident frames of the scratchpad, and the pins it accepts (R225, R252). -/
def spadFrames : Nat := 242
def pinLimit : Nat := 226
/-- Requests of a remote-atomic agent, and slots of a window (R339, R340). -/
def agentOutstanding : Nat := 64
/-- Sets and ways of an L2 slice: 2 MiB, 16-way, 128-byte lines (R12). -/
def l2Sets : Nat := 1024
def lockWays : Nat := 12
/-- Parked arms of a die (R257). -/
def parkedEntries : Nat := 1048576
/-- Device generation (R24). -/
def generation : Nat := 2
/-- Core clock of the card as shipped, in units of 100 MHz, and the floor of R427. -/
def clockTop : Nat := 26
def clockFloor : Nat := 18

/-! ## Values that the spec leaves open

Each is applied to the counter `freeCtr` of the state, or to the operands it depends on. -/

/-- Which of the tasks a take may return (an index below the window of R298). Log 7. -/
opaque takeChoice : Nat → Nat
/-- Whether a `PREF` is carried out (R236). Log 8. -/
opaque prefTaken : Nat → Bool
/-- How many elements at or after its fault a copy has written (R265). Log 9. -/
opaque copyOverrun : Nat → Nat
/-- The error of a converted reading of die 1 after its calibration, within the 10 ns of R408: 10 more than it. Log 10. -/
opaque calibratedError : Nat → Fin 21
/-- How many flits of replies beyond those of one request a unit behind a router port has room for (R326). Log 94. -/
opaque replyRoom : Nat → Nat
/-- The rate that calibration gives die 1 (R408). Log 10. -/
opaque calibratedRate : Nat → BitVec 32
/-- Whether training finds lanes 0 to 31, and lanes 32 to 63, good (R335). Log 11. -/
opaque laneHalfGood : Nat → Bool × Bool
/-- Whether the training steps of a boot succeed (R423, step 7). Log 12. -/
opaque bootTrains : Nat → Bool
/-- The ranges (base, length) that hold the firmware and the parked-arm tables, which a boot seals (R421). Log 12. -/
opaque firmwareRanges : Nat → List (Nat × Nat)

/-- `SYS.EADDR` of a FORMAT trap for which the instruction's description names no value (R200). Log 16. -/
opaque formatAddr : Nat → BitVec 64

/-- Whether the sideband exchange of a retrain succeeds (R336). Log 11. -/
opaque exchangeOk : Nat → Bool
/-- Which of the free context IDs, owner numbers or positions in a list of alternatives is taken, where the spec says
that any may be (R221, R344). Log 21. -/
opaque anyOf : Nat → Nat
/-- The set of an L2 TLB that holds an entry: context, first virtual address, page size (R352, log 66). -/
opaque tlbSet : Nat → Nat → Nat → Nat
/-- The image and the backing that the command processor gives logical core `j` of a new context (R362). Log 22. -/
opaque coreImage : Nat → Nat → BitVec 32
opaque coreBacking : Nat → Nat → BitVec 28
/-- The status code of a control command for a contained context, which is not accepted (R332). Log 23. -/
opaque containedCode : Nat → BitVec 8

/-! ## Cryptography that the spec names and does not define (R374, R423, R425)

Uninterpreted functions of the bytes they read. Log 13. -/

/-- SHA-384 of a byte list. -/
opaque sha384 : List (BitVec 8) → BitVec 384
/-- The HMAC-SHA-384 binding of the record under the key derived from the package's PUF. -/
opaque pufBinding : List (BitVec 8) → BitVec 384
/-- RSA-3072 PSS with SHA-384: modulus, exponent, signed bytes, signature. -/
opaque rsaVerify : List (BitVec 8) → List (BitVec 8) → List (BitVec 8) → List (BitVec 8) → Bool
/-- SLH-DSA-SHA2-192s: public key, signed bytes, signature. -/
opaque slhVerify : List (BitVec 8) → List (BitVec 8) → List (BitVec 8) → Bool

end Sys2Proof.Config
end

