-- ==== Sys2Proof/Machine/Numbers.lean ====
section
/-! DEFINITION. Number formats and exact arithmetic (chapter 03). Values are exact: a sign, a natural number and a
power of two. Every result is rounded once, by `roundMag`. -/

namespace Sys2Proof.Machine

/-- A floating-point format with a fraction field (R66). `maxCode` is the magnitude code of the largest finite value;
the infinity, where there is one, is the next code. -/
structure Fmt where
  bits : Nat
  p : Nat
  emin : Int
  emax : Int
  maxCode : Nat
  hasInf : Bool
  /-- The canonical NaN, or none. -/
  nan : Option Nat
  deriving DecidableEq, Repr

namespace Fmt
def fp32 : Fmt := ⟨32, 23, -126, 127, 0x7F7FFFFF, true, some 0x7FC00000⟩
def fp16 : Fmt := ⟨16, 10, -14, 15, 0x7BFF, true, some 0x7E00⟩
def bf16 : Fmt := ⟨16, 7, -126, 127, 0x7F7F, true, some 0x7FC0⟩
def e4m3 : Fmt := ⟨8, 3, -6, 8, 0x7E, false, some 0x7F⟩
def e5m2 : Fmt := ⟨8, 2, -14, 15, 0x7B, true, some 0x7E⟩
def f4 : Fmt := ⟨4, 1, 0, 2, 0x7, false, none⟩
def e8m10 : Fmt := ⟨19, 10, -126, 127, 0x3FBFF, true, some 0x3FE00⟩
def w36 : Fmt := ⟨36, 27, -126, 127, 0x7F7FFFFFF, true, some 0x7FC000000⟩
/-- The sign bit's weight. -/
def signBit (f : Fmt) : Nat := 2 ^ (f.bits - 1)
end Fmt

/-- An exact value, or a special one (R67, R68): `fin neg m e` is (-1)^neg · m · 2^e, with a signed zero. -/
inductive Val where
  | nan
  | inf (neg : Bool)
  | fin (neg : Bool) (m : Nat) (e : Int)
  deriving DecidableEq, Repr

/-- The value of a code of a format (R67, R68). -/
def Fmt.value (f : Fmt) (code : Nat) : Val :=
  let neg := code / f.signBit % 2 == 1
  let mag := code % f.signBit
  if mag ≤ f.maxCode then
    let ex := mag / 2 ^ f.p
    let fr := mag % 2 ^ f.p
    if ex = 0 then .fin neg fr (f.emin - f.p)
    else .fin neg (2 ^ f.p + fr) (f.emin + (ex - 1 : Nat) - f.p)
  else if f.hasInf ∧ mag = f.maxCode + 1 then .inf neg
  else .nan

/-- The code of the canonical NaN (R69); F4 has none, and its blocks never ask for it (R73). -/
def Fmt.nanCode (f : Fmt) : Nat := f.nan.getD 0

def Fmt.withSign (f : Fmt) (neg : Bool) (mag : Nat) : Nat := if neg then f.signBit + mag else mag

/-! ## The generator (R80) -/

def mix (z : Word) : Word :=
  let z := z ^^^ (z >>> 31)
  let z := z * 0x8F1B4E6D27A3C95B#64
  let z := z ^^^ (z >>> 29)
  let z := z * 0xE2D73B1964F0A8C5#64
  z ^^^ (z >>> 32)

def genG (key ctr : Word) : Word := mix (key + (ctr + 1) * 0x9A3F5C21B7E40D6B#64)

/-- How an instruction rounds: its mode, and the key of its stochastic draws (R79). -/
structure Rnd where
  mode : RMode
  key : Word
  deriving DecidableEq, Repr

def Rnd.nearest : Rnd := ⟨.rn, 0⟩

/-- The 32 bits drawn for the element with counter `ctr`. -/
def Rnd.draw (r : Rnd) (ctr : Nat) : Nat := (genG r.key (BitVec.ofNat 64 ctr)).toNat / 2 ^ 32

/-! ## Rounding (R77, R78) -/

/-- Whether a grid index `n` goes up, given the part above it: `r` of `2^sh`, and `sticky` for bits below `r`. -/
def roundsUp (rd : Rnd) (ctr : Nat) (neg : Bool) (n r sh : Nat) (sticky : Bool) : Bool :=
  let exact := r == 0 && !sticky
  match rd.mode with
  | .rn => if sh = 0 then false else
      let half := 2 ^ (sh - 1)
      half < r || (r == half && (sticky || n % 2 == 1))
  | .rz => false
  | .rp => !exact && !neg
  | .rd => !exact && neg
  | .rs => !exact && rd.draw ctr < r * 2 ^ 32 / 2 ^ sh

/-- The result of an overflow (R77). -/
def Fmt.overCode (f : Fmt) (mode : RMode) (neg : Bool) : Nat :=
  let toInf := match mode with
    | .rn | .rs => true
    | .rz => false
    | .rp => !neg
    | .rd => neg
  f.withSign neg (if f.hasInf && toInf then f.maxCode + 1 else f.maxCode)

/-- `round_fmt` of the value (-1)^neg · (m + δ) · 2^e with `0 < m`, where `0 ≤ δ < 1` and δ is nonzero exactly when
`sticky` (R77). -/
def Fmt.roundMag (f : Fmt) (rd : Rnd) (ctr : Nat) (neg : Bool) (m : Nat) (e : Int) (sticky : Bool) : Nat :=
  let k : Int := e + Nat.log2 m
  if f.emax < k then f.overCode rd.mode neg
  else
    let top := if k < f.emin then f.emin else k
    let sh : Int := top - f.p - e
    let down := sh.toNat
    let m' := m * 2 ^ (-sh).toNat
    let n := m' / 2 ^ down
    let up := roundsUp rd ctr neg n (m' % 2 ^ down) down sticky
    let code := (top - f.emin).toNat * 2 ^ f.p + n + (if up then 1 else 0)
    if f.maxCode < code then f.overCode rd.mode neg else f.withSign neg code

/-- The conversion of a value into a format (R82). -/
def Fmt.ofVal (f : Fmt) (rd : Rnd) (ctr : Nat) : Val → Nat
  | .nan => f.nanCode
  | .inf neg => f.withSign neg (if f.hasInf then f.maxCode + 1 else f.maxCode)
  | .fin neg m e => if m = 0 then f.withSign neg 0 else f.roundMag rd ctr neg m e false

/-! ## Exact operations -/

namespace Val

def isNan : Val → Bool
  | .nan => true
  | _ => false

def isInf : Val → Bool
  | .inf _ => true
  | _ => false

def neg : Val → Val
  | .nan => .nan
  | .inf s => .inf !s
  | .fin s m e => .fin (!s) m e

def abs : Val → Val
  | .nan => .nan
  | .inf _ => .inf false
  | .fin _ m e => .fin false m e

def isZero : Val → Bool
  | .fin _ 0 _ => true
  | _ => false

/-- The product, exact (R86): 0 · ∞ is NaN. -/
def mul : Val → Val → Val
  | .nan, _ | _, .nan => .nan
  | .inf s, .inf t => .inf (s != t)
  | .inf s, .fin t m _ => if m = 0 then .nan else .inf (s != t)
  | .fin t m _, .inf s => if m = 0 then .nan else .inf (s != t)
  | .fin s m e, .fin t n d => .fin (s != t) (m * n) (e + d)

/-- Multiplication by a power of two. -/
def scale (k : Int) : Val → Val
  | .fin s m e => .fin s m (e + k)
  | v => v

/-- The smallest exponent of the finite values of a list. -/
def minExp : List Val → Option Int
  | [] => none
  | .fin _ _ e :: l => match minExp l with
    | none => some e
    | some d => some (min e d)
  | _ :: l => minExp l

/-- The finite value in units of `2^base`, where `base` is at most its exponent. -/
def units (base : Int) : Val → Int
  | .fin s m e => let u : Int := (m : Int) * (2 : Int) ^ (e - base).toNat; if s then -u else u
  | _ => 0

def ofInt (x : Int) (e : Int) : Val := .fin (x < 0) x.natAbs e

/-- The order of two values; none when either is NaN. The two zeros are equal (R70). -/
def cmp : Val → Val → Option Ordering
  | .nan, _ | _, .nan => none
  | .inf s, .inf t => some (if s = t then .eq else if s then .lt else .gt)
  | .inf s, .fin .. => some (if s then .lt else .gt)
  | .fin .., .inf t => some (if t then .gt else .lt)
  | .fin s m e, .fin t n d =>
    let b := min e d
    some (compare (units b (.fin s m e)) (units b (.fin t n d)))

end Val

/-- The sum of a list of terms, rounded once into a format (R86, R87): NaN if a term is NaN or infinities of both
signs occur; an exact zero takes its sign by the rule of R87. -/
def Fmt.sum (f : Fmt) (rd : Rnd) (ctr : Nat) (ts : List Val) : Nat :=
  if ts.any Val.isNan then f.nanCode
  else
    let pos := ts.contains (.inf false)
    let ng := ts.contains (.inf true)
    if pos && ng then f.nanCode
    else if pos then f.ofVal rd ctr (.inf false)
    else if ng then f.ofVal rd ctr (.inf true)
    else
      let base := (Val.minExp ts).getD 0
      let x : Int := (ts.map (Val.units base)).foldl (· + ·) 0
      if x = 0 then
        let minusZero (v : Val) := match v with | .fin s m _ => s && m == 0 | _ => false
        let plusZero (v : Val) := match v with | .fin s m _ => !s && m == 0 | _ => false
        let neg := ts.all minusZero || (rd.mode == .rd && ts.any fun v => !plusZero v)
        f.withSign neg 0
      else f.ofVal rd ctr (Val.ofInt x base)

/-- The quotient, rounded once (R70). -/
def Fmt.div (f : Fmt) (rd : Rnd) (ctr : Nat) : Val → Val → Nat
  | .nan, _ | _, .nan => f.nanCode
  | .inf _, .inf _ => f.nanCode
  | .inf s, .fin t _ _ => f.ofVal rd ctr (.inf (s != t))
  | .fin s _ _, .inf t => f.withSign (s != t) 0
  | .fin s m e, .fin t n d =>
    if n = 0 then if m = 0 then f.nanCode else f.ofVal rd ctr (.inf (s != t))
    else if m = 0 then f.withSign (s != t) 0
    else
      let a := m * 2 ^ 128
      f.roundMag rd ctr (s != t) (a / n) (e - d - 128) (a % n != 0)

/-- The integer square root, from bit `k` of the root downwards. -/
def isqrtFrom : Nat → Nat → Nat → Nat
  | 0, a, r => if (r + 1) * (r + 1) ≤ a then r + 1 else r
  | k + 1, a, r =>
    let c := r + 2 ^ (k + 1)
    isqrtFrom k a (if c * c ≤ a then c else r)

/-- The largest `r` with `r² ≤ a`. -/
def isqrt (a : Nat) : Nat := isqrtFrom (Nat.log2 a / 2 + 1) a 0

/-- The square root, rounded once (R84). -/
def Fmt.sqrt (f : Fmt) (rd : Rnd) (ctr : Nat) : Val → Nat
  | .nan => f.nanCode
  | .inf neg => if neg then f.nanCode else f.ofVal rd ctr (.inf false)
  | .fin neg m e =>
    if m = 0 then f.withSign neg 0
    else if neg then f.nanCode
    else
      let odd := e % 2 == 1
      let a := (if odd then m * 2 else m) * 2 ^ 256
      let e' := (if odd then e - 1 else e) / 2 - 128
      let r := isqrt a
      f.roundMag rd ctr false r e' (r * r != a)

/-- The reciprocal square root, rounded once (R84). -/
def Fmt.rsqrt (f : Fmt) (rd : Rnd) (ctr : Nat) : Val → Nat
  | .nan => f.nanCode
  | .inf neg => if neg then f.nanCode else f.withSign false 0
  | .fin neg m e =>
    if m = 0 then f.ofVal rd ctr (.inf neg)
    else if neg then f.nanCode
    else
      let odd := e % 2 == 1
      let a := if odd then m * 2 else m
      let e' := (if odd then e - 1 else e) / 2
      let r := isqrt (2 ^ 512 / a)
      f.roundMag rd ctr false r (-256 - e') (r * r * a != 2 ^ 512)

/-- The reciprocal, rounded once (R84). -/
def Fmt.recip (f : Fmt) (rd : Rnd) (ctr : Nat) (v : Val) : Nat := f.div rd ctr (.fin false 1 0) v

/-! ## Transcendental functions (R84), to 400 fraction bits. Log 14. -/

/-- ⌊ln 2 · 2^400⌋. -/
def ln2Bits : Nat :=
  1789879222497203190815761498240779176894896805856420935579692301363062920687047601279850318367644315849030039181347319086

/-- The terms y^k/k! from the k-th on, for `n` more terms, in units of 2^-400. -/
def expTerms : Nat → Nat → Nat → Nat → Nat
  | 0, _, _, _ => 0
  | n + 1, k, y, term => term + expTerms n (k + 1) y (term * y / 2 ^ 400 / (k + 1))

/-- 2^x for the fraction `fr`/2^400 of x, in units of 2^-400. -/
def exp2Frac (fr : Nat) : Nat := expTerms 96 0 (fr * ln2Bits / 2 ^ 400) (2 ^ 400)

/-- 2^x, rounded once. -/
def Fmt.exp2 (f : Fmt) (rd : Rnd) (ctr : Nat) : Val → Nat
  | .nan => f.nanCode
  | .inf neg => if neg then f.withSign false 0 else f.ofVal rd ctr (.inf false)
  | .fin neg m e =>
    if m = 0 then f.ofVal rd ctr (.fin false 1 0)
    else
      let k : Int := e + Nat.log2 m
      if 10 < k then
        if neg then f.roundMag rd ctr false (2 ^ 64) (-4096) true
        else f.roundMag rd ctr false (2 ^ 64) 4096 true
      else
        let u := (m * 2 ^ (e + 400).toNat) / 2 ^ (-(e + 400)).toNat
        let x : Int := if neg then -(u : Int) else u
        let ip := x / (2 ^ 400 : Int)
        let fr := (x % (2 ^ 400 : Int)).toNat
        if fr = 0 then f.roundMag rd ctr false 1 ip false
        else f.roundMag rd ctr false (exp2Frac fr) (ip - 400) true

/-- The terms t^(2j+1)/(2j+1) for `n` more terms, in units of 2^-400; `pw` is t^k. -/
def atanhTerms : Nat → Nat → Nat → Nat → Nat
  | 0, _, _, _ => 0
  | n + 1, k, t2, pw => pw / k + atanhTerms n (k + 2) t2 (pw * t2 / 2 ^ 400)

/-- log₂ of z/2^400 for z in [2^400, 2^401), in units of 2^-400. -/
def log2Frac (z : Nat) : Nat :=
  let t := (z - 2 ^ 400) * 2 ^ 400 / (z + 2 ^ 400)
  2 * atanhTerms 130 1 (t * t / 2 ^ 400) t * 2 ^ 400 / ln2Bits

/-- log₂ of a positive value, rounded once. -/
def Fmt.log2Pos (f : Fmt) (rd : Rnd) (ctr : Nat) (m : Nat) (e : Int) : Nat :=
  let lg := Nat.log2 m
  let k : Int := e + lg
  if m = 2 ^ lg then f.ofVal rd ctr (Val.ofInt k 0)
  else
    let x : Int := k * 2 ^ 400 + log2Frac (m * 2 ^ 400 / 2 ^ lg)
    f.roundMag rd ctr (x < 0) x.natAbs (-400) true

def Fmt.log2 (f : Fmt) (rd : Rnd) (ctr : Nat) : Val → Nat
  | .nan => f.nanCode
  | .inf neg => if neg then f.nanCode else f.ofVal rd ctr (.inf false)
  | .fin neg m e =>
    if m = 0 then f.ofVal rd ctr (.inf true)
    else if neg then f.nanCode
    else f.log2Pos rd ctr m e

/-! ## Integers (R65, R83) -/

/-- The exact value rounded to an integer by the rule of R77 with q = 1 in every binade. -/
def roundInt (rd : Rnd) (ctr : Nat) (neg : Bool) (m : Nat) (e : Int) : Int :=
  let down := (-e).toNat
  let m' := m * 2 ^ e.toNat
  let n := m' / 2 ^ down
  let up := roundsUp rd ctr neg n (m' % 2 ^ down) down false
  let r : Int := n + (if up then 1 else 0)
  if neg then -r else r

def clampInt (lo hi x : Int) : Int := if x < lo then lo else if hi < x then hi else x

/-- A value converted to the integers from `lo` to `hi` (R83). -/
def Val.toInt (rd : Rnd) (ctr : Nat) (lo hi : Int) : Val → Int
  | .nan => 0
  | .inf neg => if neg then lo else hi
  | .fin neg m e => clampInt lo hi (roundInt rd ctr neg m e)

/-- `round_fmt` of an integer, with 0 giving +0 (R83). -/
def Fmt.ofInt (f : Fmt) (rd : Rnd) (ctr : Nat) (x : Int) : Nat := f.ofVal rd ctr (Val.ofInt x 0)

/-- A value rounded to an integral value of the same format, keeping the sign of a zero and specials. -/
def Fmt.roundIntegral (f : Fmt) (rd : Rnd) (ctr : Nat) : Val → Nat
  | .nan => f.nanCode
  | .inf neg => f.ofVal rd ctr (.inf neg)
  | .fin neg m e => f.ofVal rd ctr (.fin neg (roundInt rd ctr neg m e).natAbs 0)

/-- The smaller (`lt = true`) or larger of two codes, −0 below +0, NaN if either is NaN (R110). -/
def Fmt.pick (f : Fmt) (lt : Bool) (a b : Nat) : Nat :=
  match Val.cmp (f.value a) (f.value b) with
  | none => f.nanCode
  | some .lt => if lt then a else b
  | some .gt => if lt then b else a
  | some .eq => if (a / f.signBit % 2 == 1) == lt then a else b

/-- The class word of R110. -/
def Fmt.classWord (f : Fmt) (a : Nat) : Nat :=
  let s := a / f.signBit % 2
  let k := match f.value a with
    | .nan => 4
    | .inf _ => 3
    | .fin _ m _ => if m = 0 then 0 else if a % f.signBit < 2 ^ f.p then 1 else 2
  8 * s + k

/-- NaN or infinite (R71). -/
def Fmt.nonFinite (f : Fmt) (a : Nat) : Bool :=
  match f.value a with
  | .fin .. => false
  | _ => true

/-! ## Block-scaled F4 (R72, R73) -/

/-- The value of an F4 code in a block of scale `s`. -/
def valF4 (c s : Nat) : Val :=
  if s = 0xFF then .nan else (Fmt.f4.value c).scale ((s : Int) - 127)

/-- ⌊log₂ |x|⌋ of a nonzero finite value. -/
def Val.exponent : Val → Int
  | .fin _ m e => e + Nat.log2 m
  | _ => 0

/-- A list of exact values encoded as one F4 block: its scale and its codes (R73). The counter of element i is
`ctr + i`. -/
def encodeF4 (rd : Rnd) (ctr : Nat) (xs : List Val) : Nat × List Nat :=
  if xs.any Val.isNan then (0xFF, xs.map fun _ => 0)
  else
    let big := xs.any Val.isInf
    let nz := xs.filter fun v => !v.isZero && !v.isInf
    if !big && nz.isEmpty then
      (127, xs.map fun v => match v with | .fin s _ _ => Fmt.f4.withSign s 0 | _ => 0)
    else
      let top := nz.foldl (fun a v => max a v.exponent) (-100000 : Int)
      let ex := if big then 127 else clampInt (-127) 127 (top - 2)
      ((ex + 127).toNat, xs.zipIdx.map fun (v, i) => Fmt.f4.ofVal rd (ctr + i) (v.scale (-ex)))

end Sys2Proof.Machine
end

