-- ==== Sys2Proof/Machine/State.lean ====
section
/-! DEFINITION. The state of the machine as plain data, and its value after cold reset.
Places of memory are numbered once: a device physical address is its own number, byte `a` of the scratchpad of
mesh core `c` is `localPlace c a`, and host physical address `h` is `hostPlace h`. -/

namespace Sys2Proof.Machine

/-- A number of a place of memory outside device memory: the scratchpads, then host memory. -/
def localPlace (core addr : Nat) : Nat := 2 ^ 48 + core * 2 ^ 20 + addr
def hostPlace (hpa : Nat) : Nat := 2 ^ 52 + hpa

/-! ## Streams -/

/-- The states of R19. A saved stream lives in its image in memory and has no record here. -/
inductive RunState where
  | idle | ready | blocked | waiting | moving
  deriving DecidableEq, Repr, Inhabited

/-- The cause codes of R200. -/
inductive Cause where
  | illegal | prefixMisuse | priv | align | page | prot | format | nonfinite | waitLimit | brk
  | step | cancelled | groupBroken | copyFault | migrate | uncorr | freeze | timer | hostIrq
  deriving DecidableEq, Repr, Inhabited

/-- A task: heap entry, running task or launch fields (R292, R296, R303). -/
structure Task where
  entry : Word := 0
  key : BitVec 32 := 0
  tag : BitVec 16 := 0
  group : BitVec 8 := 0
  hasGroup : Bool := false
  bound : Bool := false
  die : Nat := 0
  args : Vector Word 4 := Vector.replicate 4 0
  /-- Insertion number (R296). -/
  seq : Word := 0
  owner : BitVec 16 := 0
  deriving DecidableEq, Repr, Inhabited

/-- A range slot `N`n (R393). `gen` numbers its bindings (the model's own, R398). -/
structure RangeSlot where
  bound : Bool := false
  space : Bool := false
  count : BitVec 16 := 0
  length : BitVec 48 := 0
  base : BitVec 48 := 0
  gen : Nat := 0
  deriving DecidableEq, Repr, Inhabited

/-- A monitor register `M`n (R254): `line` is bits 47 to 7. -/
structure MonReg where
  line : BitVec 41 := 0
  fired : Bool := false
  armed : Bool := false
  deriving DecidableEq, Repr, Inhabited

/-- A group membership of a stream (R312). -/
structure Membership where
  group : BitVec 8
  tflag : Bool
  deriving DecidableEq, Repr, Inhabited

/-- The files of registers whose values an entry of a TRB partition reads or produces (R94, R123, R134, R162, R164):
scalar, predicate, loop, vector, tile and accumulator registers, handles and codebooks. -/
inductive RegFile where
  | s | p | l | v | t | c | h | k
  deriving DecidableEq, Repr, Inhabited

/-- A register by its file and number; SB28 and SB29 are scalar registers 32 and 33. -/
abbrev RegName := RegFile × Nat

/-- What a stream waits for (R19, R213). -/
inductive Wait where
  | none
  /-- The word at the pc is held; it decodes again in a later slot of its stream. -/
  | retry
  /-- The word at the pc is held until the crossings of these rows go over again, since the given die time, for the storage at
  the address (R332, R336). -/
  | link (since : Nat) (rows : List Nat) (addr : Word)
  /-- The word at the pc is held until the line fills and walks that it started have begun at their regulators (R412). -/
  | fills
  /-- The stream's newest word, the entry `seq`, awaits its data or its reply: the stream is blocked until the entry has
  completed (R19). -/
  | data (seq : Nat)
  /-- The word at the pc is held until these registers have been produced (R19, R95, R262). -/
  | operands (l : List RegName)
  /-- The partition of the TRB is full (R19, R163). -/
  | room
  /-- The word at the pc is held until the older stores that overlap these ranges have performed and no sibling holds
  a page of them (R169, R253). -/
  | reads (l : List (Nat × Nat × Nat))
  /-- The word at the pc is held until its agent has room for a request (R339). -/
  | agentRoom
  /-- The word at the pc is held until every older access of its stream but copies has performed (R304, R305). -/
  | older
  /-- The word at the pc is held until every older entry of its partition has retired (R208, R305). -/
  | retired
  /-- An atomic's or claim's reply from the other die, into `d` (R245). -/
  | reply (reqId : Nat)
  /-- `LDFE` (`take`) or `LDFF` at the place, with the end of the wait limit in die time (R249, R250). -/
  | fe (d : BitVec 5) (take : Bool) (va : Word) (place : Nat) (limit : Option Nat)
  /-- `MON.WAIT` into `d`, with its deadline (R258). -/
  | mon (d : BitVec 5) (deadline : Option Nat)
  /-- `BAR` for the completion of phase `q` of the group: after its own arrival in it, or held for an earlier one
  (R316). -/
  | bar (p : BitVec 3) (group : BitVec 8) (q : BitVec 32) (arrived : Bool)
  /-- `BAR.WAIT` for the completion of phase `q` (R316). -/
  | barWait (p : BitVec 3) (group : BitVec 8) (q : BitVec 32)
  /-- `BAR.ARR` held while its stream has already arrived in phase `q` (R316). -/
  | barArr (d : BitVec 5) (group : BitVec 8) (q : BitVec 32)
  /-- `TASK.NEXT`, or placed there by a SERVE launch (R305, R308). -/
  | taskNext (served : Bool)
  deriving DecidableEq, Repr, Inhabited

/-- A scalar register whose value a copy token or an STE reply has yet to write (R262, R379). -/
structure Pending where
  /-- 0 to 31; 32 and 33 are SB28 and SB29. -/
  reg : Nat
  id : Nat
  deriving DecidableEq, Repr, Inhabited

/-- A codebook: its 256 entries of 19 bits and its sorted bit (R162). -/
structure Codebook where
  entries : BitVec 4864 := 0
  sorted : Bool := true
  deriving DecidableEq, Repr, Inhabited

/-- A tile register: 64 rows of 64 bytes, and its scale codes (R159). -/
structure Tile where
  rows : BitVec 32768 := 0
  scales : BitVec 2048 := BitVec.ofNat 2048 ((2 ^ 2048 - 1) / 255 * 127)
  deriving DecidableEq, Repr, Inhabited

/-- The registers of a stream at one position of its program order: what a squash from that position on brings back
(R166, R167). -/
structure Regs where
  pc : Word := 0
  s : Vector Word 32 := Vector.replicate 32 0
  p : Vector Bool 8 := Vector.replicate 8 false
  i : Vector (BitVec 32) 4 := Vector.replicate 4 0
  lc : Vector (BitVec 32) 4 := Vector.replicate 4 0
  lb : Vector Word 4 := Vector.replicate 4 0
  h : Vector (BitVec 2048) 16 := Vector.replicate 16 0
  x : Vector Word 8 := Vector.replicate 8 0
  v : Vector (BitVec 2048) 16 := Vector.replicate 16 0
  t : Vector Tile 16 := Vector.replicate 16 default
  c : Vector (BitVec 147456) 4 := Vector.replicate 4 0
  k : Vector Codebook 4 := Vector.replicate 4 default
  srseed : Word := 0
  nftrap : Bool := false
  fewait : BitVec 32 := 0
  epc : Word := 0
  ecause : BitVec 6 := 0
  eaddr : Word := 0
  trapbase : Word := 0
  tdead : Word := 0
  bp : Vector Word 8 := Vector.replicate 8 0
  skip : Bool := false
  sb28 : Word := 0
  sb29 : Word := 0
  pending : List Pending := []
  deriving DecidableEq, Repr, Inhabited

/-- An entry of a TRB partition (R163 to R167). -/
structure TrbEntry where
  seq : Nat
  engine : Option Engine := none
  issued : Bool := false
  completed : Bool := false
  course : Nat := 0
  /-- Cycles for which it occupies its engine at full width (R158, R172). -/
  occ : Nat := 1
  /-- The registers whose values it reads, and those that it produces (R164, R171). -/
  reads : List RegName := []
  writes : List RegName := []
  /-- It is one of the global instructions of which the tile-memory unit holds at most 8 (R172). -/
  isGlobal : Bool := false
  /-- Its word may not take effect a second time: it takes effect only as the oldest entry of its partition. -/
  once : Bool := false
  /-- Such a word has taken its effect, with which it has issued (R167). -/
  acted : Bool := false
  /-- The slot bindings that count its read until it completes (R397). -/
  counted : List (Nat × Nat) := []
  /-- The registers before the word. -/
  before : Regs := {}
  deriving DecidableEq, Repr, Inhabited

/-- The kinds of write that wait in a store queue (R165, R234, R240, R242, R243, R249). -/
inductive StoreKind where
  /-- A scalar store or `STL`: it updates L1D. -/
  | scalar
  /-- A vector, handle, tile or accumulator store: it invalidates L1D lines. -/
  | wide
  /-- `STR` to another core's scratchpad. -/
  | remote
  /-- A reduction: operation (R243), operand. -/
  | red (op : BitVec 5) (x : Word)
  /-- `STFL` with its data. -/
  | stfl (x : Word)
  /-- `FECLR`. -/
  | feclr
  deriving DecidableEq, Repr, Inhabited

/-- The writes that travel as BULK traffic; the others are PROMPT (R321). -/
def StoreKind.isBulk : StoreKind → Bool
  | .wide => true
  | _ => false

/-- How far a queued write has come: held at the core, sent to its home, carried out there. -/
inductive Phase where
  | queued | sent | written
  deriving DecidableEq, Repr, Inhabited

/-- What a release waits for (R284): every older access, or those counted by the bindings (slot, gen). -/
inductive ReleaseOf where
  | no
  | all
  | slots (l : List (Nat × Nat))
  deriving DecidableEq, Repr, Inhabited

/-- The pieces in which other agents may see a write (R155, R281): each element of `unit` bytes, and each aligned 64-byte
block, by its number, that lies wholly within the range of a contiguous access or of a row. -/
structure Pieces where
  unit : Nat := 64
  blocks : List Nat := []
  deriving DecidableEq, Repr, Inhabited

/-- A write in a store queue. `cells` are the places of memory that it has still to write, with their new bytes, and
`landed` those that it has written at their homes; `ranges` are (space, first, count) of R168, where space 0 is global and
space 1 + c is the scratchpad of mesh core c. -/
structure StoreEntry where
  seq : Nat
  kind : StoreKind
  cells : List (Nat × Byte)
  va : Word
  ranges : List (Nat × Nat × Nat)
  phase : Phase
  release : ReleaseOf
  /-- The slot bindings that counted it (R397). -/
  counted : List (Nat × Nat)
  landed : List (Nat × Byte) := []
  /-- The die time at which it set out, from which its reply timer runs (R332). -/
  sentAt : Nat := 0
  pieces : Pieces := {}
  /-- The number of its setting out, which orders it behind the earlier ones on its way (R322). -/
  order : Nat := 0
  deriving DecidableEq, Repr, Inhabited

/-- One stream: the registers of chapters 04 to 08 and what follows a word it runs. -/
structure Stream where
  run : RunState := .idle
  /-- The state held before a live migration (R19). -/
  runBefore : RunState := .idle
  /-- The next fetch address. -/
  pc : Word := 0
  s : Vector Word 32 := Vector.replicate 32 0
  p : Vector Bool 8 := #v[true, false, false, false, false, false, false, false]
  i : Vector (BitVec 32) 4 := Vector.replicate 4 0
  lc : Vector (BitVec 32) 4 := Vector.replicate 4 0
  lb : Vector Word 4 := Vector.replicate 4 0
  h : Vector (BitVec 2048) 16 := Vector.replicate 16 0
  x : Vector Word 8 := Vector.replicate 8 0
  v : Vector (BitVec 2048) 16 := Vector.replicate 16 0
  t : Vector Tile 16 := Vector.replicate 16 default
  c : Vector (BitVec 147456) 4 := Vector.replicate 4 0
  k : Vector Codebook 4 := Vector.replicate 4 default
  srseed : Word := 0
  nftrap : Bool := false
  fewait : BitVec 32 := 0
  epc : Word := 0
  ecause : BitVec 6 := 0
  eaddr : Word := 0
  trapbase : Word := 0
  tdead : Word := 0
  bp : Vector Word 8 := Vector.replicate 8 0
  level : Bool := false
  step : Bool := false
  skip : Bool := false
  /-- Bits 4 to 0: CANCELLED, GROUP_BROKEN, HOSTIRQ, TIMER, MIGRATE (R198). -/
  pend : BitVec 5 := 0
  hval : BitVec 32 := 0
  /-- HOSTIRQ values that the command processor holds until the pending one is taken (R202). -/
  hostQueue : List (BitVec 32) := []
  sb28 : Word := 0
  sb29 : Word := 0
  faultMark : Bool := false
  /-- The group of the pending GROUP_BROKEN, and the SYS.MESH value of a pending MIGRATE (R200). -/
  brokenGroup : BitVec 8 := 0
  meshBefore : Word := 0
  n : Vector RangeSlot 8 := Vector.replicate 8 default
  m : Vector MonReg 4 := Vector.replicate 4 default
  wait : Wait := .none
  task : Option Task := none
  groups : List Membership := []
  trb : List TrbEntry := []
  storeQ : List StoreEntry := []
  pending : List Pending := []
  /-- Counts the words the stream has decoded (the model's own: names TRB entries). -/
  seqNext : Nat := 0
  /-- An acquire of scope `.V` or `.Y` stands before the next word (R277). -/
  fresh : Bool := false
  deriving DecidableEq, Repr, Inhabited

/-! ## Cores -/

/-- A cached 128-byte line of L1D, L1I or a guest copy, with the poison marks of its sectors (R227, R229, R233).
`va` is the virtual line address under which a core filled it. `passed` are the streams that have read bytes of the line from
below it and found newer ones: none of their acquires leaves the line to their younger reads (R276). -/
structure Line where
  ctx : Nat := 0
  va : Nat := 0
  data : BitVec 1024 := 0
  poison : BitVec 4 := 0
  passed : List Nat := []
  deriving DecidableEq, Repr, Inhabited

/-- A TLB entry: the leaf of a page of `size` bytes at `va` of the context (R352). -/
structure TlbEntry where
  ctx : Nat
  va : Nat
  size : Nat
  leaf : Word
  deriving DecidableEq, Repr, Inhabited

/-- A walk-cache entry: the table pointer that an L0, L1 or L2 entry holds (R352). -/
structure WalkEntry where
  ctx : Nat
  level : Nat
  va : Nat
  entry : Word
  deriving DecidableEq, Repr, Inhabited

/-- A page of the scratchpad map (R366). -/
structure PageState where
  frame : BitVec 8 := 0
  holder : BitVec 2 := 0
  locked : Bool := false
  pinned : Bool := false
  dirty : Bool := false
  resident : Bool := false
  backed : Bool := false
  deriving DecidableEq, Repr, Inhabited

/-- How a copy's barrier arrival is bound (R259, R315): the group and the phase its arrival counts in. -/
structure Binding where
  group : BitVec 8
  phase : BitVec 32
  deriving DecidableEq, Repr, Inhabited

/-- The progress of a copy record (R262 to R266). -/
inductive CopyPhase where
  /-- Accepted; it may transfer once its entry retired and the older overlapping stores performed. -/
  | active
  /-- Every element is written; the completion is still to come. -/
  | delivered
  /-- Stopped at a fault: status, side, and the address of the element at progress. -/
  | faulted (status : BitVec 8) (side : Bool) (addr : Word)
  deriving DecidableEq, Repr, Inhabited

/-- A copy record (R216, R262). `stream` is the stream index of the core; `done` counts destination elements (for F4,
bytes of two; for P6, words of 21). -/
structure CopyRec where
  stream : Nat
  seq : Nat
  word : BitVec 32
  toLocal : Bool
  src : BitVec 2048
  dst : BitVec 2048
  done : Nat
  phase : CopyPhase
  /-- The pending token's identity, and the register it was issued for. -/
  tokenId : Nat
  reg : BitVec 5
  binding : Option Binding
  counted : List (Nat × Nat)
  /-- The store-queue entries, by seq, that must perform before the copy reads (R263). -/
  after : List Nat
  /-- The aligned 64-byte blocks of its source, by their numbers, that it has read, each as one (R281). -/
  read : SMap (List Byte) := []
  /-- The die time since which its requests have waited for the link, from which their reply timer runs (R332, R336). -/
  waitsFrom : Option Nat := none
  deriving DecidableEq, Repr, Inhabited

/-- A peg (R364): the context and destination position of a moved core, and the markers still to arrive. -/
structure Peg where
  ctx : Nat
  dest : Nat
  waiting : Nat
  deriving DecidableEq, Repr, Inhabited

/-- One mesh core. `owner` is (context ID, logical index ly*w + lx) (R362). -/
structure Core where
  owner : Option (Nat × Nat) := none
  errored : Bool := false
  peg : Option Peg := none
  /-- The messages a moving core holds (R218) are those of `net` addressed to it. -/
  moving : Bool := false
  l1d : SMap Line := []
  l1i : SMap Line := []
  tlb : List TlbEntry := []
  pages : SMap PageState := []
  /-- Resident pages, least recently used first. -/
  lru : List Nat := []
  copies : SMap CopyRec := []
  copyFrozen : Bool := false
  /-- Hop vectors to the logical cores (R363). -/
  route : List (BitVec 16) := []
  /-- The stream that decoded last and the cycles of the last decodes (R25). -/
  lastStream : Nat := 3
  decodedAt : Vector Nat 4 := Vector.replicate 4 0
  /-- Core clock cycles counted since reset, and the number of the present course. -/
  cycle : Nat := 3
  course : Nat := 0
  /-- The grants of the last 256 cycles: (cycle, engine, stream) (R171). -/
  grants : List (Nat × Engine × Nat) := []
  /-- Cycles each engine stays occupied, and those of the matrix engine's half-width tail (R172, R173). -/
  busy : Vector Nat 5 := Vector.replicate 5 0
  halfTail : Nat := 0
  deriving DecidableEq, Repr, Inhabited

/-! ## Dies -/

/-- What a home answers to an atomic operation. -/
inductive HomeReply where
  /-- The old value; 0 acknowledges a reduction. -/
  | value (old : Word)
  /-- A claim of `NEST.CLAIM`: the chunk and the indices of its first iteration (R402). -/
  | claim (c : Word) (i : Vector (BitVec 32) 4)
  /-- The descriptor is malformed, and nothing was written. -/
  | malformed
  /-- The operation used a poisoned sector and was not carried out (R454). -/
  | poisoned (sector : Nat)
  deriving DecidableEq, Repr, Inhabited

/-- A slot of a deduplication window (R368). -/
structure DedupSlot where
  reply : HomeReply := .value 0
  reqnum : BitVec 16 := 0
  /-- 0 empty, 1 executing, 2 done. -/
  state : BitVec 8 := 0
  /-- The bytes that the request formed, which its reply brings to the other die (R229; the model's own). -/
  formed : List (Nat × Byte) := []
  deriving DecidableEq, Repr, Inhabited

/-- An operation carried out at a home for a stream: an `ATOM` or `RED` form, or `NEST.CLAIM` (aux 0x40). -/
structure AtomOp where
  /-- The aux byte: operation and size of R243, or 0x40. -/
  aux : BitVec 8
  va : Word
  place : Nat
  x : Word
  compare : Word
  deriving DecidableEq, Repr, Inhabited

/-- A request held by a remote-atomic agent (R339). -/
structure AgentReq where
  reqnum : BitVec 16
  stream : Nat
  /-- The store-queue seq of a reduction, or none for an `ATOM` form into `d`. -/
  red : Option Nat
  d : BitVec 5
  op : AtomOp
  reply : Option HomeReply
  /-- The die time at which it was sent last (R340). -/
  sentAt : Nat := 0
  /-- The bytes that it formed at its home (R229). -/
  formed : List (Nat × Byte) := []
  deriving DecidableEq, Repr, Inhabited

/-- A remote-atomic agent: the next request number and the requests whose replies have not returned. -/
structure Agent where
  next : BitVec 16 := 0
  out : List AgentReq := []
  deriving DecidableEq, Repr, Inhabited

/-- A full/empty request queued at a home (R249). -/
structure FeReq where
  place : Nat
  stream : Nat
  take : Bool
  deriving DecidableEq, Repr, Inhabited

/-- A monitor entry of a slice (R256): a line's first place, the stream and its register. -/
structure MonEntry where
  line : Nat
  stream : Nat
  reg : Nat
  deriving DecidableEq, Repr, Inhabited

/-- A parked arm (R257). -/
structure ParkedArm where
  line : Nat
  owner : BitVec 16
  logical : Nat
  stream : Nat
  reg : Nat
  deriving DecidableEq, Repr, Inhabited

/-- A locked L2 line (R251), charged to a context, or to none where it is a line of a group's entry (R367). -/
structure LineLock where
  line : Nat
  ctx : Option Nat
  way : Nat
  deriving DecidableEq, Repr, Inhabited

/-- A line that lies in a way of an L2 slice: a line homed there, or a guest copy (R12, R228, R229, R369). Its bytes are
those of `cells`, or of the guest copy. -/
structure L2Line where
  line : Nat
  way : Nat
  dirty : Bool := false
  deriving DecidableEq, Repr, Inhabited

/-- A ring of launch or control entries (R291, R343). -/
structure Ring where
  present : Bool := false
  base : Nat := 0
  n : Nat := 0
  headAddr : Nat := 0
  head : Nat := 0
  tail : Nat := 0
  deriving DecidableEq, Repr, Inhabited

/-- One die. -/
structure Die where
  /-- 64 integer bits and 40 fraction bits (R407). -/
  time : BitVec 104 := 0
  trate : BitVec 32 := 0
  txofs : Word := 0
  heap : List Task := []
  /-- The entries of the spill region that hold a task: their bytes are in memory (R296, R299). -/
  spill : List Nat := []
  inserted : Word := 0
  /-- Base and capacity of the spill region (R299). -/
  spillRegion : Option (Nat × Nat) := none
  /-- The streams whose requests for a task the die's heap holds, in the order in which they arrived (R300): those that wait in
  TASK.NEXT on the die, and takes of the other die that have found no task on either (R301). -/
  takes : List Nat := []
  /-- The context whose queue the command processor served last (R28). -/
  served : Nat := 63
  tlb : List TlbEntry := []
  walks : List WalkEntry := []
  guest : SMap Line := []
  control : Ring := {}
  banks : SMap Word := []
  telemetry : SMap Word := []
  dedup : SMap DedupSlot := []
  agents : SMap Agent := []
  parked : List ParkedArm := []
  /-- Set bits of the parked filters: slice number within the device times 4096 plus index. -/
  filters : List Nat := []
  deriving DecidableEq, Repr, Inhabited

/-! ## Contexts -/

/-- A fault record (R214). -/
structure FaultRecord where
  ctx : Nat
  logical : Nat
  stream : Nat
  cause : Cause
  epc : Word
  eaddr : Word
  double : Bool
  deriving DecidableEq, Repr, Inhabited

/-- A resident context (R360, R362): descriptor image, core-table entries, command queues, fault queue. -/
structure Ctx where
  desc : BitVec 512
  table : List (BitVec 128)
  queues : Vector Ring 2 := Vector.replicate 2 {}
  faults : List FaultRecord := []
  /-- Contained by R332: only CTXDESTROY is accepted. -/
  contained : Bool := false
  /-- A switch-out waits for the pegs and drains of the context. -/
  leaving : Bool := false
  /-- Tags cancelled while launches of a queue were in flight: die, tag, and how many unread entries that meets (R29). -/
  cancels : List (Nat × BitVec 16 × Nat) := []
  deriving DecidableEq, Repr, Inhabited

/-- What a saved stream holds that R213 gives no field of its record (log 26). -/
structure SavedStream where
  hostQueue : List (BitVec 32)
  brokenGroup : BitVec 8
  meshBefore : Word
  pending : List Pending
  seqNext : Nat
  /-- The binding numbers of its range slots (R398). -/
  gens : List Nat
  fresh : Bool
  deriving DecidableEq, Repr, Inhabited

/-- A saved context: what the command processors keep beside the images in memory (R220, R221). -/
structure SavedCtx where
  desc : BitVec 512
  table : List (BitVec 128)
  queues : Vector Ring 2
  faults : List FaultRecord
  /-- The ID that the context held last. -/
  lastId : Nat
  /-- Copy records by logical core (R216); the images give them 64 bytes and no layout (log 26). -/
  copies : SMap (SMap CopyRec)
  /-- What each stream, by member index, holds that no field of its record takes. -/
  beside : SMap SavedStream
  /-- Locked scratchpad pages, (logical core, page, holder): a page lock outlives a switch-out (R253). -/
  pageLocks : List (Nat × Nat × BitVec 2) := []
  cancels : List (Nat × BitVec 16 × Nat) := []
  deriving DecidableEq, Repr, Inhabited

/-- A live migration under way (R217): context, logical core, source and destination positions. -/
structure Move where
  ctx : Nat
  logical : Nat
  src : Nat
  dst : Nat
  notify : Bool
  started : Bool
  drained : Bool
  /-- The die whose command it is and the address of its status word; the list of a REPART shares one. -/
  die : Nat
  status : Nat
  repart : Option (Nat × Nat)
  /-- Another move of the list has been abandoned (R371). -/
  failed : Bool := false
  deriving DecidableEq, Repr, Inhabited

/-! ## Engines beside the stacks, regulators, links, host -/

/-- A command received by an STE (R378, R389). -/
structure SteCmd where
  minor : BitVec 5
  tree : Nat
  ctx : Nat
  owner : BitVec 16
  stream : Nat
  replyId : Nat
  reg : BitVec 5
  /-- S[a], S[d], k6, and for STE.CFG the 64-byte image. -/
  sa : Word
  sd : Word
  k6 : BitVec 6
  image : BitVec 512
  /-- The number of the word in its stream. -/
  seq : Nat
  counted : List (Nat × Nat)
  /-- The die time from which its reply timer runs (R332). -/
  sentAt : Nat := 0
  /-- The engine that it goes to. -/
  ste : Nat := 0
  /-- Its walks and fills have been asked for (R412, R413). -/
  begun : Bool := false
  deriving DecidableEq, Repr, Inhabited

/-- A sum-tree engine: 16 descriptors, its queue, its freeze and its node-cache lines, (context, virtual line) (R375,
R391). -/
structure Ste where
  trees : Vector (BitVec 256) 16 := Vector.replicate 16 0
  queue : List SteCmd := []
  frozen : Bool := false
  lines : List (Nat × Nat) := []
  /-- The lines that the commands of each tree have written: what a reader of a reply may no longer see as it was
  before (R287). -/
  wrote : SMap (List Nat) := []
  deriving DecidableEq, Repr, Inhabited

/-- A regulator: its register, its level in milli-sectors and the sector counts of the held requests (R411, R412). -/
structure Regulator where
  reg : Word := 0
  level : Nat := 0
  held : List Nat := []
  deriving DecidableEq, Repr, Inhabited

/-- A packet waiting or open at an output port: the flits that have come and are not yet sent, whether its first has
gone, and how many are still to be sent (R327). -/
structure OutPacket where
  id : Nat
  cls : BitVec 2
  flits : List (BitVec 512)
  begun : Bool := false
  left : Nat
  /-- Its pool at the far side (R323). -/
  pool : Nat
  /-- The router input that it came by, 8 for what the port itself sends, and whether no slot has passed since then (R328). -/
  input : Nat := 8
  fresh : Bool := false
  /-- Its source has stopped: nothing of it follows but a POISON (R337). -/
  ended : Bool := false
  deriving DecidableEq, Repr, Inhabited

/-- An output port (R326 to R328). Ports are numbered by router * 8 + output (R420); 2048 is the host egress path. -/
structure OutPort where
  bulk : List OutPacket := []
  prompt : List OutPacket := []
  alert : List OutPacket := []
  passed : Bool := false
  nb : Nat := 0
  sinceAlert : Nat := 15
  /-- The class of the last flit of a packet, for the resume mark. -/
  lastCls : Option (BitVec 2) := none
  /-- Flits of room at the receiver in pools 0 to 5 (R323, R326). -/
  credits : Vector Nat 6
  /-- The cumulative credit counts seen last. -/
  seen : Vector (BitVec 16) 6 := Vector.replicate 6 0
  /-- The flit that left in the last slot. -/
  sent : Option (BitVec 512) := none
  /-- The router input from which a queue took a packet last, by class (R328). -/
  lastIn : Vector Nat 3 := #v[8, 8, 8]
  deriving DecidableEq, Repr, Inhabited

/-- The reassembly state of a class at a receiving port (R330): header, flits that came and are not handed on, flits
still expected, the output and the packet there, and the slots without a flit of it (R338). -/
structure Reassembly where
  header : BitVec 128
  flits : List (BitVec 512) := []
  expected : Nat
  out : Nat
  id : Nat
  idle : Nat := 0
  deriving DecidableEq, Repr, Inhabited

/-- A receiving port, numbered as the output port of the same link. -/
structure InPort where
  bulk : Option Reassembly := none
  prompt : Option Reassembly := none
  lastCls : Option (BitVec 2) := none
  /-- The pools of the last packets of `BULK` and `PROMPT`, in which what still comes of a packet lies once it has been discarded
  (R456). -/
  bulkPool : Nat := 4
  promptPool : Nat := 2
  /-- At a unit's port: the flits of room that the unit has reserved for replies (R326). -/
  reserved : Nat := 0
  /-- Slots freed in each pool, and the counts that the other side was told. -/
  freed : Vector (BitVec 16) 6 := Vector.replicate 6 0
  told : Vector (BitVec 16) 6 := Vector.replicate 6 0
  deriving DecidableEq, Repr, Inhabited

/-- One direction of a Mortar module (R333 to R335): the sender's side and the receiver's side. Direction `d` of module
`m`, from die `d` to the other, is number 2m + d. -/
structure MortarDir where
  nextSeq : BitVec 12 := 0
  /-- Sent flits that R334 keeps, oldest first, and the last acknowledged number. -/
  replay : List (BitVec 512) := []
  acked : Option (BitVec 12) := none
  /-- Flits still to be sent again, oldest first. -/
  again : List (BitVec 512) := []
  /-- Packets that a retrain sends first, whole and without interruption (R335, step 5). -/
  whole : List OutPacket := []
  /-- Slots counted, and the slot in which each number was last sent: the wait of R334. -/
  slots : Nat := 0
  sentAt : SMap Nat := []
  failedSeq : Option (BitVec 12) := none
  fails : Nat := 0
  expected : BitVec 12 := 0
  nakSent : Bool := false
  /-- What the next flit of the other direction reports: a refusal, and the last accepted number. -/
  ackDue : Option (Bool × BitVec 12) := none
  deriving DecidableEq, Repr, Inhabited

/-- A Mortar module (R13, R335, R336). -/
structure Module where
  narrow : Bool := false
  upperHalf : Bool := false
  inService : Bool := true
  retraining : Bool := false
  /-- The retrain under way was commanded by system software. -/
  commanded : Bool := false
  /-- Lanes whose running margin fell below the threshold. -/
  weak : List Nat := []
  deriving DecidableEq, Repr, Inhabited

/-- Where the data of a read leaves toward, or who merges into a sector (R232), and the context that its transfers are
charged to (R413): the running code of a core, a core's copy engine, an STE, a command processor or group unit, the host,
the home itself. -/
inductive Consumer where
  | core (c : Nat)
  | copyEngine (c : Nat)
  | ste (k : Nat) (ctx : Nat)
  | unit (ctx : Option Nat)
  | host
  | home
  deriving DecidableEq, Repr, Inhabited

/-- A report or interrupt that reaches the host (R419): vector, code, value; a check failure names the writer and the
consumer too (R233, R453). -/
structure HostMsg where
  vector : Nat
  code : Nat
  value : Word
  writer : Option (BitVec 12) := none
  consumer : Option Consumer := none
  deriving DecidableEq, Repr, Inhabited

/-- A message in flight between agents, carried by packets of R325. -/
inductive Msg where
  /-- A prefetch's line request: core, context, virtual line, place of the line, fill L1D too. -/
  | readReq (core ctx va line : Nat) (l1 : Bool)
  | readData (core ctx va line : Nat) (l1 : Bool) (data : BitVec 1024) (poison : BitVec 4)
  /-- The completion of a phase on its way to a waiting stream (R315). -/
  | barDone (stream : Nat) (group : BitVec 8) (q : BitVec 32) (err : Bool) (die : Nat)
  /-- A release by a group break (R216). `die` is that of the group unit, here and in the completion. -/
  | barBroken (stream : Nat) (group : BitVec 8) (die : Nat)
  | steCmd (ste : Nat) (c : SteCmd)
  | steReply (stream : Nat) (id : Nat) (word : Word) (ste : Nat)
  /-- A start message of a START or SERVE launch: context, logical core, streams, task, status address, and the die of its
  command processor. -/
  | start (ctx logical : Nat) (streams : BitVec 4) (serve : Bool) (task : Task) (status : Nat) (die : Nat)
  /-- A marker to a peg, from another core of its context (R364). -/
  | marker (ctx : Nat) (peg : Nat) (bulk : Bool) (sender : Nat)
  /-- A task on its way to a stream that moved when the heap served it (R218, R308), with the die time at which it set out. -/
  | taskGiven (stream : Nat) (task : Task) (sentAt : Nat)
  /-- The answer of a home to a queued `LDFE` or `LDFF` (R249), with the time of the stream's die at which it set out. -/
  | feReply (stream : Nat) (reply : HomeReply) (sentAt : Nat)
  /-- A half-sent packet that ends at its destination, or at its sender (R336 to R338): its header. -/
  | poison (header : BitVec 128)
  /-- A management packet (R325): reporting position and payload. -/
  | mgmt (die : Nat) (code : Nat) (addr : Word)
  /-- What the command processor of a die has for the host, on its way to the host port (R14, R341). -/
  | report (die : Nat) (m : HostMsg)
  deriving DecidableEq, Repr, Inhabited

/-- Which copy a read is served from (R230). -/
inductive Via where
  /-- L1D, filled on a miss from the die's L2. -/
  | l1
  /-- The die's L2: the home line or a guest copy. -/
  | l2
  /-- The home slice, or the scratchpad. -/
  | home
  deriving DecidableEq, Repr, Inhabited

/-- An element, or an aligned 64-byte block, that a word of a stream has read ahead of older words of its stream (R272,
R281): the number of the word in its stream, the way it read, the first place, and the bytes. -/
structure ReadAhead where
  stream : Nat
  word : Nat
  via : Via
  place : Nat
  data : List Byte
  deriving DecidableEq, Repr, Inhabited

/-- The check value, writer ID and poison mark stored with a 32-byte sector (R231, R232). -/
structure Sector where
  crc : BitVec 16
  writer : BitVec 12
  poison : Bool
  deriving DecidableEq, Repr, Inhabited

/-- A message of the host egress path with data, or a request or response without any (R341). -/
structure HostData where
  /-- It answers a read of the host. -/
  reply : Bool
  bytes : List Byte
  deriving DecidableEq, Repr, Inhabited

/-- The boot ROM's and board's state (R416 to R427). -/
structure Board where
  bootState : BitVec 4 := 0
  bootReason : BitVec 8 := 0
  /-- The rollback number of the running image. -/
  runningRollback : Nat := 0
  flash : List Host.Cell := []
  keyHash0 : BitVec 384 := 0
  keyHash1 : BitVec 384 := 0
  fuses : Nat := 0
  recovery : List Host.Cell := []
  recoveryPage : BitVec 7 := 0
  hostFrozen : Bool := false
  sealedFirst : Option Nat := none
  sealed : List (Nat × Nat) := []
  narrow : Bool := false
  alarms : List AlarmSource := []
  clock : Nat := Config.clockTop
  /-- What the host port has to send, by class (R341): reports and interrupts; CXL.cache requests, snoop responses, responses
  without data and the data of scalar accesses; and every other data. -/
  egAlert : List HostMsg := []
  egPrompt : List HostData := []
  egBulk : List HostData := []
  /-- What has reached the host. -/
  msix : List HostMsg := []
  /-- Bytes that host reads have returned, newest last. -/
  hostReads : List (List Byte) := []
  deriving DecidableEq, Repr, Inhabited

/-! ## The machine -/

/-- Who moves next: the decoder of a core on one of its streams, one step of another agent, or a read that a stream makes
ahead of its program order (R272). -/
inductive Turn where
  | slot (stream : Nat)
  | event (i : Instr)
  | readAhead (stream ahead place n : Nat) (via : Via)
  deriving DecidableEq, Repr

/-- Why a step stops. No rule of the spec stops the whole machine; these name places that do not exist. -/
inductive Fault where
  /-- A turn of the agenda names a stream, core, die, engine or port that the device does not have (R11, R12).
  Raised by the steps that are no words; safe: no such step exists in the hardware. -/
  | noSuchAgent
  deriving DecidableEq, Repr

/-- Why the model refuses an instruction. -/
inductive Refusal where
  /-- The instruction has no meaning in this model yet. Safe. -/
  | notModelled (mnemonic : String)
  deriving DecidableEq, Repr

/-- The whole device. -/
structure State where
  /-- Streams by key core*4 + index; a key that is not listed is a stream as reset left it. -/
  streams : SMap Stream
  /-- Mesh cores by y*16 + x. -/
  cores : SMap Core
  dies : SMap Die
  /-- Resident contexts by ID. -/
  ctxs : SMap Ctx
  saved : List SavedCtx
  moves : List Move
  stes : SMap Ste
  /-- Regulators by stack*64 + context. -/
  regulators : SMap Regulator
  /-- Bytes of device backing (slice*2^32 + backing), scratchpad frames and host memory; addresses rise strictly
  and no listed byte is 0. -/
  cells : List Host.Cell
  /-- Sector records by place/32. -/
  sectors : SMap Sector
  /-- Places/8 of the words whose full bit is 1 (R248). -/
  full : List Nat
  feQueue : List FeReq
  monEntries : List MonEntry
  /-- The mappings of full/empty pages that an access has met: owner number, first virtual address, size, first place
  (R248). -/
  feMaps : List (BitVec 16 × Nat × Nat × Nat)
  locks : List LineLock
  /-- The lines that lie in each set of an L2 slice, least recently used first; key slice*1024 + set. -/
  l2 : SMap (List L2Line)
  /-- Owner number, group and phase of each phase not yet complete in which a bound copy delivered an error (R315). -/
  groupErrs : List (BitVec 16 × BitVec 8 × BitVec 32)
  /-- The address-range table (R356). -/
  ranges : SMap (BitVec 256)
  net : List Msg
  /-- What words yet to come have read already (R272). -/
  ahead : List ReadAhead
  outPorts : SMap OutPort
  inPorts : SMap InPort
  mortar : SMap MortarDir
  modules : SMap Module
  board : Board
  /-- The model's own: which agent moves next, the stream a word runs for, and the counters of free values and
  of identities. -/
  agenda : List Turn
  cur : Nat
  freeCtr : Nat
  nextId : Nat
  deriving DecidableEq, Repr

/-- The machine right after a cold reset (R7, R19, R423): every master is held, nothing is mapped. -/
def State.reset : State where
  streams := []
  cores := []
  dies := []
  ctxs := []
  saved := []
  moves := []
  stes := []
  regulators := []
  cells := []
  sectors := []
  full := []
  feQueue := []
  monEntries := []
  feMaps := []
  locks := []
  l2 := []
  groupErrs := []
  ranges := []
  net := []
  ahead := []
  outPorts := []
  inPorts := []
  mortar := []
  modules := []
  board := {}
  agenda := []
  cur := 0
  freeCtr := 0
  nextId := 0

end Sys2Proof.Machine
end

