-- ==== Sys2Proof/Machine/Access.lean ====
section
/-! DEFINITION. Reading and replacing the parts of the state, and the numbering of cores and streams. -/

namespace Sys2Proof.Machine

namespace State

def stream (s : State) (q : Nat) : Stream := SMap.get {} s.streams q
def setStream (s : State) (q : Nat) (t : Stream) : State := { s with streams := SMap.set s.streams q t }
def core (s : State) (c : Nat) : Core := SMap.get {} s.cores c
def setCore (s : State) (c : Nat) (x : Core) : State := { s with cores := SMap.set s.cores c x }
def die (s : State) (d : Nat) : Die := SMap.get {} s.dies d
def setDie (s : State) (d : Nat) (x : Die) : State := { s with dies := SMap.set s.dies d x }
def ste (s : State) (k : Nat) : Ste := SMap.get {} s.stes k
def setSte (s : State) (k : Nat) (x : Ste) : State := { s with stes := SMap.set s.stes k x }
def ctx? (s : State) (c : Nat) : Option Ctx := SMap.find s.ctxs c
def setCtx (s : State) (c : Nat) (x : Ctx) : State := { s with ctxs := SMap.set s.ctxs c x }
def regulator (s : State) (k : Nat) : Regulator := SMap.get {} s.regulators k
def setRegulator (s : State) (k : Nat) (x : Regulator) : State :=
  { s with regulators := SMap.set s.regulators k x }

/-- The stream that a word runs for. -/
def me (s : State) : Stream := s.stream s.cur
def setMe (s : State) (t : Stream) : State := s.setStream s.cur t
/-- The core of the stream that a word runs for, and its die. -/
def myCore (s : State) : Nat := s.cur / 4

end State

/-- The die of a mesh core: columns 0 to 7 are die 0 (R12). -/
def dieOfCore (c : Nat) : Nat := if c % 16 < 8 then 0 else 1

/-- Mesh column and row of a core. -/
def meshX (c : Nat) : Nat := c % 16
def meshY (c : Nat) : Nat := c / 16
def coreAt (x y : Nat) : Nat := y * 16 + x

def State.myDie (s : State) : Nat := dieOfCore s.myCore

/-! ## Contexts (R360, R362) -/

/-- Bits `lo` to `lo + w - 1` of a word, as a number. -/
def field {n : Nat} (b : BitVec n) (lo w : Nat) : Nat := (b.extractLsb' lo w).toNat

/-- A word with bits `lo` to `lo + w - 1` replaced by `x`. -/
def setField {n : Nat} (b : BitVec n) (lo w : Nat) (x : Nat) : BitVec n :=
  let mask : BitVec n := BitVec.ofNat n ((2 ^ w - 1) * 2 ^ lo)
  (b &&& ~~~mask) ||| (BitVec.ofNat n (x % 2 ^ w * 2 ^ lo))

namespace Ctx
def root (c : Ctx) : Nat := field c.desc 12 36 * 4096
def owner (c : Ctx) : BitVec 16 := c.desc.extractLsb' 64 16
def x0 (c : Ctx) : Nat := field c.desc 80 4
def y0 (c : Ctx) : Nat := field c.desc 84 4
def w (c : Ctx) : Nat := field c.desc 88 5
def h (c : Ctx) : Nat := field c.desc 96 5
def way (c : Ctx) (die : Nat) : BitVec 16 := c.desc.extractLsb' (128 + 16 * die) 16
def resq (c : Ctx) : Nat := field c.desc 160 20
def spq (c : Ctx) : Nat := field c.desc 192 8
def taskq (c : Ctx) : Nat := field c.desc 224 24
def gtab (c : Ctx) : Nat := field c.desc 268 36 * 4096
/-- The core-table entry of a logical core. -/
def entry (c : Ctx) (j : Nat) : BitVec 128 := c.table.getD j 0
/-- The mesh core of a logical core. -/
def position (c : Ctx) (j : Nat) : Nat := coreAt (field (c.entry j) 0 4) (field (c.entry j) 4 4)
def placed (c : Ctx) (j : Nat) : Bool := (c.entry j).getLsbD 8
def isMoving (c : Ctx) (j : Nat) : Bool := (c.entry j).getLsbD 9
/-- First device physical address of the region that backs the scratchpad of a logical core. -/
def backing (c : Ctx) (j : Nat) : Nat := field (c.entry j) 84 28 * 2 ^ 20
/-- First address of the core image. -/
def image (c : Ctx) (j : Nat) : Nat := field (c.entry j) 16 32 * 65536
def cores (c : Ctx) : Nat := c.w * c.h
end Ctx

namespace State

/-- The context and logical core that hold a mesh core. -/
def ownerOf (s : State) (c : Nat) : Option (Nat × Nat) := (s.core c).owner
/-- The context ID of the stream that a word runs for (0 where the core belongs to no pitch). -/
def myCtxId (s : State) : Nat := ((s.ownerOf s.myCore).map (·.1)).getD 0
def myLogical (s : State) : Nat := ((s.ownerOf s.myCore).map (·.2)).getD 0
def emptyCtx : Ctx := { desc := 0, table := [] }
def ctx (s : State) (c : Nat) : Ctx := (s.ctx? c).getD emptyCtx
def myCtx (s : State) : Ctx := s.ctx s.myCtxId
/-- The context with an owner number, resident or saved. -/
def ctxOfOwner (s : State) (o : BitVec 16) : Option Nat :=
  (s.ctxs.find? fun e => e.2.owner = o).map (·.1)
/-- The member index of a stream within its context (R367). -/
def memberIndex (s : State) (q : Nat) : Nat := 4 * ((s.ownerOf (q / 4)).map (·.2)).getD 0 + q % 4

/-- A fresh identity for a token, a reply or a request. -/
def freshId (s : State) : State × Nat := ({ s with nextId := s.nextId + 1 }, s.nextId)
/-- The next free value's number. -/
def freshFree (s : State) : State × Nat := ({ s with freeCtr := s.freeCtr + 1 }, s.freeCtr)

def post (s : State) (m : Msg) : State := { s with net := s.net ++ [m] }

/-- What the command processor of a die has for the host joins what the host port has to send: from die 0 at once, from die 1 once
it has come over the Mortar link (R14, R341). -/
def report (s : State) (die : Nat) (m : HostMsg) : State :=
  if die = 0 then { s with board := { s.board with egAlert := s.board.egAlert ++ [m] } } else s.post (.report die m)

/-- A report or interrupt to the host (R419). -/
def toHost (s : State) (vector code : Nat) (value : Word) (die : Nat := 0) : State :=
  s.report die { vector := vector, code := code, value := value }

/-- A message of class `PROMPT` or of class `BULK` joins what the host port has to send (R341). -/
def toHostPrompt (s : State) (m : HostData) : State :=
  { s with board := { s.board with egPrompt := s.board.egPrompt ++ [m] } }
def toHostBulk (s : State) (m : HostData) : State := { s with board := { s.board with egBulk := s.board.egBulk ++ [m] } }

/-- A request or a response without data (R290, R341). -/
def toHostBare (s : State) : State := s.toHostPrompt ⟨false, []⟩

/-- A check failure reported with the writer and the consumer (R233, R453). -/
def reportFailure (s : State) (value : Word) (writer : BitVec 12) (who : Consumer) (die : Nat := 0) : State :=
  s.report die { vector := 0, code := 2, value := value, writer := some writer, consumer := some who }

/-- Line data on its way to the L1D of core `c`, for the lines that `hit` names (line, context, virtual line), is no
longer kept: an invalidation or a write of the core has met it (R227). -/
def cancelFills (s : State) (c : Nat) (hit : Nat → Nat → Nat → Bool) : State :=
  { s with net := s.net.filter fun m => match m with
      | .readData k ctx va line _ _ _ => !(k == c && hit line ctx va)
      | _ => true }

/-- A counter of a stall bank (R404). -/
def bankKey (c i : Nat) : Nat := c * 52 + i
def bank (s : State) (d c i : Nat) : Word := SMap.get 0 (s.die d).banks (bankKey c i)
def addBank (s : State) (d c i n : Nat) : State :=
  let x := s.die d
  s.setDie d { x with banks := SMap.modify 0 x.banks (bankKey c i) (· + BitVec.ofNat 64 n) }

/-- A telemetry counter by its offset in the block of its die (R414, R420). -/
def addTelemetry (s : State) (d off n : Nat) : State :=
  let x := s.die d
  s.setDie d { x with telemetry := SMap.modify 0 x.telemetry off (· + BitVec.ofNat 64 n) }

end State

end Sys2Proof.Machine
end

