-- ==== Sys2Proof/Machine/Memory.lean ====
section
/-! DEFINITION. Bytes of memory, homes and backing places, sectors and their check values
(R225, R226, R228, R231, R232, R356, R357). -/

namespace Sys2Proof.Machine

/-! ## The list of bytes -/

namespace Memory

/-- The byte at an address; an unlisted address reads 0 (log 1). -/
def get : List Host.Cell → Nat → Byte
  | [], _ => 0
  | (k, b) :: l, a => if k = a then b else if a < k then 0 else get l a

/-- The list with byte `b` at `a`: sorted, and with no entry equal to what an unlisted address reads as. -/
def put : List Host.Cell → Nat → Byte → List Host.Cell
  | [], a, b => if b = 0 then [] else [(a, b)]
  | (k, c) :: l, a, b =>
    if k = a then (if b = 0 then l else (a, b) :: l)
    else if a < k then (if b = 0 then (k, c) :: l else (a, b) :: (k, c) :: l)
    else (k, c) :: put l a b

/-- The list with every byte from `lo` on, `n` of them, reading 0. -/
def clear (l : List Host.Cell) (lo n : Nat) : List Host.Cell :=
  l.filter fun e => e.1 < lo || lo + n ≤ e.1

/-- Every address of the list is above `lo`, rising strictly, and no listed byte is 0. -/
def wfFrom : Option Nat → List Host.Cell → Bool
  | _, [] => true
  | lo, (a, b) :: l =>
    (match lo with | none => true | some k => decide (k < a)) && decide (b ≠ 0) && wfFrom (some a) l

/-- The canonical form of the memory. -/
def wf (l : List Host.Cell) : Bool := wfFrom none l

end Memory

/-! ## Homes and backing (R356, R357) -/

/-- Bit `j`-th set bit of `b`, counted from bit 0 among `n` bits starting at `i`. -/
def nthSetBit (b : Nat) : Nat → Nat → Nat → Nat
  | 0, _, _ => 0
  | n + 1, i, j => if b.testBit i then (if j = 0 then i else nthSetBit b n (i + 1) (j - 1)) else nthSetBit b n (i + 1) j

def popCount (b : Nat) : Nat → Nat
  | 0 => 0
  | n + 1 => (if b.testBit n then 1 else 0) + popCount b n

/-- Fields of an address-range entry (R356). -/
structure RangeEntry where
  valid : Bool
  base : Nat
  size : Nat
  stride : Nat
  slices : Nat
  lbase : Nat
  deriving DecidableEq, Repr

def rangeEntry (e : BitVec 256) : RangeEntry :=
  { valid := e.getLsbD 0
    base := field e 21 27 * 2 ^ 21
    size := field e 85 27 * 2 ^ 21
    stride := 2 ^ (7 + field e 1 5)
    slices := field e 128 64
    lbase := field e 192 32 }

/-- The address hash of R357. -/
def homeHash (a : Nat) : Nat :=
  (a / 2 ^ 13 % 64) ^^^ (a / 2 ^ 19 % 64) ^^^ (a / 2 ^ 25 % 64) ^^^ (a / 2 ^ 31 % 64) ^^^ (a / 2 ^ 37 % 2)

/-- The place that a range entry gives an address it covers. -/
def RangeEntry.home (r : RangeEntry) (a : Nat) : Nat × Nat :=
  let n := popCount r.slices 64
  let q := (a - r.base) / r.stride
  (nthSetBit r.slices 64 0 (q % n), r.lbase + q / n * r.stride + (a - r.base) % r.stride)

/-- The lowest valid entry that covers the address, among `n` entries from `i` on. -/
def coveringEntry (t : SMap (BitVec 256)) (a : Nat) : Nat → Nat → Option RangeEntry
  | 0, _ => none
  | n + 1, i =>
    let r := rangeEntry (SMap.get 0 t i)
    if r.valid ∧ r.base ≤ a ∧ a < r.base + r.size then some r else coveringEntry t a n (i + 1)

/-- Home slice and backing of a device physical address. -/
def homeOfDevice (t : SMap (BitVec 256)) (a : Nat) : Nat × Nat :=
  match (if t.isEmpty then none else coveringEntry t a 64 0) with
  | some r => r.home a
  | none => ((a / 128 % 64) ^^^ homeHash a, a / 2 ^ 13 * 128 + a % 128)

namespace State

/-- The home slice of a place (R228, R357). A scratchpad byte has none; its number is never asked. -/
def homeSlice (s : State) (place : Nat) : Nat :=
  if place < 2 ^ 48 then (homeOfDevice s.ranges place).1
  else if 2 ^ 52 ≤ place then
    let a := place - 2 ^ 52
    ((a / 128 % 64) ^^^ homeHash a) % 32
  else 0

/-- The die of a place's home slice: slices 0 to 31 are on die 0. -/
def homeDie (s : State) (place : Nat) : Nat := s.homeSlice place / 32

/-- The page of a core's scratchpad map. -/
def page (s : State) (c p : Nat) : PageState := SMap.get {} (s.core c).pages p

def setPage (s : State) (c p : Nat) (x : PageState) : State :=
  let k := s.core c
  s.setCore c { k with pages := SMap.set k.pages p x }

/-- The device address that backs a scratchpad byte of a mesh core (R362). -/
def backingAddr (s : State) (c a : Nat) : Nat :=
  match s.ownerOf c with
  | some (x, j) => (s.ctx x).backing j + a
  | none => a

/-- The key in `cells` under which the byte of a place is held: the home backing of a device address (R357), the
resident frame or the backing page of a scratchpad byte (R225, R226), or the host byte itself. -/
def cellKey (s : State) (place : Nat) : Nat :=
  if place < 2 ^ 48 then
    let (k, b) := homeOfDevice s.ranges place
    k * 2 ^ 32 + b
  else if place < 2 ^ 52 then
    let c := (place - 2 ^ 48) / 2 ^ 20
    let a := (place - 2 ^ 48) % 2 ^ 20
    let p := s.page c (a / 4096)
    if p.resident then 2 ^ 48 + c * 2 ^ 20 + p.frame.toNat * 4096 + a % 4096
    else
      let (k, b) := homeOfDevice s.ranges (s.backingAddr c a)
      k * 2 ^ 32 + b
  else place

/-- The byte of a place. -/
def byteAt (s : State) (place : Nat) : Byte := Memory.get s.cells (s.cellKey place)

/-- `n` bytes from a place on. -/
def bytesAt (s : State) (place n : Nat) : List Byte := (List.range n).map fun i => s.byteAt (place + i)

end State

/-- A number from its bytes, the first least significant (R1). -/
def leNat : List Byte → Nat
  | [] => 0
  | b :: l => b.toNat + 256 * leNat l

/-- The `n` low bytes of a number, the least significant first. -/
def leBytes : Nat → Nat → List Byte
  | 0, _ => []
  | n + 1, x => BitVec.ofNat 8 x :: leBytes n (x / 256)

/-- The number that `n` bytes at a place hold. -/
def State.natAt (s : State) (place n : Nat) : Nat := leNat (s.bytesAt place n)

/-! ## Check values (R232) -/

/-- One bit of the CRC-16 with polynomial 0x1021. -/
def crcBit (c : Nat) : Nat := if c < 32768 then 2 * c else (2 * c - 65536) ^^^ 0x1021

def crcByte (c : Nat) (b : Byte) : Nat :=
  crcBit (crcBit (crcBit (crcBit (crcBit (crcBit (crcBit (crcBit (c ^^^ (b.toNat * 256)))))))))

def crc16 (l : List Byte) : BitVec 16 := BitVec.ofNat 16 (l.foldl crcByte 0xFFFF)

/-- The record of a sector that nothing has written: 32 zero bytes (log 1). -/
def freshSector : Sector := ⟨0xF14C, 0, false⟩

namespace State

/-- The record of the sector that holds a place. -/
def sector (s : State) (place : Nat) : Sector := SMap.get freshSector s.sectors (s.cellKey place / 32)

/-- The bytes of the sector that holds a place. -/
def sectorBytes (s : State) (place : Nat) : List Byte :=
  let k := s.cellKey place / 32 * 32
  (List.range 32).map fun i => Memory.get s.cells (k + i)

/-- Whether the check value of a sector matches its bytes. -/
def sectorGood (s : State) (place : Nat) : Bool := crc16 (s.sectorBytes place) = (s.sector place).crc

def setSector (s : State) (place : Nat) (x : Sector) : State :=
  { s with sectors := SMap.set s.sectors (s.cellKey place / 32) x }

/-- The state with one byte stored, its sector record left alone. -/
def putByte (s : State) (place : Nat) (b : Byte) : State :=
  { s with cells := Memory.put s.cells (s.cellKey place) b }

/-- The state with a list of bytes stored. -/
def putBytes (s : State) : List (Nat × Byte) → State
  | [] => s
  | (a, b) :: l => (s.putByte a b).putBytes l

end State

/-- The sectors, by their first place, that a list of written bytes touches, each once. -/
def sectorsOf (cells : List (Nat × Byte)) : List Nat := (cells.map fun e => e.1 / 32 * 32).eraseDups

/-- How many bytes of the sector at `k` a list writes. -/
def bytesIn (cells : List (Nat × Byte)) (k : Nat) : Nat :=
  ((cells.filter fun e => e.1 / 32 * 32 = k).map (·.1)).eraseDups.length

/-- A page of a scratchpad becomes dirty when a resident byte of it is written (R366). -/
def State.markDirty (s : State) (place : Nat) : State :=
  if 2 ^ 48 ≤ place ∧ place < 2 ^ 52 then
    let c := (place - 2 ^ 48) / 2 ^ 20
    let p := (place - 2 ^ 48) % 2 ^ 20 / 4096
    let x := s.page c p
    if x.resident then s.setPage c p { x with dirty := true } else s
  else s

/-- Merging a write at its home (R232, R233, R454): the bytes are stored, and each sector takes the writer ID and the
check value of its new bytes; a write of all 32 bytes clears the poison mark. -/
def State.merge (s : State) (writer : BitVec 12) (cells : List (Nat × Byte)) : State :=
  let s1 := s.putBytes cells
  (sectorsOf cells).foldl (fun t k =>
    let poison := (t.sector k).poison && decide (bytesIn cells k < 32)
    (t.setSector k ⟨crc16 (t.sectorBytes k), writer, poison⟩).markDirty k) s1

/-! ## Writer IDs (R453) -/

def writerOfStream (q : Nat) : BitVec 12 :=
  let c := q / 4
  BitVec.ofNat 12 (dieOfCore c * 2048 + meshY c * 128 + meshX c % 8 * 16 + q % 4)

def writerOfCopy (c : Nat) : BitVec 12 :=
  BitVec.ofNat 12 (dieOfCore c * 2048 + meshY c * 128 + meshX c % 8 * 16 + 4)

/-- STE `k`, whose router's position the configuration record places (R373): unit kind 2 of its table. -/
def writerOfSte (unitPos k : Nat) : BitVec 12 := BitVec.ofNat 12 (unitPos / 16 * 16 + 5 + k % 2)
/-- What a command processor or a group unit writes carries an m that is not used (R453): it names no master. -/
def unitWriter : BitVec 12 := 15#12
def writerOfHost (unitPos : Nat) : BitVec 12 := BitVec.ofNat 12 (unitPos / 16 * 16 + 7)

namespace State

/-- The unit ID that the configuration record gives the unit of a kind and index (R373), 0 where it names none. -/
def unitId (s : State) (kind index : Nat) : Nat :=
  let entryAt (i : Nat) : Nat := leNat ((List.range 4).map fun j => Memory.get s.board.flash (0x1A0 + 4 * i + j))
  ((List.range 128).findSome? fun i =>
    let e := entryAt i
    if e / 4096 % 16 = kind ∧ e / 65536 % 256 = index then some (e % 4096) else none).getD 0

def steWriter (s : State) (k : Nat) : BitVec 12 := writerOfSte (s.unitId 2 k) k
def hostWriter (s : State) : BitVec 12 := writerOfHost (s.unitId 5 0)

end State

end Sys2Proof.Machine
end

