-- ==== Sys2Proof/Machine/Routes.lean ====
section
/-! DEFINITION. The units of the mesh, and which row carries their packets to the other die (R11 to R14, R319, R320, R335,
R336). -/

namespace Sys2Proof.Machine

/-- A unit that sends or receives packets (R319). -/
inductive Site where
  | core (c : Nat)
  | slice (k : Nat)
  | ste (k : Nat)
  | heap (d : Nat)
  | command (d : Nat)
  | group (d : Nat)
  | hostPort
  deriving DecidableEq, Repr

/-- The die of a unit (R12, R14). -/
def Site.die : Site → Nat
  | .core c => dieOfCore c
  | .slice k => k / 32
  | .ste k => k / 2
  | .heap d | .command d | .group d => d
  | .hostPort => 0

namespace State

def module (s : State) (m : Nat) : Module := SMap.get {} s.modules m
def setModule (s : State) (m : Nat) (x : Module) : State := { s with modules := SMap.set s.modules m x }

/-- The row in which the crossings of row `m` go over (R336). -/
def crossingRow (s : State) (m : Nat) : Option Nat :=
  let order := m :: ((List.range 16).filter fun r => decide (m < r)) ++ ((List.range 16).filter fun r => decide (r < m)).reverse
  order.find? fun r => (s.module r).inService

/-- Whether the crossings of row `m` go over at present: a module in service takes them, and no retrain has stopped it (R335,
R336). -/
def rowCarries (s : State) (m : Nat) : Bool := (s.crossingRow m).any fun r => !(s.module r).retraining

/-- The mesh row of a unit, from the configuration record (R373). -/
def siteRow (s : State) : Site → Nat
  | .core c => meshY c
  | .slice k => s.unitId 1 k / 128 % 16
  | .ste k => s.unitId 2 k / 128 % 16
  | .heap d => s.unitId 3 d / 128 % 16
  | .command d => s.unitId 4 d / 128 % 16
  | .group d => s.unitId 7 d / 128 % 16
  | .hostPort => s.unitId 5 0 / 128 % 16

/-- Whether a packet of unit `a` reaches unit `b`: on its own die always; to the other die where the row of `a` carries it
(R13, R320). -/
def sends (s : State) (a b : Site) : Bool := a.die == b.die || s.rowCarries (s.siteRow a)

/-- Whether a request of unit `a` reaches unit `b`, and its reply comes back. -/
def reaches (s : State) (a b : Site) : Bool := s.sends a b && s.sends b a

/-- Whether a place is a scratchpad byte. -/
def isLocalPlace (place : Nat) : Bool := decide (2 ^ 48 ≤ place) && decide (place < 2 ^ 52)

/-- The unit that serves a place: its home slice, or the core of its scratchpad. -/
def siteOf (s : State) (place : Nat) : Site :=
  if isLocalPlace place then .core ((place - 2 ^ 48) / 2 ^ 20) else .slice (s.homeSlice place)

/-- The die of the unit that serves a place. -/
def dieOfPlace (s : State) (place : Nat) : Nat := (s.siteOf place).die

end State

end Sys2Proof.Machine
end

