-- ==== Sys2Proof/Machine/Flits.lean ====
section
/-! DEFINITION. Flits and their headers, routes, the queues and the receiving state of every port, and how a half-sent packet
ends (R319, R320, R323 to R327, R330, R336, R337, R420, R456). -/

namespace Sys2Proof.Machine

/-! ## Flits (R323 to R325) -/

abbrev FlitBits := BitVec 512

namespace Flit

/-- The control word is bytes 52 to 59. -/
def ctl (f : FlitBits) (lo w : Nat) : Nat := field f (416 + lo) w
def setCtl (f : FlitBits) (lo w x : Nat) : FlitBits := setField f (416 + lo) w x

def seq (f : FlitBits) : BitVec 12 := BitVec.ofNat 12 (ctl f 0 12)
def cls (f : FlitBits) : BitVec 2 := BitVec.ofNat 2 (ctl f 12 2)
def isFirst (f : FlitBits) : Bool := ctl f 14 1 == 1
def isLast (f : FlitBits) : Bool := ctl f 15 1 == 1
def resume (f : FlitBits) : Bool := ctl f 16 1 == 1
def ackseq (f : FlitBits) : BitVec 12 := BitVec.ofNat 12 (ctl f 18 12)
def ack (f : FlitBits) : Bool := ctl f 30 1 == 1
def nak (f : FlitBits) : Bool := ctl f 31 1 == 1
def pool (f : FlitBits) : Nat := ctl f 32 4
def credits (f : FlitBits) : BitVec 16 := BitVec.ofNat 16 (ctl f 36 16)
def isControl (f : FlitBits) : Bool := cls f == 3#2

/-- One bit of the reflected CRC-32C. -/
def crcBit (c : BitVec 32) : BitVec 32 := if c.getLsbD 0 then (c >>> 1) ^^^ 0x82F63B78#32 else c >>> 1
def crcByte (c : BitVec 32) (b : Byte) : BitVec 32 :=
  crcBit (crcBit (crcBit (crcBit (crcBit (crcBit (crcBit (crcBit (c ^^^ b.setWidth 32))))))))

/-- The CRC-32C of bytes. -/
def crc32c (l : List Byte) : BitVec 32 := ~~~(l.foldl crcByte 0xFFFFFFFF#32)

/-- The check that bytes 60 to 63 hold. -/
def crc (f : FlitBits) : BitVec 32 := crc32c ((List.range 60).map fun i => f.extractLsb' (8 * i) 8)
def good (f : FlitBits) : Bool := f.extractLsb' 480 32 == crc f
def withCrc (f : FlitBits) : FlitBits := setField f 480 32 (crc f).toNat

/-! The header is bytes 0 to 15 of the head flit (R324). -/

def header (f : FlitBits) : BitVec 128 := f.extractLsb' 0 128
def kind (h : BitVec 128) : Nat := field h 8 6
def ended (h : BitVec 128) : BitVec 2 := h.extractLsb' 14 2
def records (h : BitVec 128) : Nat := field h 16 4
def dest (h : BitVec 128) : Nat := field h 20 12
def master (h : BitVec 128) : BitVec 12 := h.extractLsb' 32 12
def reqnum (h : BitVec 128) : BitVec 16 := h.extractLsb' 44 16
def len (h : BitVec 128) : Nat := field h 60 9
def agent (h : BitVec 128) : Nat := field h 69 5
def ctx (h : BitVec 128) : Nat := field h 74 6
def addr (h : BitVec 128) : Word := (h.extractLsb' 80 48).setWidth 64
def aux (h : BitVec 128) : Nat := field h 0 8

/-- Flits of a packet of `n` sector records (R325). -/
def flitsOf (n : Nat) : Nat := 1 + (36 * (n - 1) + 51) / 52

/-- A kind that R325 assigns. -/
def assigned (k : Nat) : Bool := decide (1 ≤ k ∧ k ≤ 0x10) || k == 0x3E || k == 0x3F

/-- The classes in which packets of a kind travel (R321, R325): reads and writes in that of their reader or writer. -/
def travels (k : Nat) (c : BitVec 2) : Bool :=
  if k = 0x3E ∨ k = 0x3F then c == 2#2 else if k = 1 ∨ k = 2 ∨ k = 3 then c == 0#2 || c == 1#2 else c == 1#2

/-- The numbers of flits that packets of a kind have (R325). -/
def lengths (k : Nat) : List Nat :=
  if k = 2 ∨ k = 3 then [1, 2, 3, 4, 5, 6, 7, 8, 9] else if k = 0xC ∨ k = 0xD then [1, 2, 3, 4]
  else if k = 0xE ∨ k = 0xF then [2] else [1]

/-- A kind that answers a request. -/
def isReply (k : Nat) : Bool := k == 2 || k == 4 || k == 6 || k == 9 || k == 0xD

/-- The flits of the reply to a request (R325): the sectors of a read, one flit for another request, none for what asks for nothing. -/
def replyFlits (h : BitVec 128) : Nat :=
  let k := kind h
  if k = 1 then flitsOf (((addr h).toNat % 32 + len h + 31) / 32) else if k = 3 ∨ k = 5 ∨ k = 8 ∨ k = 0xC then 1 else 0

/-- The pool of a class and a kind (R323). -/
def poolOf (c : BitVec 2) (k : Nat) : Nat :=
  if c = 2#2 then 1 else (if c = 1#2 then 2 else 4) + (if isReply k then 1 else 0)

/-- A POISON flit for a packet (R337). -/
def poison (h : BitVec 128) (c : BitVec 2) : FlitBits :=
  let x : FlitBits := BitVec.ofNat 512 (dest h * 2 ^ 20 + (master h).toNat * 2 ^ 32 + (reqnum h).toNat * 2 ^ 44 +
    c.toNat * 2 ^ 14 + 0x3F * 2 ^ 8)
  setCtl x 12 4 (2 + 4 + 8)

end Flit

/-! ## Ports (R319, R420, R456) -/

/-- Router outputs 0 to 3 are north, east, south and west; rows count southwards (log 27). -/
def routerOf (port : Nat) : Nat := port / 8
def mortarPort (port : Nat) : Option Nat :=
  if port < 2048 then
    if routerOf port % 16 = 7 ∧ port % 8 = 1 then some (2 * meshY (routerOf port))
    else if routerOf port % 16 = 8 ∧ port % 8 = 3 then some (2 * meshY (routerOf port) + 1)
    else none
  else none

/-- The output port that sends on a link of a Mortar module, and the port that receives from it. -/
def senderPort (link : Nat) : Nat :=
  if link % 2 = 0 then coreAt 7 (link / 2) * 8 + 1 else coreAt 8 (link / 2) * 8 + 3
def receiverPort (link : Nat) : Nat :=
  if link % 2 = 0 then coreAt 8 (link / 2) * 8 + 3 else coreAt 7 (link / 2) * 8 + 1

/-- Room at the far side of a link that has just been trained (R456). -/
def freshCredits (port : Nat) : Vector Nat 6 :=
  if (mortarPort port).isSome then #v[0, 16, 64, 64, 128, 128] else #v[0, 16, 16, 16, 16, 16]

namespace State

def outPort (s : State) (p : Nat) : OutPort := SMap.get { credits := freshCredits p } s.outPorts p
def setOutPort (s : State) (p : Nat) (x : OutPort) : State := { s with outPorts := SMap.set s.outPorts p x }
def inPort (s : State) (p : Nat) : InPort := SMap.get {} s.inPorts p
def setInPort (s : State) (p : Nat) (x : InPort) : State := { s with inPorts := SMap.set s.inPorts p x }
def mortarDir (s : State) (l : Nat) : MortarDir := SMap.get {} s.mortar l
def setMortarDir (s : State) (l : Nat) (x : MortarDir) : State := { s with mortar := SMap.set s.mortar l x }

/-! ## Routes (R320, R336) -/

/-- The unit numbers of a router that the configuration record gives, in order; 0 is the core. -/
def unitsAt (s : State) (pos : Nat) : List Nat :=
  let entryAt (i : Nat) : Nat := leNat ((List.range 4).map fun j => Memory.get s.board.flash (0x1A0 + 4 * i + j))
  let mine := (List.range 128).filterMap fun i =>
    let e := entryAt i
    if e ≠ 0 ∧ e % 4096 / 16 = pos then some (e % 16) else none
  (List.range 16).filter fun u => u == 0 || mine.contains u

/-- The output of router `c` towards a unit ID. -/
def outputFor (s : State) (c dest : Nat) : Nat :=
  let die := dest / 2048
  let x := 8 * die + dest / 16 % 8
  let y := dest / 128 % 16
  let edge := if meshX c < 8 then 7 else 8
  if dieOfCore c ≠ die then
    if meshX c < edge then 1
    else if edge < meshX c then 3
    else
      let cross := if edge = 7 then 1 else 3
      match s.crossingRow (meshY c) with
      | none => cross
      | some r => if r = meshY c then cross else if r < meshY c then 0 else 2
  else if meshX c < x then 1
  else if x < meshX c then 3
  else if meshY c < y then 2
  else if y < meshY c then 0
  else
    let units := s.unitsAt (die * 128 + y * 8 + x % 8)
    4 + min 3 ((units.findIdx? fun u => u == dest % 16).getD 0)

/-! ## Queues of an output port -/

/-- A class queue. -/
def queueIn (o : OutPort) (c : BitVec 2) : List OutPacket :=
  if c = 0#2 then o.bulk else if c = 1#2 then o.prompt else o.alert

def setQueueIn (o : OutPort) (c : BitVec 2) (l : List OutPacket) : OutPort :=
  if c = 0#2 then { o with bulk := l } else if c = 1#2 then { o with prompt := l } else { o with alert := l }

/-- A packet joins the queue of its class. -/
def joinQueue (s : State) (port : Nat) (p : OutPacket) : State :=
  let o := s.outPort port
  s.setOutPort port (setQueueIn o p.cls (queueIn o p.cls ++ [p]))

/-- The packets that came to a queue since its last slot, in the order in which it takes them: one from each input in turn, from the
one behind the input that it took from last (R328). -/
def byTurns (last : Nat) (l : List OutPacket) : List OutPacket :=
  let round (r : Nat) : List OutPacket :=
    (List.range 9).filterMap fun i => (l.filter fun p => p.input == (last + 1 + i) % 9)[r]?
  ((List.range l.length).map round).flatten.map fun p => { p with fresh := false }

/-- The queue of a class takes the packets that have come to a port since its last slot. -/
def takeTurn (o : OutPort) (c : Fin 3) : OutPort :=
  let l := queueIn o (BitVec.ofNat 2 c.val)
  let new := byTurns o.lastIn[c] (l.filter (·.fresh))
  let o1 := setQueueIn o (BitVec.ofNat 2 c.val) (l.filter (!·.fresh) ++ new)
  { o1 with lastIn := o.lastIn.set c.val ((new.getLast?.map (·.input)).getD o.lastIn[c]) }

/-- Every queue of the port does. -/
def takeTurns (o : OutPort) : OutPort := takeTurn (takeTurn (takeTurn o 0) 1) 2

/-- A further flit of a packet that is queued or open, or that a retrained module sends first (R335). -/
def addFlit (s : State) (port id : Nat) (c : BitVec 2) (f : FlitBits) : State :=
  let more (p : OutPacket) : OutPacket := if p.id = id then { p with flits := p.flits ++ [f] } else p
  let o := s.outPort port
  let t := s.setOutPort port (setQueueIn o c (List.map more (queueIn o c)))
  match mortarPort port with
  | some link => t.setMortarDir link { t.mortarDir link with whole := (t.mortarDir link).whole.map more }
  | none => t

/-- A POISON joins the queue of an output port. -/
def sendAlert (s : State) (port : Nat) (f : FlitBits) : State :=
  let (t, id) := s.freshId
  t.joinQueue port { id := id, cls := 2#2, flits := [f], left := 1, pool := 1 }

/-- A report that a port or an engine sends to the command processor of its die (R325). -/
def sendMgmt (s : State) (die code : Nat) (addr : Word) : State := s.post (.mgmt die code addr)

/-! ## Reassembly (R330, R337) -/

def reasm (p : InPort) (c : BitVec 2) : Option Reassembly := if c = 0#2 then p.bulk else if c = 1#2 then p.prompt else none
def setReasm (p : InPort) (c : BitVec 2) (r : Option Reassembly) : InPort :=
  if c = 0#2 then { p with bulk := r } else if c = 1#2 then { p with prompt := r } else p

/-- A slot of a pool is freed at a port (R456). -/
def freeSlot (s : State) (port pool n : Nat) : State :=
  let p := s.inPort port
  s.setInPort port { p with
    freed := if h : pool < 6 then p.freed.set pool (p.freed[pool] + BitVec.ofNat 16 n) else p.freed }

/-- Room at the far side of a port that is not needed after all. -/
def giveBack (o : OutPort) (pool n : Nat) : OutPort :=
  { o with credits := if h : pool < 6 then o.credits.set pool (o.credits[pool] + n) else o.credits }

/-- A packet of a queue ends (R337): one that has not begun leaves it; one that has blocks its class, with no flit left, until the
POISON behind it has gone. -/
def endIn (id : Nat) (l : List OutPacket) : List OutPacket :=
  l.filterMap fun p =>
    if p.id ≠ id then some p else if p.begun then some { p with flits := [], ended := true } else none

/-- The POISON `f` in place of what is left of a packet that a retrained module sends first; one that has not begun is gone. -/
def endWhole (id : Nat) (f : FlitBits) (l : List OutPacket) : List OutPacket :=
  l.filterMap fun p =>
    if p.id ≠ id then some p
    else if p.begun then some { id := id, cls := 2#2, flits := [f], left := 1, pool := 1 } else none

/-- The source of a packet at an output port sends no more of it: its class goes on with the packets behind it, after the POISON `f`
where the packet has begun there (R327, R337). -/
def cutPacket (s : State) (port id : Nat) (c : BitVec 2) (f : FlitBits) : State :=
  let o := s.outPort port
  let whole := ((mortarPort port).map fun link => (s.mortarDir link).whole).getD []
  match (whole.find? fun p => p.id == id), mortarPort port with
  | some p, some link =>
    let o1 := giveBack o p.pool p.left
    let o2 : OutPort := if p.begun then { o1 with credits := o1.credits.set 1 (o1.credits[1] - 1) } else o1
    (s.setOutPort port o2).setMortarDir link { s.mortarDir link with whole := endWhole id f whole }
  | _, _ =>
    let t := s.setOutPort port (setQueueIn o c (endIn id (queueIn o c)))
    if (queueIn o c).any fun p => p.id == id && p.begun then
      (t.addTelemetry (dieOfCore (routerOf port)) 0x0A08 1).sendAlert port f
    else t

/-- The number under which a unit keeps what it has received of a packet from the output port of its router. -/
def unitPort (port : Nat) : Nat := 4096 + port

/-- A unit reserves room for `n` flits of a reply, or needs it no more (R326). -/
def reserve (s : State) (port n : Nat) : State :=
  s.setInPort (unitPort port) { s.inPort (unitPort port) with reserved := (s.inPort (unitPort port)).reserved + n }
def unreserve (s : State) (port n : Nat) : State :=
  s.setInPort (unitPort port) { s.inPort (unitPort port) with reserved := (s.inPort (unitPort port)).reserved - n }

/-- The packet of a class that is open at a port ends there: the flits that the port holds are discarded, and so is what has
not left its output yet; the POISON `f` follows where some of it has. -/
def discardOpen (s : State) (port : Nat) (c : BitVec 2) (r : Reassembly) (f : FlitBits) : State :=
  let s0 := if 4 ≤ port % 8 then s.unreserve port (Flit.replyFlits r.header) else s
  let t := s0.setInPort port (setReasm (s0.inPort port) c none)
  let u := t.cutPacket r.out r.id c f
  if r.flits.isEmpty then u else u.freeSlot port (Flit.poolOf c (Flit.kind r.header)) r.flits.length

/-- The packet of a class that is open at a port ends (R337). -/
def endOpen (s : State) (port : Nat) (c : BitVec 2) : State :=
  match reasm (s.inPort port) c with
  | none => s
  | some r => s.discardOpen port c r (Flit.withCrc (Flit.poison r.header c))

/-- A master that is frozen or stopped sends no more of the packets that it has begun: the port of its router ends them
(R337). -/
def endInjected (s : State) (core : Nat) (writer : BitVec 12) : State :=
  ([4, 5, 6, 7].flatMap fun u => [(8 * core + u, 0#2), (8 * core + u, 1#2)]).foldl (fun t e =>
    if (reasm (t.inPort e.1) e.2).any fun r => Flit.master r.header == writer then t.endOpen e.1 e.2 else t) s

end State

end Sys2Proof.Machine
end

