-- ==== Sys2Proof/Machine/Slices.lean ====
section
/-! DEFINITION. The L2 slices: which lines lie in which ways, line locks, and the transfers that the regulators of the
stacks count (R12, R228, R251, R369, R411 to R413). A line's bytes are those of its home, or of a guest copy; what lies in a
way decides which transfers there are, and when a guest copy is replaced. -/

namespace Sys2Proof.Machine

/-! ## Regulators (R411, R412) -/

namespace Regulator

def en (r : Regulator) : Bool := r.reg.getLsbD 63
def burst (r : Regulator) : Nat := field r.reg 32 24
def rate (r : Regulator) : Nat := field r.reg 0 24
/-- The most that the level can be, in milli-sectors. -/
def full (r : Regulator) : Nat := 1000 * r.burst

/-- The level after `n` increments of the die's time. -/
def refill (r : Regulator) (n : Nat) : Regulator :=
  if r.en then { r with level := min r.full (r.level + r.rate * n) } else r

/-- The held transfers that the level allows begin, the oldest first. -/
def serve (r : Regulator) : List Nat → Regulator
  | [] => { r with held := [] }
  | n :: l =>
    if 1000 * n ≤ r.level then { r with level := r.level - 1000 * n }.serve l
    else { r with held := n :: l }

/-- Of the first `n` held transfers those begin that the level allows. -/
def letGo (r : Regulator) (n : Nat) : Regulator :=
  let u := r.serve (r.held.take n)
  { u with held := u.held ++ r.held.drop n }

/-- A transfer of `n` sectors: it joins the held ones and begins when the level allows; a context that is not regulated is
not limited. -/
def charge (r : Regulator) (n : Nat) : Regulator := if r.en then r.serve (r.held ++ [n]) else r

/-- A write of the register: one with en = 1 and a burst below 4 is refused; en = 0 lets every held transfer go on. -/
def write (r : Regulator) (v : Word) : Regulator :=
  let w := v &&& 0x80FFFFFF00FFFFFF#64
  if v.getLsbD 63 then
    if field v 32 24 < 4 then r else { r with reg := w, level := 1000 * field v 32 24 }
  else { r with reg := w, held := [] }

/-- The register of an ID that no context holds any more: en is 0 (R411). -/
def stop (r : Regulator) : Regulator := { r with reg := r.reg &&& 0x7FFFFFFFFFFFFFFF#64, held := [] }

end Regulator

namespace State

/-- A transfer of `n` sectors between a slice's stack and L2, charged to a context or to none (R228, R413). The data moves
in the step that asks for it; what a held transfer delays is time only. -/
def charge (s : State) (x : Option Nat) (slice n : Nat) : State :=
  match x with
  | none => s
  | some c =>
    let k := slice / 16 * 64 + c
    if (s.regulator k).en then s.setRegulator k ((s.regulator k).charge n) else s

/-- The context that the transfers for a consumer are charged to (R413): none for the host's. -/
def payer (s : State) : Consumer → Option Nat
  | .core c | .copyEngine c => (s.ownerOf c).map (·.1)
  | .ste _ x => some x
  | .unit x => x
  | .host | .home => none

/-! ## Ways -/

/-- The set of its slice that holds a line (log 17). -/
def l2Set (s : State) (line : Nat) : Nat :=
  (if line < 2 ^ 48 then (homeOfDevice s.ranges line).2 else line) / 128 % Config.l2Sets

/-- The lines that lie in the set of a line in a slice: those homed there, and the die's guest copies. -/
def linesInSetOf (s : State) (slice line : Nat) : List L2Line :=
  (SMap.get [] s.l2 (slice * Config.l2Sets + s.l2Set line)).filter fun e =>
    s.l2Set e.line == s.l2Set line &&
      (s.homeSlice e.line == slice || (SMap.find (s.die (slice / 32)).guest e.line).isSome)

def setLines (s : State) (slice line : Nat) (l : List L2Line) : State :=
  { s with l2 := SMap.set s.l2 (slice * Config.l2Sets + s.l2Set line) l }

def isLocked (s : State) (line : Nat) : Bool := s.locks.any fun k => k.line == line

/-- What the replacement of a line does beside freeing its way: a dirty line is written back, charged to the context whose
fill takes its place (R413), or to the host where it is one of host memory (R290, R341); a guest copy is gone (R229). -/
def replaceLine (s : State) (x : Option Nat) (slice : Nat) (e : L2Line) : State :=
  let t := if !e.dirty then s
    else if 2 ^ 52 ≤ e.line then s.toHostBulk ⟨false, s.bytesAt e.line 128⟩
    else s.charge x slice 4
  if s.homeSlice e.line = slice then t
  else t.setDie (slice / 32) { t.die (slice / 32) with guest := SMap.erase (t.die (slice / 32)).guest e.line }

/-- The way that a fill of a context takes: a free one of its mask, else that of the least recently used line there that
is not locked (R369). -/
def fillWay (s : State) (c slice : Nat) (l : List L2Line) : Option (Nat × Option L2Line) :=
  let mask := (s.ctx c).way (slice / 32)
  match (List.range 16).find? fun w => mask.getLsbD w && !(l.any fun e => e.way == w) with
  | some w => some (w, none)
  | none => (l.find? fun e => mask.getLsbD e.way && !s.isLocked e.line).map fun e => (e.way, some e)

/-- An access for context `x` uses a line in a slice, and fills it where it is absent (R369): from its stack, or from the host with a
CXL.cache request (R290, R341). An access charged to no context allocates no way. -/
def useLine (s : State) (x : Option Nat) (slice line : Nat) (write : Bool) : State :=
  let l := s.linesInSetOf slice line
  match l.find? fun e => e.line == line with
  | some e => s.setLines slice line ((l.filter fun f => f.line != line) ++ [{ e with dirty := e.dirty || write }])
  | none => match x with
    | none => s
    | some c =>
      let t := if s.homeSlice line ≠ slice then s
        else if 2 ^ 52 ≤ line then s.toHostBare
        else s.charge x slice 4
      match s.fillWay c slice l with
      | none => t
      | some (w, none) => t.setLines slice line (l ++ [⟨line, w, write⟩])
      | some (w, some e) =>
        (t.replaceLine x slice e).setLines slice line ((l.filter fun f => f.line != e.line) ++ [⟨line, w, write⟩])

/-- Lines used at their homes. -/
def useHomes (s : State) (x : Option Nat) (lines : List Nat) (write : Bool) : State :=
  lines.foldl (fun t line => t.useLine x (t.homeSlice line) line write) s

/-! ## Locks -/

/-- The locks that hold ways of the set of a line. -/
def locksOfSet (s : State) (line : Nat) : List LineLock :=
  s.locks.filter fun k => s.homeSlice k.line = s.homeSlice line ∧ s.l2Set k.line = s.l2Set line

/-- A snoop of the host for a line of host memory (R290): the home has it no more, and its data goes with the response where the
device has written it. -/
def snoopLine (s : State) (line : Nat) : State :=
  let slice := s.homeSlice line
  let l := s.linesInSetOf slice line
  let t := if l.any fun e => e.line == line && e.dirty then s.toHostBulk ⟨false, s.bytesAt line 128⟩ else s
  (t.setLines slice line (l.filter fun e => e.line != line)).toHostBare

/-- A line locked in a way of its home's slice: filled if absent, and what lay in the way replaced (R251). -/
def lockInWay (s : State) (x : Option Nat) (line w : Nat) : State :=
  let slice := s.homeSlice line
  let l := s.linesInSetOf slice line
  let t := if l.any fun e => e.line == line then s else s.charge x slice 4
  let dirty := l.any fun e => e.line == line && e.dirty
  let u := match l.find? fun e => e.way == w && e.line != line with
    | some e => t.replaceLine x slice e
    | none => t
  { u.setLines slice line ((l.filter fun e => e.way != w && e.line != line) ++ [⟨line, w, dirty⟩]) with
    locks := s.locks ++ [⟨line, x, w⟩] }

/-- The four lines of a group's entry, locked and charged to no context (R367). Which ways they take, the spec does not say: here
each takes the lowest way of its set that no lock holds, whatever masks the contexts have, and a line whose 16 ways are all locked
is not locked (log 97). -/
def lockEntry (s : State) (a : Nat) : State :=
  [0, 128, 256, 384].foldl (fun t o =>
    if t.isLocked (a + o) then t
    else
      let used := (t.locksOfSet (a + o)).map (·.way)
      match (List.range 16).find? fun w => !used.contains w with
      | some w => t.lockInWay none (a + o) w
      | none => t) s

def unlockEntry (s : State) (a : Nat) : State :=
  { s with locks := s.locks.filter fun k => !(k.ctx.isNone && decide (a ≤ k.line) && decide (k.line < a + 512)) }

end State

end Sys2Proof.Machine
end

