-- ==== Sys2Proof/Machine/Translate.lean ====
section
/-! DEFINITION. Page tables, TLBs and translation (R347 to R353). -/

namespace Sys2Proof.Machine

/-- What an access needs of a page (R350). -/
structure Acc where
  rd : Bool
  wr : Bool
  ex : Bool
  deriving DecidableEq, Repr

namespace Acc
def load : Acc := ⟨true, false, false⟩
def store : Acc := ⟨false, true, false⟩
def both : Acc := ⟨true, true, false⟩
def fetch : Acc := ⟨false, false, true⟩
end Acc

/-- The answer of a translation. -/
inductive Xlate where
  /-- The place of the byte, and whether its page is a full/empty page. -/
  | ok (place : Nat) (fe : Bool)
  | page
  | prot
  /-- A walk met a malformed entry: PAGE, and a report naming its level and address (R349). -/
  | malformed (level : Nat) (entryAddr : Nat)
  /-- A walk read a poisoned sector (R372). -/
  | poisoned (sector : Nat)
  deriving DecidableEq, Repr

/-! ## Entries (R348, R349) -/

namespace Pte
def valid (e : Word) : Bool := e.getLsbD 0
def leaf (e : Word) : Bool := e.getLsbD 1
def rd (e : Word) : Bool := e.getLsbD 2
def wr (e : Word) : Bool := e.getLsbD 3
def ex (e : Word) : Bool := e.getLsbD 4
def pa (e : Word) : Nat := field e 8 44 * 256
def fe (e : Word) : Bool := e.getLsbD 52
def host (e : Word) : Bool := e.getLsbD 53
def sv (e : Word) : Bool := e.getLsbD 54
end Pte

/-- Bytes that one entry of a level maps as a leaf (R347). -/
def levelSpan : Nat → Nat
  | 0 => 2 ^ 39
  | 1 => 2 ^ 30
  | 2 => 2 ^ 21
  | _ => 2 ^ 16

/-- Size and alignment of the table that a pointer at a level names. -/
def nextTableSize (level : Nat) : Nat := if level = 2 then 256 else 4096

/-- The index of a virtual address at a level (R347). -/
def tableIndex (level va : Nat) : Nat := va / levelSpan level % (if level = 3 then 32 else 512)

/-- R349. -/
def malformedPte (level : Nat) (e : Word) : Bool :=
  let reserved := field e 55 9 ≠ 0 || field e 5 3 ≠ 0
  let isLeaf := Pte.leaf e
  let size := if isLeaf then levelSpan level else nextTableSize level
  reserved || (isLeaf && level == 0) || (!isLeaf && level == 3) ||
    Pte.pa e % size != 0 ||
    (Pte.host e && (!isLeaf || Pte.fe e)) ||
    (!Pte.host e && decide (2 ^ 38 < Pte.pa e + size)) ||
    (Pte.fe e && Pte.ex e)

/-- The answer of a walk: a leaf with the size of its page and its first virtual address, or a failure. -/
inductive Walked where
  | leaf (e : Word) (size : Nat)
  | page
  | malformed (level entryAddr : Nat)
  | poisoned (sector : Nat)
  deriving DecidableEq, Repr

namespace State

/-- The walk cache's copy of an entry of a level (R352). -/
def cachedWalk (s : State) (d c level va : Nat) : Option Word :=
  ((s.die d).walks.find? fun w => w.ctx = c ∧ w.level = level ∧ w.va = va / levelSpan level).map (·.entry)

/-- A walk from the table `t` of a level downwards; `fuel` levels are left (R350). -/
def walkFrom (s : State) (d c va : Nat) : Nat → Nat → Nat → Walked
  | 0, _, _ => .page
  | fuel + 1, level, t =>
    let a := t + 8 * tableIndex level va
    match s.cachedWalk d c level va with
    | some e => if Pte.leaf e then .leaf e (levelSpan level) else s.walkFrom d c va fuel (level + 1) (Pte.pa e)
    | none =>
      if (s.sector a).poison then .poisoned (a / 32 * 32)
      else
        let e := BitVec.ofNat 64 (s.natAt a 8)
        if !Pte.valid e then .page
        else if malformedPte level e then .malformed level a
        else if Pte.leaf e then .leaf e (levelSpan level)
        else s.walkFrom d c va fuel (level + 1) (Pte.pa e)

/-- A walk of the tree of a context. -/
def walk (s : State) (d c va : Nat) : Walked := s.walkFrom d c va 4 0 (s.ctx c).root

/-- The TLB entry of a list that covers an address of a context. -/
def tlbHit (l : List TlbEntry) (c va : Nat) : Option TlbEntry :=
  l.find? fun e => e.ctx = c ∧ e.va ≤ va ∧ va < e.va + e.size

/-- The leaf that translates an address for a core: L1 TLB, then L2 TLB, then a walk (R350). -/
def leafOf (s : State) (core c va : Nat) : Walked :=
  let d := dieOfCore core
  match tlbHit (s.core core).tlb c va with
  | some e => .leaf e.leaf e.size
  | none =>
    match tlbHit (s.die d).tlb c va with
    | some e => .leaf e.leaf e.size
    | none => s.walk d c va

/-- `translate` of R350 for a context, from a core, at supervisor or user level. -/
def translateAs (s : State) (core c : Nat) (sup : Bool) (va : Nat) (acc : Acc) : Xlate :=
  match s.leafOf core c va with
  | .page => .page
  | .malformed l a => .malformed l a
  | .poisoned k => .poisoned k
  | .leaf e size =>
    if (acc.rd && !Pte.rd e) || (acc.wr && !Pte.wr e) || (acc.ex && !Pte.ex e) || (Pte.sv e && !sup) then .prot
    else
      let a := Pte.pa e + va % size
      .ok (if Pte.host e then hostPlace a else a) (Pte.fe e)

/-- The translation of an access of the running stream. -/
def translate (s : State) (va : Nat) (acc : Acc) : Xlate :=
  s.translateAs s.myCore s.myCtxId s.me.level va acc

/-- Whether a scratchpad address of a core is backed (R23, R366). -/
def localBacked (s : State) (c a : Nat) : Bool := decide (a < 2 ^ 20) && (s.page c (a / 4096)).backed

/-- Whether the table `t` of a level, whose first virtual address is `vb`, maps a byte of the 128-byte line at a place to a
virtual address of the range; `fuel` levels are left. -/
def tableMaps (s : State) (line lo n : Nat) : Nat → Nat → Nat → Nat → Bool
  | 0, _, _, _ => false
  | fuel + 1, level, t, vb =>
    (List.range (if level = 3 then 32 else 512)).any fun i =>
      let va := vb + i * levelSpan level
      let e := BitVec.ofNat 64 (s.natAt (t + 8 * i) 8)
      if va + levelSpan level ≤ lo ∨ lo + n ≤ va ∨ !Pte.valid e ∨ malformedPte level e then false
      else if Pte.leaf e then
        let p := if Pte.host e then hostPlace (Pte.pa e) else Pte.pa e
        decide (p ≤ line) && decide (line < p + levelSpan level) && decide (lo < va + (line - p) + 128) &&
          decide (va + (line - p) < lo + n)
      else s.tableMaps line lo n fuel (level + 1) (Pte.pa e) va

/-- Whether a context maps a line into a range of its virtual addresses. -/
def mapsInto (s : State) (c line lo n : Nat) : Bool := n != 0 && s.tableMaps line lo n 4 0 (s.ctx c).root 0

/-- Whether the page tables of a context still map a full/empty page as an access has met it (R248). -/
def stillMaps (s : State) (c : Nat) (m : BitVec 16 × Nat × Nat × Nat) : Bool :=
  match { s with dies := SMap.mapVal (fun _ d => { d with walks := [] }) s.dies }.walk 0 c m.2.1 with
  | .leaf e size => Pte.fe e && size == m.2.2.1 && Pte.pa e == m.2.2.2
  | _ => false

/-- Removing translations of a context within a range from every table, and the L1 lines of its cores (R354). -/
def dropTranslations (s : State) (c lo n : Nat) : State :=
  let out (va size : Nat) : Bool := va + size ≤ lo || lo + n ≤ va
  let keepTlb (l : List TlbEntry) := l.filter fun e => e.ctx ≠ c || out e.va e.size
  let keepWalk (l : List WalkEntry) := l.filter fun w => w.ctx ≠ c || out (w.va * levelSpan w.level) (levelSpan w.level)
  let keepLine (m : SMap Line) := m.filter fun e => e.2.ctx ≠ c || out e.2.va 128
  let keepMsg (m : Msg) : Bool := match m with
    | .readReq _ x va _ _ => x != c || out va 128
    | .readData _ x va _ _ _ _ => x != c || out va 128
    | _ => true
  { s with
    net := s.net.filter keepMsg
    feMaps := s.feMaps.filter fun m => m.1 != (s.ctx c).owner || out m.2.1 m.2.2.1 || s.stillMaps c m
    cores := SMap.mapVal (fun _ k => { k with tlb := keepTlb k.tlb, l1d := keepLine k.l1d, l1i := keepLine k.l1i }) s.cores
    dies := SMap.mapVal (fun _ d => { d with tlb := keepTlb d.tlb, walks := keepWalk d.walks }) s.dies }

end State

end Sys2Proof.Machine
end

