-- ==== Sys2Proof/Machine/Groups.lean ====
section
/-! DEFINITION. The group table in memory (R312, R367) and the break of a group (R216). -/

namespace Sys2Proof.Machine

/-- The fields of a group's entry. -/
structure Group where
  size : Nat
  broken : Bool
  err : Bool
  home : Nat
  phase : BitVec 32
  arrivals : Nat
  copies0 : Nat
  copies1 : Nat
  members : BitVec 1024
  tflags : BitVec 1024
  arrived : BitVec 1024
  deriving DecidableEq, Repr

namespace Group

/-- Read from the 512 bytes of the entry. -/
def ofBytes (l : List Byte) : Group :=
  let at' (o n : Nat) : Nat := leNat ((l.drop o).take n)
  { size := at' 0 2
    broken := at' 2 1 % 2 == 1
    err := at' 2 1 / 2 % 2 == 1
    home := at' 2 1 / 4 % 2
    phase := BitVec.ofNat 32 (at' 4 4)
    arrivals := at' 8 2
    copies0 := at' 10 2
    copies1 := at' 12 2
    members := BitVec.ofNat 1024 (at' 0x40 128)
    tflags := BitVec.ofNat 1024 (at' 0xC0 128)
    arrived := BitVec.ofNat 1024 (at' 0x140 128) }

def toBytes (g : Group) : List Byte :=
  leBytes 2 g.size ++
  [BitVec.ofNat 8 (g.broken.toNat + 2 * g.err.toNat + 4 * (g.home % 2)), 0] ++
  leBytes 4 g.phase.toNat ++ leBytes 2 g.arrivals ++ leBytes 2 g.copies0 ++ leBytes 2 g.copies1 ++
  List.replicate 50 0 ++
  leBytes 128 g.members.toNat ++ leBytes 128 g.tflags.toNat ++ leBytes 128 g.arrived.toNat ++
  List.replicate 64 0

/-- The entry of a dissolved or free group. -/
def free : Group := ⟨0, false, false, 0, 0, 0, 0, 0, 0, 0, 0⟩

def memberCount (g : Group) : Nat := popCount g.members.toNat 1024

end Group

/-- A list of bytes with the places they go to, from a first place on. -/
def placed (a : Nat) (l : List Byte) : List (Nat × Byte) := l.zipIdx.map fun e => (a + e.2, e.1)

namespace State

def groupAddr (s : State) (c : Nat) (g : BitVec 8) : Nat := (s.ctx c).gtab + 512 * g.toNat

/-- The entry of group `g` of context `c`. -/
def group (s : State) (c : Nat) (g : BitVec 8) : Group := Group.ofBytes (s.bytesAt (s.groupAddr c g) 512)

/-- The group unit's write of an entry. It is no master of R453. The lines of an entry in use are locked (R367). -/
def setGroup (s : State) (c : Nat) (g : BitVec 8) (x : Group) : State :=
  let a := s.groupAddr c g
  let t := s.merge unitWriter (placed a x.toBytes)
  if x.size = 0 then t.unlockEntry a else t.lockEntry a

/-- The stream that a member index of a context names (R367). -/
def memberStream (s : State) (c i : Nat) : Nat := 4 * (s.ctx c).position (i / 4) + i % 4

/-- Setting a pending bit of a stream's `pend` (R198). -/
def setPend (s : State) (q : Nat) (bit : Nat) : State :=
  let t := s.stream q
  s.setStream q { t with pend := t.pend ||| BitVec.ofNat 5 (2 ^ bit) }

/-- What the break of a group does to member index `i` (R216). `except` is the stream that stopped. Of two groups whose breaks
merge in one pending GROUP_BROKEN, the later one is named (R202, log 78). -/
def breakMember (s : State) (c : Nat) (g : BitVec 8) (x : Group) (except : Nat) (i : Nat) : State :=
  if x.members.getLsbD i then
    let q := s.memberStream c i
    let t := s.stream q
    if q = except then s
    else
      let waits := match t.wait with
        | .bar _ h _ _ => h == g
        | .barWait _ h _ => h == g
        | .barArr _ h _ => h == g
        | _ => false
      if waits then s.post (.barBroken q g x.home)
      else if x.tflags.getLsbD i then (s.setStream q { t with brokenGroup := g }).setPend q 3
      else s
  else s

/-- A member's stop with UNCORR breaks group `g` (R216). -/
def breakGroup (s : State) (c : Nat) (except : Nat) (g : BitVec 8) : State :=
  let x := s.group c g
  let s1 := s.setGroup c g { x with broken := true }
  (List.range (4 * (s.ctx c).cores)).foldl (fun t i => t.breakMember c g x except i) s1

end State

end Sys2Proof.Machine
end

