-- ==== Sys2Proof/Machine/Ops.lean ====
section
/-! DEFINITION. The named operations that the meanings share: registers, taking an exception and returning from one,
stops, and the completion of a word. -/

namespace Sys2Proof.Machine

/-! ## Scalar and predicate registers (R90, R91, R199) -/

namespace Stream

/-- The name under which a pending token of a scalar register is kept: SB28 and SB29 are 32 and 33. -/
def bankOf (t : Stream) (n : BitVec 5) : Nat :=
  if t.level && n == 28#5 then 32 else if t.level && n == 29#5 then 33 else n.toNat

/-- S[n]: `S0` reads 0, and at supervisor level `S28` and `S29` name the supervisor bank. -/
def readS (t : Stream) (n : BitVec 5) : Word :=
  if n = 0#5 then 0
  else if t.level && n == 28#5 then t.sb28
  else if t.level && n == 29#5 then t.sb29
  else t.s[n.toNat]

/-- Storing into S[n] without touching the pending tokens. -/
def putS (t : Stream) (n : BitVec 5) (v : Word) : Stream :=
  if n = 0#5 then t
  else if t.level && n == 28#5 then { t with sb28 := v }
  else if t.level && n == 29#5 then { t with sb29 := v }
  else { t with s := t.s.set n.toNat v }

/-- S[n] := v. A write to `S0` is discarded. A token still to be written to the register is no longer architectural
(R262). -/
def writeS (t : Stream) (n : BitVec 5) (v : Word) : Stream :=
  let u := t.putS n v
  { u with pending := u.pending.filter fun e => e.reg ≠ t.bankOf n }

/-- Whether a token or reply of the register is still to come. -/
def isPending (t : Stream) (n : BitVec 5) : Bool := t.pending.any fun e => e.reg == t.bankOf n

/-- P[n]: `P0` is always true. -/
def readP (t : Stream) (n : BitVec 3) : Bool := if n = 0#3 then true else t.p[n.toNat]

/-- P[n] := b. A write to `P0` is discarded. -/
def writeP (t : Stream) (n : BitVec 3) (b : Bool) : Stream :=
  if n = 0#3 then t else { t with p := t.p.set n.toNat b }

/-! ### Loop pairs (R92, R116) -/

def lbStart (t : Stream) (n : BitVec 2) : Word := (t.lb[n.toNat].extractLsb' 0 48).setWidth 64
def lbLen (t : Stream) (n : BitVec 2) : Nat := field t.lb[n.toNat] 48 9
def loopEnd (t : Stream) (n : BitVec 2) : Word := t.lbStart n + BitVec.ofNat 64 (2 * t.lbLen n)
/-- The pair is active and the address is its end. -/
def endsAt (t : Stream) (n : BitVec 2) (a : Word) : Bool :=
  t.lc[n.toNat] != 0#32 && t.lbLen n != 0 && a == t.loopEnd n

/-- The end check of R116 for pairs `k - 1` down to 0. -/
def endCheckFrom (t : Stream) (next : Word) : Nat → Stream × Word
  | 0 => (t, next)
  | k + 1 =>
    let n := BitVec.ofNat 2 k
    if t.endsAt n next then
      let u := { t with i := t.i.set n.toNat (t.i[n.toNat] + 1), lc := t.lc.set n.toNat (t.lc[n.toNat] - 1) }
      if u.lc[n.toNat] = 0#32 then u.endCheckFrom next k else (u, u.lbStart n)
    else t.endCheckFrom next k

/-- The end check: the loop pairs it leaves, and the next fetch address. -/
def endCheck (t : Stream) (next : Word) : Stream × Word := t.endCheckFrom next 4

end Stream

namespace State

def readS (s : State) (n : BitVec 5) : Word := s.me.readS n
def writeS (s : State) (n : BitVec 5) (v : Word) : State := s.setMe (s.me.writeS n v)
def readP (s : State) (n : BitVec 3) : Bool := s.me.readP n
def writeP (s : State) (n : BitVec 3) (b : Bool) : State := s.setMe (s.me.writeP n b)

end State

/-! ## Causes (R200) -/

def Cause.code : Cause → Nat
  | .illegal => 0 | .prefixMisuse => 1 | .priv => 2 | .align => 3 | .page => 4 | .prot => 5
  | .format => 6 | .nonfinite => 7 | .waitLimit => 8 | .brk => 9 | .step => 10 | .cancelled => 11
  | .groupBroken => 12 | .copyFault => 13 | .migrate => 14 | .uncorr => 15 | .freeze => 16
  | .timer => 17 | .hostIrq => 18

/-- The bit of `pend` that an event cause clears when it is taken (R198). -/
def Cause.pendBit : Cause → Option Nat
  | .cancelled => some 4
  | .groupBroken => some 3
  | .hostIrq => some 2
  | .timer => some 1
  | .migrate => some 0
  | _ => none

/-- `SYS.EPC` keeps bits 47 to 1 (R129). -/
def maskEpc (a : Word) : Word := a &&& 0x0000FFFFFFFFFFFE#64
/-- A loop base, `SYS.TRAPBASE` and a breakpoint register without their reserved bits (R8, R92, R129, R210). -/
def maskLb (a : Word) : Word := a &&& 0x01FFFFFFFFFFFFFE#64
def maskTrapbase (a : Word) : Word := a &&& 0x0000FFFFFFFFF000#64
def maskBp (a : Word) : Word := a &&& 0x0000FFFFFFFFFFFF#64

/-! ## Entries of a TRB partition (R163 to R167) -/

/-- The waits in which the word at the pc is held and has not taken effect (R19). -/
def Wait.holds : Wait → Bool
  | .retry | .link _ _ _ | .fills | .operands _ | .reads _ | .agentRoom | .older | .retired => true
  | _ => false

/-- The stream is blocked for the data or the reply of its newest word (R19). -/
def Wait.isData : Wait → Bool
  | .data _ => true
  | _ => false

/-- The entry has issued: an engine or the front end has taken it, or its word has taken an effect beyond its stream. -/
def TrbEntry.begun (e : TrbEntry) : Bool := e.issued || e.acted

namespace Stream

/-- The registers that a squash brings back, and the stream with them brought back (R166). -/
def regs (t : Stream) : Regs :=
  { pc := t.pc, s := t.s, p := t.p, i := t.i, lc := t.lc, lb := t.lb, h := t.h, x := t.x, v := t.v, t := t.t,
    c := t.c, k := t.k, srseed := t.srseed, nftrap := t.nftrap, fewait := t.fewait, epc := t.epc,
    ecause := t.ecause, eaddr := t.eaddr, trapbase := t.trapbase, tdead := t.tdead, bp := t.bp, skip := t.skip,
    sb28 := t.sb28, sb29 := t.sb29, pending := t.pending }
def putRegs (t : Stream) (r : Regs) : Stream :=
  { t with
    pc := r.pc, s := r.s, p := r.p, i := r.i, lc := r.lc, lb := r.lb, h := r.h, x := r.x, v := r.v, t := r.t,
    c := r.c, k := r.k, srseed := r.srseed, nftrap := r.nftrap, fewait := r.fewait, epc := r.epc,
    ecause := r.ecause, eaddr := r.eaddr, trapbase := r.trapbase, tdead := r.tdead, bp := r.bp, skip := r.skip,
    sb28 := r.sb28, sb29 := r.sb29, pending := r.pending }

/-- The newest word of the stream waits or awaits a reply, and its entry has not completed. -/
def atWait (t : Stream) : Bool := t.wait != .none && t.wait != .room && !t.wait.isData && !t.wait.holds

def addCount (t : Stream) (k : Nat) (by' : BitVec 16) : Stream :=
  if h : k < 8 then { t with n := t.n.set k { t.n[k] with count := t.n[k].count + by' } } else t

/-- Removing the counts of an access; a binding that is gone keeps no trace (R398). -/
def uncount (t : Stream) (l : List (Nat × Nat)) : Stream :=
  l.foldl (fun u e => if (u.n.toList.getD e.1 default).gen = e.2 then u.addCount e.1 (-1) else u) t

/-- Entries leave the partition, and the counts that they hold leave with them. -/
def dropEntries (t : Stream) (p : TrbEntry → Bool) : Stream :=
  { t with trb := t.trb.filter fun e => !p e }.uncount ((t.trb.filter p).flatMap TrbEntry.counted)

end Stream

namespace State

/-- Whether the access of stream `q` with the given number waits in the TRB. -/
def inTrb (s : State) (q seq : Nat) : Bool := (s.stream q).trb.any fun e => e.seq == seq

/-- The bank of the context that owns the core of stream `q` counts `n` retirements (R404). -/
def countRetired (s : State) (q n : Nat) : State :=
  match s.ownerOf (q / 4) with
  | some (x, _) => s.addBank (dieOfCore (q / 4)) x 45 n
  | none => s

/-- The entry of stream `q` with the given number completes and retires (R163). -/
def retireEntry (s : State) (q seq : Nat) : State :=
  if s.inTrb q seq then
    (s.setStream q ((s.stream q).dropEntries fun e => e.seq == seq)).countRetired q 1
  else s

end State

/-! ## Squashing (R166, R167) -/

namespace State

/-- The entry `e` of stream `q` and every younger one are squashed: the registers are those before it, and its queued
stores, its copies and its tree commands are gone with their counts. -/
def squashFrom (s : State) (q : Nat) (e : TrbEntry) : State :=
  let t := s.stream q
  let young (seq : Nat) : Bool := decide (e.seq ≤ seq)
  let k := s.core (q / 4)
  let mine (r : CopyRec) : Bool := r.stream == q % 4 && young r.seq && r.phase == .active && r.done == 0
  let dead (m : Msg) : Bool := match m with
    | .steCmd _ c => c.stream == q && young c.seq
    | _ => false
  let counts := ((t.storeQ.filter fun f => young f.seq).map (·.counted)).flatten ++
    ((k.copies.filter fun r => mine r.2).map (·.2.counted)).flatten ++
    ((s.net.filterMap fun m => match m with
      | .steCmd _ c => if c.stream = q ∧ young c.seq then some c.counted else none
      | _ => none)).flatten
  let u := ((t.putRegs e.before).dropEntries fun f => young f.seq).uncount counts
  ({ s with net := s.net.filter fun m => !dead m }.setCore (q / 4) { k with copies := k.copies.filter fun r => !mine r.2 }).setStream q
    { u with
      storeQ := t.storeQ.filter fun f => !young f.seq
      run := if t.wait.isData then .ready else t.run
      wait := if t.wait.isData then .none else t.wait }

/-- Every entry of stream `q` that has not retired is squashed (R214). A word whose effect has reached other agents was the
oldest entry when it took effect: it completes and retires. -/
def squashAll (s : State) (q : Nat) : State :=
  let t := s.stream q
  let u := match t.trb with
    | e :: _ => if e.acted && !(t.atWait && e.seq == t.seqNext) then s.retireEntry q e.seq else s
    | [] => s
  match (u.stream q).trb with
  | [] => u
  | e :: _ => u.squashFrom q e

/-- Stream `q` meets its event point (R167): its oldest entry that has not issued and every younger one are squashed. A word that
waits keeps its wait and its entry. -/
def toEventPoint (s : State) (q : Nat) : State :=
  let t := s.stream q
  if t.atWait then s
  else match t.trb.find? fun e => !e.begun with
    | some e => s.squashFrom q e
    | none => s

/-- Stream `q` stands at its event point: every older entry has retired. -/
def atEventPoint (s : State) (q : Nat) : Bool :=
  (s.stream q).trb.all fun e => (s.stream q).atWait && e.seq == (s.stream q).seqNext

end State

/-! ## Stops (R214, R216) -/

/-- A die that forgets the takes of a stream. -/
def Die.withdraw (d : Die) (q : Nat) : Die :=
  { d with takes := d.takes.filter (· ≠ q) }

namespace State

/-- Releasing the page locks that a stream holds (R253). -/
def releasePageLocks (s : State) (q : Nat) : State :=
  let c := q / 4
  let k := s.core c
  let free (_ : Nat) (p : PageState) : PageState :=
    if p.locked ∧ p.holder = BitVec.ofNat 2 (q % 4) then { p with locked := false } else p
  s.setCore c { k with pages := SMap.mapVal free k.pages }

/-- Withdrawing every request that a stream waits with: full/empty requests with their answers, and takes. -/
def withdraw (s : State) (q : Nat) : State :=
  { s with
    feQueue := s.feQueue.filter fun r => r.stream ≠ q
    net := s.net.filter fun m => match m with
      | .feReply p _ _ => p != q
      | _ => true
    dies := SMap.mapVal (fun _ d => d.withdraw q) s.dies }

/-- Words of stream `q` that are yet to come have read nothing ahead (R272): they are squashed, or ordered behind what the
stream does now. -/
def forgetAhead (s : State) (q : Nat) : State := { s with ahead := s.ahead.filter fun a => a.stream != q }

/-- The same for every stream of a core. -/
def forgetCore (s : State) (c : Nat) : State := { s with ahead := s.ahead.filter fun a => a.stream / 4 != c }

/-- `stop(cause)` of stream `q` (R214): the stream is idle with its fault mark set, and a fault record goes to the
context's fault queue. A stop with UNCORR breaks the stream's groups (R216). What it has begun to send ends (R337). -/
def stopStream (s : State) (q : Nat) (cause : Cause) (epc eaddr : Word) (double : Bool) : State :=
  let t := s.stream q
  let s1 := (((s.withdraw q).forgetAhead q).endInjected (q / 4) (writerOfStream q)).setStream q { t.dropEntries fun _ => true with
    run := .idle
    faultMark := true
    wait := .none
    task := none
    trb := []
    epc := maskEpc epc
    ecause := BitVec.ofNat 6 cause.code
    eaddr := eaddr }
  let s2 := s1.releasePageLocks q
  match s.ownerOf (q / 4) with
  | none => s2
  | some (c, j) =>
    let x := s2.ctx c
    let s3 := (s2.setCtx c { x with faults := x.faults ++ [⟨c, j, q % 4, cause, maskEpc epc, eaddr, double⟩] }).toHost
      (1 + c) 1 (BitVec.ofNat 64 (j * 4 + q % 4)) (dieOfCore (q / 4))
    if cause = .uncorr then t.groups.foldl (fun u m => u.breakGroup c q m.group) s3 else s3

end State

namespace State

/-- A stop that no word of the stream raises (R214, R215): at its oldest entry that has not retired. -/
def stopNow (s : State) (q : Nat) (cause : Cause) (eaddr : Word) : State :=
  let t := s.squashAll q
  t.stopStream q cause (t.stream q).pc eaddr false

end State

/-! ## Taking an exception and returning from one (R203, R204, R208) -/

/-- The handler address of a cause: `SYS.TRAPBASE` + 64 · code (R203). -/
def handlerOf (trapbase : Word) (cause : Cause) : Word := trapbase + BitVec.ofNat 64 (64 * cause.code)

/-- The pending bits and the host value after a cause is taken: its bit is cleared, and a held HOSTIRQ value becomes
the pending one (R198, R202). -/
def Stream.clearPend (t : Stream) (cause : Cause) : Stream :=
  match cause.pendBit with
  | none => t
  | some b =>
    let u := { t with pend := t.pend &&& ~~~(BitVec.ofNat 5 (2 ^ b)) }
    if cause = .hostIrq then
      match t.hostQueue with
      | [] => u
      | v :: l => { u with pend := u.pend ||| 4#5, hval := v, hostQueue := l }
    else u

/-- Trap entry at user level: the saved registers, the status and the next fetch address (R203). -/
def Stream.enterTrap (t : Stream) (cause : Cause) (epc eaddr : Word) : Stream :=
  { t.clearPend cause with
    run := .ready
    wait := .none
    trb := []
    epc := maskEpc epc
    ecause := BitVec.ofNat 6 cause.code
    eaddr := eaddr
    step := false
    level := true
    pc := handlerOf t.trapbase cause }

namespace State

/-- `raise(cause)` for stream `q` with its restart and fault addresses (R203): UNCORR and FREEZE stop the stream, and
so does a synchronous cause at supervisor level, with the double-trap flag (R204). The entries older than the word have
retired by then (R166), and a stepped word has completed and retires (R209). -/
def raiseAt (s0 : State) (q : Nat) (cause : Cause) (epc eaddr : Word) : State :=
  let s := if cause = .step then s0.retireEntry q (s0.stream q).seqNext else s0
  let t := s.stream q
  if cause = .uncorr ∨ cause = .freeze then s.stopStream q cause epc eaddr false
  else if t.level then s.stopStream q cause epc eaddr true
  else ((s.withdraw q).forgetAhead q).setStream q ((t.dropEntries fun _ => true).enterTrap cause epc eaddr)

/-- A cause of the word that the running stream executes: `SYS.EPC` names that word. -/
def raise (s : State) (cause : Cause) (eaddr : Word) : State := s.raiseAt s.cur cause s.me.pc eaddr

end State

/-- `ERET` and `ERET.STEP` (R208). -/
def Stream.returnFromTrap (t : Stream) (step : Bool) : Stream :=
  { t with level := false, skip := true, step := step, pc := t.epc, run := .ready }

/-! ## Completion of a word -/

/-- What the body of a word comes to. -/
inductive Effect where
  /-- The word has had its effect and passes control sequentially. -/
  | done (s : State)
  /-- The word has had its effect and passes control sequentially from the given address (R115). -/
  | after (s : State) (a : Word)
  /-- The word has had its effect and transfers control to the address (R35, R114). -/
  | jump (s : State) (a : Word)
  /-- The word raises a cause, and nothing else of it takes place. -/
  | trap (c : Cause) (eaddr : Word)
  /-- The word cannot go on yet: it is held, and decodes again (R19, R95). -/
  | hold (w : Wait)
  /-- The state is as the word leaves it, its next fetch address included. -/
  | keep (s : State)

abbrev Out := Host.Outcome State Fault Refusal

/-- An address that is never fetched: its bits 63 to 48 are not all 0 (R35). -/
def neverFetched (a : Word) : Bool := a.extractLsb' 48 16 != 0#16

namespace State

/-- After a word has completed: the single-step trap, when the word ran with step = 1 (R209). -/
def afterWord (s : State) (word : Word) : State :=
  if s.me.step then s.raiseAt s.cur .step s.me.pc word else s

/-- The running stream goes on at an address. -/
def goTo (s : State) (a : Word) : State := s.setMe { s.me with pc := a, run := .ready, wait := .none }

/-- The running stream holds its word for a reason. Whether it is blocked meanwhile follows from the word (R19). -/
def holdFor (s : State) (w : Wait) : State := s.setMe { s.me with run := .ready, wait := w }

/-- The running stream holds its word and is blocked (R19). -/
def blockOn (s : State) (w : Wait) : State := s.setMe { s.me with run := .blocked, wait := w }

/-- The running stream holds its word, which decodes again in a later slot. -/
def holdWord (s : State) : State := s.holdFor .retry

/-- Sequential completion of the word of state `s0`, now in state `s`, with control passing from address `a`: the end
check runs, and a next fetch address that is never fetched raises PAGE at the word (R35, R116). -/
def sequential (s0 s : State) (a : Word) : State :=
  let (t, next) := s.me.endCheck a
  if neverFetched next then s0.raise .page next else ((s.setMe t).goTo next).afterWord s0.me.pc

/-- A taken transfer of the word of state `s0` (R35). -/
def transfer (s0 s : State) (a : Word) : State :=
  if a.getLsbD 0 then s0.raise .align a
  else if neverFetched a then s0.raise .page a
  else (s.goTo a).afterWord s0.me.pc

/-- The running stream has stopped while its word ran: the word of state `s0` read a sector that fails its check and that
the stream itself wrote (R233). -/
def stoppedSince (s0 s : State) : Bool := s.me.faultMark && !s0.me.faultMark

/-- The word of state `s0`, in which its stream stopped, has not retired: the registers are those before the oldest entry
that had not. -/
def cutOff (s0 s : State) : State :=
  let t := (s0.squashAll s0.cur).me
  s.setMe { s.me with
    s := t.s, p := t.p, i := t.i, lc := t.lc, lb := t.lb, h := t.h, x := t.x, v := t.v, t := t.t, c := t.c, k := t.k
    sb28 := t.sb28, sb29 := t.sb29, pending := t.pending }

/-- The end of a word of `len` bytes that the running stream of `s` executes. -/
def finish (len : Nat) (s : State) : Effect → State
  | .done s' => if s.stoppedSince s' then s.cutOff s' else s.sequential s' (s.me.pc + BitVec.ofNat 64 len)
  | .after s' a => if s.stoppedSince s' then s.cutOff s' else s.sequential s' a
  | .jump s' a => if s.stoppedSince s' then s.cutOff s' else s.transfer s' a
  | .trap c ea => s.raise c ea
  | .hold w => s.holdFor w
  | .keep s' => s'

/-- A word of `len` bytes whose guard is `g`: with a false guard it retires without effect (R41). -/
def guarded (g : BitVec 3) (len : Nat) (s : State) (body : State → Effect) : State :=
  s.finish len (if s.readP g then body s else .done s)

/-- A brick with guard `g`. -/
def brick (g : BitVec 3) (s : State) (body : State → Effect) : Out := .next (s.guarded g 4 body)

/-- A bat: no guard, two bytes. -/
def bat (s : State) (body : State → Effect) : Out := .next (s.finish 2 (body s))

/-- A brick that only supervisor level may run: PRIV at user level comes before the guard (R49, R207). -/
def supervisorBrick (g : BitVec 3) (s : State) (body : State → Effect) : Out :=
  if s.me.level then s.brick g body else .next (s.raise .priv 0)

/-- A brick that only user level may run (R302). -/
def userBrick (g : BitVec 3) (s : State) (body : State → Effect) : Out :=
  if s.me.level then .next (s.raise .priv 0) else s.brick g body

/-- A waiting word of stream `q` completes with an effect on that stream; the word is the brick at its pc. -/
def completeFor (s : State) (q : Nat) (body : State → Effect) : State :=
  let s1 := { s with cur := q }
  s1.finish 4 (body s1)

/-- What meets a stream that is moving changes the state it held before the move (R19, R218). A stream whose word traps
runs its handler first (R219). -/
def whileMoving (s : State) (q : Nat) (f : State → State) : State :=
  let t := s.stream q
  if t.run = .moving then
    let u := f (s.setStream q { t with run := t.runBefore })
    let v := u.stream q
    if v.run = .moving || (v.level && v.run = .ready && !t.level) then u
    else u.setStream q { v with run := .moving, runBefore := v.run }
  else f s

/-- A message addressed to the stream is held: its core moves, or has moved and left a peg (R218). The messages of a
context that is switched out still arrive (R220). -/
def holdsFor (s : State) (q : Nat) : Bool :=
  let k := s.core (q / 4)
  k.peg.isSome || (k.moving && !(k.owner.any fun o => (s.ctx o.1).leaving))

/-- The die time T of a die (R407). -/
def now (s : State) (d : Nat) : Nat := (s.die d).time.toNat / 2 ^ 40

/-- The running stream's word waits, from now on, for the rows of its core and of a unit that do not carry what they send to each
other (R332, R336); `addr` is the storage that it is to reach. -/
def linkHold (s : State) (site : Site) (addr : Nat) : Effect :=
  .hold (.link (s.now s.myDie) [meshY s.myCore, s.siteRow site] (BitVec.ofNat 64 addr))

/-- A word that asks a unit for something waits until the link carries its request and the reply (R13, R336). -/
def asking (s : State) (site : Site) (body : Effect) : Effect :=
  if s.reaches (.core s.myCore) site then body else s.linkHold site 0

end State

end Sys2Proof.Machine
end

