-- ==== Sys2Proof/Machine/Flags.lean ====
section
/-! DEFINITION. The predicates that instructions compute: comparisons (R104, R105, R111) and predicate logic (R106).
The machine has no other flags. -/

namespace Sys2Proof.Machine

/-- R104. -/
def cmpHolds (c : CmpCc) (a b : Word) : Bool :=
  match c with
  | .eq => a == b
  | .ne => a != b
  | .lt => a.slt b
  | .le => a.sle b
  | .gt => b.slt a
  | .ge => b.sle a
  | .ltu => a.ult b
  | .leu => a.ule b
  | .gtu => b.ult a
  | .geu => b.ule a
  | .tst => a &&& b != 0#64
  | .tstn => a &&& b == 0#64

/-- R105: the index as a natural number against the immediate, as exact integers. -/
def icmpHolds (c : ICmpCc) (i : BitVec 32) (imm : Word) : Bool :=
  let x : Int := i.toNat
  let y : Int := imm.toInt
  match c with
  | .eq => x == y
  | .ne => x != y
  | .lt => decide (x < y)
  | .ge => decide (y ≤ x)

/-- R111 and R70: the comparison of two FP32 codes. -/
def fcmpHolds (c : FCmpCc) (a b : Nat) : Bool :=
  let o := Val.cmp (Fmt.fp32.value a) (Fmt.fp32.value b)
  match c with
  | .eq => o == some .eq
  | .lt => o == some .lt
  | .le => o == some .lt || o == some .eq
  | .un => o == none
  | .ne => o != some .eq

/-- The operations of R106. -/
inductive PredOp where
  | and | or | xor | andn | orn | nand | nor | xnor
  deriving DecidableEq, Repr

def PredOp.eval (o : PredOp) (a b : Bool) : Bool :=
  match o with
  | .and => a && b
  | .or => a || b
  | .xor => a != b
  | .andn => a && !b
  | .orn => a || !b
  | .nand => !(a && b)
  | .nor => !(a || b)
  | .xnor => a == b

end Sys2Proof.Machine
end

