-- ==== Sys2Proof/Machine/Operands.lean ====
section
/-! DEFINITION. Operand forms: immediates and bases (R43, R44), offsets (R38, R40, R112), extension registers and the
keys of stochastic rounding (R45, R79, R108). -/

namespace Sys2Proof.Machine

/-- The immediate of an RI or M word without a prefix (R44). -/
def imm12 (i : BitVec 12) : Word := i.signExtend 64

/-- The immediate of a prefixed pair (R44): the payload has bits `p` on top. -/
def immPair (p : BitVec 4) (q : BitVec 16) (i : BitVec 12) : Word := (p ++ q ++ i).signExtend 64

/-- The register that the base field of an M word names (R43). -/
def baseReg (b : BitVec 4) : BitVec 5 := if b = 0#4 then 0#5 else 16#5 + b.setWidth 5

/-- A parcel offset in bytes. -/
def offset10 (o : BitVec 10) : Word := 2#64 * o.signExtend 64
def offset16 (o : BitVec 16) : Word := 2#64 * o.signExtend 64

namespace State

/-- Effective address of an M word (R53). -/
def mAddr (s : State) (b : BitVec 4) (imm : Word) : Word := s.readS (baseReg b) + imm

/-- The address of the word that runs. -/
def own (s : State) : Word := s.me.pc

/-- The condition of a C.B or C.J word (R41). -/
def condition (s : State) (g : BitVec 3) (gn : BitVec 1) : Bool := s.readP g != (gn == 1#1)

/-- `X0` as the word captures it (R45). -/
def x0 (s : State) : Word := s.me.x[0]

/-- The key of the draws of a word: SRSEED with the low byte of `X0` on top (R79, R108). -/
def drawKey (s : State) : Word := s.me.srseed ^^^ (((s.x0.extractLsb' 0 8).setWidth 64) <<< 56)

/-- How the running word rounds in a mode. -/
def rnd (s : State) (m : RMode) : Rnd := ⟨m, s.drawKey⟩

end State

end Sys2Proof.Machine
end

