-- ==== Sys2Proof/Machine/Arith.lean ====
section
/-! DEFINITION. The functions of the scalar instructions on words (R98 to R101, R103, R108 to R110). -/

namespace Sys2Proof.Machine

/-! ## Integers -/

def int64Min : Int := -(2 ^ 63)
def int64Max : Int := 2 ^ 63 - 1

/-- The high 64 bits of a product of integers. -/
def highWord (x : Int) : Word := BitVec.ofInt 64 (x / 2 ^ 64)

/-- Signed saturating division of `n`-bit integers (R98, R101). -/
def sdivSat (n : Nat) (x y : Int) : Int :=
  let lo : Int := -(2 ^ (n - 1))
  let hi : Int := 2 ^ (n - 1) - 1
  if y = 0 then (if 0 ≤ x then hi else lo) else clampInt lo hi (x.tdiv y)

def sremOf (x y : Int) : Int := if y = 0 then 0 else x.tmod y
def udivSat (n : Nat) (x y : Nat) : Nat := if y = 0 then 2 ^ n - 1 else x / y
def uremOf (x y : Nat) : Nat := if y = 0 then 0 else x % y

def satSigned (x : Int) : Word := BitVec.ofInt 64 (clampInt int64Min int64Max x)
def satUnsigned (x : Int) : Word := BitVec.ofInt 64 (clampInt 0 (2 ^ 64 - 1) x)

def sdivW (a b : Word) : Word := BitVec.ofInt 64 (sdivSat 64 a.toInt b.toInt)
def udivW (a b : Word) : Word := BitVec.ofNat 64 (udivSat 64 a.toNat b.toNat)
def sremW (a b : Word) : Word := BitVec.ofInt 64 (sremOf a.toInt b.toInt)
def uremW (a b : Word) : Word := BitVec.ofNat 64 (uremOf a.toNat b.toNat)

/-- A shift amount of a 64-bit operation. -/
def shiftBy (b : Word) : Nat := field b 0 6

/-! ## Bits (R100) -/

def countLeading {n : Nat} (b : BitVec n) : Nat := if b.toNat = 0 then n else n - 1 - Nat.log2 b.toNat

/-- Zero bits from bit `i` up, among `n`. -/
def trailingFrom (b : Nat) : Nat → Nat → Nat
  | 0, _ => 0
  | n + 1, i => if b.testBit i then 0 else 1 + trailingFrom b n (i + 1)

def countTrailing (b : Word) : Nat := trailingFrom b.toNat 64 0

def reverseBits (b : Word) : Word :=
  (List.range 64).foldl (fun r i => (r <<< 1) ||| (BitVec.ofBool (b.getLsbD i)).setWidth 64) 0#64

def reverseBytes (b : Word) : Word :=
  (List.range 8).foldl (fun r i => (r <<< 8) ||| (b.extractLsb' (8 * i) 8).setWidth 64) 0#64

/-- Position and length of the field that S[b] names. -/
def fieldPos (b : Word) : Nat := field b 0 6
def fieldLen (b : Word) : Nat := min (field b 8 7) (64 - fieldPos b)

def bfxu (a b : Word) : Word := BitVec.ofNat 64 (field a (fieldPos b) (fieldLen b))
def bfx (a b : Word) : Word :=
  let m := fieldLen b
  let v := field a (fieldPos b) m
  if m = 0 then 0 else if v.testBit (m - 1) then BitVec.ofInt 64 ((v : Int) - 2 ^ m) else BitVec.ofNat 64 v
def bfi (d a b : Word) : Word :=
  let m := fieldLen b
  if m = 0 then d else setField d (fieldPos b) m a.toNat

/-! ## 32-bit operations (R101) -/

def low32 (a : Word) : BitVec 32 := a.setWidth 32
/-- A 32-bit result, sign-extended. -/
def sx32 (a : BitVec 32) : Word := a.signExtend 64

/-! ## Floating point (R108 to R110): FP32 in the low halves -/

def fpCode (a : Word) : Nat := (low32 a).toNat
def fpVal (a : Word) : Val := Fmt.fp32.value (fpCode a)
def fpWord (c : Nat) : Word := (BitVec.ofNat 32 c).setWidth 64

def fpAdd (r : Rnd) (a b : Word) : Word := fpWord (Fmt.fp32.sum r 0 [fpVal a, fpVal b])
def fpSub (r : Rnd) (a b : Word) : Word := fpWord (Fmt.fp32.sum r 0 [fpVal a, (fpVal b).neg])
def fpMul (r : Rnd) (a b : Word) : Word := fpWord (Fmt.fp32.ofVal r 0 ((fpVal a).mul (fpVal b)))
def fpDiv (r : Rnd) (a b : Word) : Word := fpWord (Fmt.fp32.div r 0 (fpVal a) (fpVal b))
def fpFma (r : Rnd) (d a b : Word) : Word := fpWord (Fmt.fp32.sum r 0 [fpVal d, (fpVal a).mul (fpVal b)])
def fpFms (r : Rnd) (d a b : Word) : Word := fpWord (Fmt.fp32.sum r 0 [fpVal d, ((fpVal a).mul (fpVal b)).neg])
def fpSqrt (r : Rnd) (a : Word) : Word := fpWord (Fmt.fp32.sqrt r 0 (fpVal a))
def fpToInt (r : Rnd) (a : Word) : Word := BitVec.ofInt 64 ((fpVal a).toInt r 0 int64Min int64Max)
def fpToNat (r : Rnd) (a : Word) : Word := BitVec.ofInt 64 ((fpVal a).toInt r 0 0 (2 ^ 64 - 1))
def fpOfInt (r : Rnd) (a : Word) : Word := fpWord (Fmt.fp32.ofInt r 0 a.toInt)
def fpOfNat (r : Rnd) (a : Word) : Word := fpWord (Fmt.fp32.ofInt r 0 a.toNat)

/-- FP32 sign operations; a NaN's sign bit is its bit 31 like any other code's (R69). -/
def fpNeg (a : Word) : Word := (low32 a ^^^ 0x80000000#32).setWidth 64
def fpAbs (a : Word) : Word := (low32 a &&& 0x7FFFFFFF#32).setWidth 64
def fpCopySign (a b : Word) : Word := ((low32 a &&& 0x7FFFFFFF#32) ||| (low32 b &&& 0x80000000#32)).setWidth 64

end Sys2Proof.Machine
end

