-- ==== Sys2Proof/Machine/Scalar.lean ====
section
/-! DEFINITION. The scalar instructions of chapters 02 and 04: bats, immediate ALU, RR words, predicates, floating point,
branches and loops. Loads and stores are in LoadStore. -/

namespace Sys2Proof.Machine

/-- `concat(P7, …, P1, 1)` (R102). -/
def predWord (t : Stream) : Nat :=
  (List.range 8).foldl (fun w k => w + (if t.readP (BitVec.ofNat 3 k) then 2 ^ k else 0)) 0

/-- P[k] := S[a][k] for k = 1 to 7 (R102). -/
def setPreds (t : Stream) (w : Word) : Stream :=
  (List.range 8).foldl (fun u k => u.writeP (BitVec.ofNat 3 k) (w.getLsbD k)) t

namespace State

/-- A bat that writes S[a] from S[a] and S[b] (R38). -/
def batOp (s : State) (a b : BitVec 5) (f : Word → Word → Word) : Out :=
  s.bat fun s => .done (s.writeS a (f (s.readS a) (s.readS b)))

/-- A brick that writes S[d] from what the stream holds. -/
def setS (s : State) (g : BitVec 3) (d : BitVec 5) (f : State → Word) : Out :=
  s.brick g fun s => .done (s.writeS d (f s))

/-- A brick that writes S[d] from S[a] and S[b]. -/
def op2 (s : State) (g : BitVec 3) (d a b : BitVec 5) (f : Word → Word → Word) : Out :=
  s.setS g d fun s => f (s.readS a) (s.readS b)

/-- A brick that writes S[d] from S[a]. -/
def op1 (s : State) (g : BitVec 3) (d a : BitVec 5) (f : Word → Word) : Out :=
  s.setS g d fun s => f (s.readS a)

/-- A 32-bit operation (R101). -/
def op2W (s : State) (g : BitVec 3) (d a b : BitVec 5) (f : BitVec 32 → BitVec 32 → BitVec 32) : Out :=
  s.op2 g d a b fun x y => sx32 (f (low32 x) (low32 y))

/-- A brick that writes P[d]. -/
def setP (s : State) (g : BitVec 3) (d : BitVec 3) (f : State → Bool) : Out :=
  s.brick g fun s => .done (s.writeP d (f s))

/-- R106. -/
def predOp (s : State) (g d a b : BitVec 3) (o : PredOp) : Out :=
  s.setP g d fun s => o.eval (s.readP a) (s.readP b)

/-- An FP32 operation of two operands with a rounding mode (R109). -/
def fp2 (s : State) (g : BitVec 3) (d a b : BitVec 5) (m : RMode) (f : Rnd → Word → Word → Word) : Out :=
  s.setS g d fun s => f (s.rnd m) (s.readS a) (s.readS b)

def fp1 (s : State) (g : BitVec 3) (d a : BitVec 5) (m : RMode) (f : Rnd → Word → Word) : Out :=
  s.setS g d fun s => f (s.rnd m) (s.readS a)

end State

/-! ## Bats (R38) -/

/-- `BAT_MOV` (R38): S[fa] := S[fb]. -/
def execBatMov (a b : BitVec 5) (s : State) : Out :=
  s.batOp a b (fun _ y => y)

/-- `BAT_ADD` (R38): S[fa] := S[fa] + S[fb]. -/
def execBatAdd (a b : BitVec 5) (s : State) : Out :=
  s.batOp a b (fun x y => x + y)

/-- `BAT_SUB` (R38): S[fa] := S[fa] - S[fb]. -/
def execBatSub (a b : BitVec 5) (s : State) : Out :=
  s.batOp a b (fun x y => x - y)

/-- `BAT_AND` (R38): S[fa] := S[fa] AND S[fb]. -/
def execBatAnd (a b : BitVec 5) (s : State) : Out :=
  s.batOp a b (fun x y => x &&& y)

/-- `BAT_OR` (R38): S[fa] := S[fa] OR S[fb]. -/
def execBatOr (a b : BitVec 5) (s : State) : Out :=
  s.batOp a b (fun x y => x ||| y)

/-- `BAT_XOR` (R38): S[fa] := S[fa] XOR S[fb]. -/
def execBatXor (a b : BitVec 5) (s : State) : Out :=
  s.batOp a b (fun x y => x ^^^ y)

/-- `BAT_SHL` (R38): S[fa] shifted left by S[fb][5:0]. -/
def execBatShl (a b : BitVec 5) (s : State) : Out :=
  s.batOp a b (fun x y => x <<< shiftBy y)

/-- `BAT_SHR` (R38): S[fa] shifted right, logical. -/
def execBatShr (a b : BitVec 5) (s : State) : Out :=
  s.batOp a b (fun x y => x >>> shiftBy y)

/-- `BAT_SRA` (R38): S[fa] shifted right, arithmetic. -/
def execBatSra (a b : BitVec 5) (s : State) : Out :=
  s.batOp a b (fun x y => x.sshiftRight (shiftBy y))

/-- `BAT_MUL` (R38): The low 64 bits of the product. -/
def execBatMul (a b : BitVec 5) (s : State) : Out :=
  s.batOp a b (fun x y => x * y)

/-- `BAT_JR` (R38): next fetch at S[fb]. -/
def execBatJr (b : BitVec 5) (s : State) : Out :=
  s.bat fun s => .jump s (s.readS b)

/-- `BAT_B` (R38): next fetch at own address + 2·off10. -/
def execBatB (o : BitVec 10) (s : State) : Out :=
  s.bat fun s => .jump s (s.own + offset10 o)

/-- `BAT_CALL` (R38): S31 takes own address + 2. -/
def execBatCall (o : BitVec 10) (s : State) : Out :=
  s.bat fun s => .jump (s.writeS 31#5 (s.own + 2#64)) (s.own + offset10 o)

/-! ## Immediate ALU (R52)

The bodies take the immediate of R44, which a prefixed pair supplies too. -/

/-- `MOVI` (R52): S[d] := imm. -/
def moviBody (imm : Word) (d : BitVec 5) (s : State) : Effect :=
  .done (s.writeS d ((fun _ y => y : Word → Word → Word) (s.readS d) imm))

/-- `MOVI` without a prefix. -/
def execMovi (g : BitVec 3) (i : BitVec 12) (d : BitVec 5) (s : State) : Out :=
  s.brick g (moviBody (imm12 i) d)

/-- `ADDI` (R52): S[d] + imm. -/
def addiBody (imm : Word) (d : BitVec 5) (s : State) : Effect :=
  .done (s.writeS d ((fun x y => x + y : Word → Word → Word) (s.readS d) imm))

/-- `ADDI` without a prefix. -/
def execAddi (g : BitVec 3) (i : BitVec 12) (d : BitVec 5) (s : State) : Out :=
  s.brick g (addiBody (imm12 i) d)

/-- `ANDI` (R52): S[d] AND imm. -/
def andiBody (imm : Word) (d : BitVec 5) (s : State) : Effect :=
  .done (s.writeS d ((fun x y => x &&& y : Word → Word → Word) (s.readS d) imm))

/-- `ANDI` without a prefix. -/
def execAndi (g : BitVec 3) (i : BitVec 12) (d : BitVec 5) (s : State) : Out :=
  s.brick g (andiBody (imm12 i) d)

/-- `ORI` (R52): S[d] OR imm. -/
def oriBody (imm : Word) (d : BitVec 5) (s : State) : Effect :=
  .done (s.writeS d ((fun x y => x ||| y : Word → Word → Word) (s.readS d) imm))

/-- `ORI` without a prefix. -/
def execOri (g : BitVec 3) (i : BitVec 12) (d : BitVec 5) (s : State) : Out :=
  s.brick g (oriBody (imm12 i) d)

/-- `XORI` (R52): S[d] XOR imm. -/
def xoriBody (imm : Word) (d : BitVec 5) (s : State) : Effect :=
  .done (s.writeS d ((fun x y => x ^^^ y : Word → Word → Word) (s.readS d) imm))

/-- `XORI` without a prefix. -/
def execXori (g : BitVec 3) (i : BitVec 12) (d : BitVec 5) (s : State) : Out :=
  s.brick g (xoriBody (imm12 i) d)

/-- `SHLI` (R52): S[d] shifted left. -/
def shliBody (imm : Word) (d : BitVec 5) (s : State) : Effect :=
  .done (s.writeS d ((fun x y => x <<< shiftBy y : Word → Word → Word) (s.readS d) imm))

/-- `SHLI` without a prefix. -/
def execShli (g : BitVec 3) (i : BitVec 12) (d : BitVec 5) (s : State) : Out :=
  s.brick g (shliBody (imm12 i) d)

/-- `SHRI` (R52): S[d] shifted right, logical. -/
def shriBody (imm : Word) (d : BitVec 5) (s : State) : Effect :=
  .done (s.writeS d ((fun x y => x >>> shiftBy y : Word → Word → Word) (s.readS d) imm))

/-- `SHRI` without a prefix. -/
def execShri (g : BitVec 3) (i : BitVec 12) (d : BitVec 5) (s : State) : Out :=
  s.brick g (shriBody (imm12 i) d)

/-- `SRAI` (R52): S[d] shifted right, arithmetic. -/
def sraiBody (imm : Word) (d : BitVec 5) (s : State) : Effect :=
  .done (s.writeS d ((fun x y => x.sshiftRight (shiftBy y) : Word → Word → Word) (s.readS d) imm))

/-- `SRAI` without a prefix. -/
def execSrai (g : BitVec 3) (i : BitVec 12) (d : BitVec 5) (s : State) : Out :=
  s.brick g (sraiBody (imm12 i) d)

/-- `MULI` (R52): low 64 bits of S[d] · imm. -/
def muliBody (imm : Word) (d : BitVec 5) (s : State) : Effect :=
  .done (s.writeS d ((fun x y => x * y : Word → Word → Word) (s.readS d) imm))

/-- `MULI` without a prefix. -/
def execMuli (g : BitVec 3) (i : BitVec 12) (d : BitVec 5) (s : State) : Out :=
  s.brick g (muliBody (imm12 i) d)

/-- `MOVH` (R52): imm[31:0] above S[d][31:0]. -/
def movhBody (imm : Word) (d : BitVec 5) (s : State) : Effect :=
  .done (s.writeS d ((fun x y => y.extractLsb' 0 32 ++ x.extractLsb' 0 32 : Word → Word → Word) (s.readS d) imm))

/-- `MOVH` without a prefix. -/
def execMovh (g : BitVec 3) (i : BitVec 12) (d : BitVec 5) (s : State) : Out :=
  s.brick g (movhBody (imm12 i) d)

/-! ## Integer arithmetic (R98) -/

/-- `ADD` (R98). -/
def execAdd (g : BitVec 3) (d a b : BitVec 5) (s : State) : Out :=
  s.op2 g d a b (fun x y => x + y)

/-- `SUB` (R98). -/
def execSub (g : BitVec 3) (d a b : BitVec 5) (s : State) : Out :=
  s.op2 g d a b (fun x y => x - y)

/-- `MUL` (R98). -/
def execMul (g : BitVec 3) (d a b : BitVec 5) (s : State) : Out :=
  s.op2 g d a b (fun x y => x * y)

/-- `MULH` (R98). -/
def execMulh (g : BitVec 3) (d a b : BitVec 5) (s : State) : Out :=
  s.op2 g d a b (fun x y => highWord (x.toInt * y.toInt))

/-- `MULHU` (R98). -/
def execMulhu (g : BitVec 3) (d a b : BitVec 5) (s : State) : Out :=
  s.op2 g d a b (fun x y => highWord ((x.toNat : Int) * y.toNat))

/-- `MULHM` (R98). -/
def execMulhm (g : BitVec 3) (d a b : BitVec 5) (s : State) : Out :=
  s.op2 g d a b (fun x y => highWord ((x.toNat : Int) * y.toInt))

/-- `DIV` (R98). -/
def execDiv (g : BitVec 3) (d a b : BitVec 5) (s : State) : Out :=
  s.op2 g d a b sdivW

/-- `DIVU` (R98). -/
def execDivu (g : BitVec 3) (d a b : BitVec 5) (s : State) : Out :=
  s.op2 g d a b udivW

/-- `REM` (R98). -/
def execRem (g : BitVec 3) (d a b : BitVec 5) (s : State) : Out :=
  s.op2 g d a b sremW

/-- `REMU` (R98). -/
def execRemu (g : BitVec 3) (d a b : BitVec 5) (s : State) : Out :=
  s.op2 g d a b uremW

/-- `MIN` (R98). -/
def execMin (g : BitVec 3) (d a b : BitVec 5) (s : State) : Out :=
  s.op2 g d a b (fun x y => if x.sle y then x else y)

/-- `MINU` (R98). -/
def execMinu (g : BitVec 3) (d a b : BitVec 5) (s : State) : Out :=
  s.op2 g d a b (fun x y => if x.ule y then x else y)

/-- `MAX` (R98). -/
def execMax (g : BitVec 3) (d a b : BitVec 5) (s : State) : Out :=
  s.op2 g d a b (fun x y => if x.sle y then y else x)

/-- `MAXU` (R98). -/
def execMaxu (g : BitVec 3) (d a b : BitVec 5) (s : State) : Out :=
  s.op2 g d a b (fun x y => if x.ule y then y else x)

/-- `ADDS` (R98). -/
def execAdds (g : BitVec 3) (d a b : BitVec 5) (s : State) : Out :=
  s.op2 g d a b (fun x y => satSigned (x.toInt + y.toInt))

/-- `SUBS` (R98). -/
def execSubs (g : BitVec 3) (d a b : BitVec 5) (s : State) : Out :=
  s.op2 g d a b (fun x y => satSigned (x.toInt - y.toInt))

/-- `ADDSU` (R98). -/
def execAddsu (g : BitVec 3) (d a b : BitVec 5) (s : State) : Out :=
  s.op2 g d a b (fun x y => satUnsigned ((x.toNat : Int) + y.toNat))

/-- `SUBSU` (R98). -/
def execSubsu (g : BitVec 3) (d a b : BitVec 5) (s : State) : Out :=
  s.op2 g d a b (fun x y => satUnsigned ((x.toNat : Int) - y.toNat))

/-- `ABS` (R98): −2⁶³ stays −2⁶³. -/
def execAbs (g : BitVec 3) (d a : BitVec 5) (s : State) : Out :=
  s.op1 g d a fun x => if x.slt 0 then -x else x

/-- `NEG` (R98). -/
def execNeg (g : BitVec 3) (d a : BitVec 5) (s : State) : Out :=
  s.op1 g d a fun x => -x

/-! ## Logic and shifts (R99) -/

/-- `AND` (R99). -/
def execAnd (g : BitVec 3) (d a b : BitVec 5) (s : State) : Out :=
  s.op2 g d a b (fun x y => x &&& y)

/-- `OR` (R99). -/
def execOr (g : BitVec 3) (d a b : BitVec 5) (s : State) : Out :=
  s.op2 g d a b (fun x y => x ||| y)

/-- `XOR` (R99). -/
def execXor (g : BitVec 3) (d a b : BitVec 5) (s : State) : Out :=
  s.op2 g d a b (fun x y => x ^^^ y)

/-- `ANDN` (R99). -/
def execAndn (g : BitVec 3) (d a b : BitVec 5) (s : State) : Out :=
  s.op2 g d a b (fun x y => x &&& ~~~y)

/-- `ORN` (R99). -/
def execOrn (g : BitVec 3) (d a b : BitVec 5) (s : State) : Out :=
  s.op2 g d a b (fun x y => x ||| ~~~y)

/-- `XNOR` (R99). -/
def execXnor (g : BitVec 3) (d a b : BitVec 5) (s : State) : Out :=
  s.op2 g d a b (fun x y => ~~~(x ^^^ y))

/-- `SHL` (R99). -/
def execShl (g : BitVec 3) (d a b : BitVec 5) (s : State) : Out :=
  s.op2 g d a b (fun x y => x <<< shiftBy y)

/-- `SHR` (R99). -/
def execShr (g : BitVec 3) (d a b : BitVec 5) (s : State) : Out :=
  s.op2 g d a b (fun x y => x >>> shiftBy y)

/-- `SRA` (R99). -/
def execSra (g : BitVec 3) (d a b : BitVec 5) (s : State) : Out :=
  s.op2 g d a b (fun x y => x.sshiftRight (shiftBy y))

/-- `ROL` (R99). -/
def execRol (g : BitVec 3) (d a b : BitVec 5) (s : State) : Out :=
  s.op2 g d a b (fun x y => x.rotateLeft (shiftBy y))

/-- `ROR` (R99). -/
def execRor (g : BitVec 3) (d a b : BitVec 5) (s : State) : Out :=
  s.op2 g d a b (fun x y => x.rotateRight (shiftBy y))

/-! ## Bits (R100) -/

/-- `CLZ` (R100). -/
def execClz (g : BitVec 3) (d a : BitVec 5) (s : State) : Out :=
  s.op1 g d a (fun x => BitVec.ofNat 64 (countLeading x))

/-- `CTZ` (R100). -/
def execCtz (g : BitVec 3) (d a : BitVec 5) (s : State) : Out :=
  s.op1 g d a (fun x => BitVec.ofNat 64 (countTrailing x))

/-- `POPC` (R100). -/
def execPopc (g : BitVec 3) (d a : BitVec 5) (s : State) : Out :=
  s.op1 g d a (fun x => BitVec.ofNat 64 (popCount x.toNat 64))

/-- `BREV` (R100). -/
def execBrev (g : BitVec 3) (d a : BitVec 5) (s : State) : Out :=
  s.op1 g d a reverseBits

/-- `BSWAP` (R100). -/
def execBswap (g : BitVec 3) (d a : BitVec 5) (s : State) : Out :=
  s.op1 g d a reverseBytes

/-- `SXT.B` (R100). -/
def execSxtB (g : BitVec 3) (d a : BitVec 5) (s : State) : Out :=
  s.op1 g d a (fun x => (x.extractLsb' 0 8).signExtend 64)

/-- `SXT.H` (R100). -/
def execSxtH (g : BitVec 3) (d a : BitVec 5) (s : State) : Out :=
  s.op1 g d a (fun x => (x.extractLsb' 0 16).signExtend 64)

/-- `SXT.W` (R100). -/
def execSxtW (g : BitVec 3) (d a : BitVec 5) (s : State) : Out :=
  s.op1 g d a (fun x => (x.extractLsb' 0 32).signExtend 64)

/-- `ZXT.B` (R100). -/
def execZxtB (g : BitVec 3) (d a : BitVec 5) (s : State) : Out :=
  s.op1 g d a (fun x => (x.extractLsb' 0 8).setWidth 64)

/-- `ZXT.H` (R100). -/
def execZxtH (g : BitVec 3) (d a : BitVec 5) (s : State) : Out :=
  s.op1 g d a (fun x => (x.extractLsb' 0 16).setWidth 64)

/-- `ZXT.W` (R100). -/
def execZxtW (g : BitVec 3) (d a : BitVec 5) (s : State) : Out :=
  s.op1 g d a (fun x => (x.extractLsb' 0 32).setWidth 64)

/-- `BFX` (R100). -/
def execBfx (g : BitVec 3) (d a b : BitVec 5) (s : State) : Out :=
  s.op2 g d a b bfx

/-- `BFXU` (R100). -/
def execBfxu (g : BitVec 3) (d a b : BitVec 5) (s : State) : Out :=
  s.op2 g d a b bfxu

/-- `BFI` (R100). -/
def execBfi (g : BitVec 3) (d a b : BitVec 5) (s : State) : Out :=
  s.setS g d fun s => bfi (s.readS d) (s.readS a) (s.readS b)

/-! ## 32-bit operations (R101) -/

/-- `ADD.W` (R101). -/
def execAddW (g : BitVec 3) (d a b : BitVec 5) (s : State) : Out :=
  s.op2W g d a b (fun x y => x + y)

/-- `SUB.W` (R101). -/
def execSubW (g : BitVec 3) (d a b : BitVec 5) (s : State) : Out :=
  s.op2W g d a b (fun x y => x - y)

/-- `MUL.W` (R101). -/
def execMulW (g : BitVec 3) (d a b : BitVec 5) (s : State) : Out :=
  s.op2W g d a b (fun x y => x * y)

/-- `DIV.W` (R101). -/
def execDivW (g : BitVec 3) (d a b : BitVec 5) (s : State) : Out :=
  s.op2W g d a b (fun x y => BitVec.ofInt 32 (sdivSat 32 x.toInt y.toInt))

/-- `DIVU.W` (R101). -/
def execDivuW (g : BitVec 3) (d a b : BitVec 5) (s : State) : Out :=
  s.op2W g d a b (fun x y => BitVec.ofNat 32 (udivSat 32 x.toNat y.toNat))

/-- `REM.W` (R101). -/
def execRemW (g : BitVec 3) (d a b : BitVec 5) (s : State) : Out :=
  s.op2W g d a b (fun x y => BitVec.ofInt 32 (sremOf x.toInt y.toInt))

/-- `REMU.W` (R101). -/
def execRemuW (g : BitVec 3) (d a b : BitVec 5) (s : State) : Out :=
  s.op2W g d a b (fun x y => BitVec.ofNat 32 (uremOf x.toNat y.toNat))

/-- `SHL.W` (R101). -/
def execShlW (g : BitVec 3) (d a b : BitVec 5) (s : State) : Out :=
  s.op2W g d a b (fun x y => x <<< field y 0 5)

/-- `SHR.W` (R101). -/
def execShrW (g : BitVec 3) (d a b : BitVec 5) (s : State) : Out :=
  s.op2W g d a b (fun x y => x >>> field y 0 5)

/-- `SRA.W` (R101). -/
def execSraW (g : BitVec 3) (d a b : BitVec 5) (s : State) : Out :=
  s.op2W g d a b (fun x y => x.sshiftRight (field y 0 5))

/-! ## Moves between files (R102) and fused integer forms (R103) -/

/-- `RDI` (R102). -/
def execRdi (g : BitVec 3) (d : BitVec 5) (a : BitVec 2) (s : State) : Out :=
  s.setS g d fun s => (s.me.i[a.toNat]).setWidth 64

/-- `RDLC` (R102). -/
def execRdlc (g : BitVec 3) (d : BitVec 5) (a : BitVec 2) (s : State) : Out :=
  s.setS g d fun s => (s.me.lc[a.toNat]).setWidth 64

/-- `WRI` (R102). -/
def execWri (g : BitVec 3) (d : BitVec 2) (a : BitVec 5) (s : State) : Out :=
  s.brick g fun s => .done (s.setMe { s.me with i := s.me.i.set d.toNat (low32 (s.readS a)) })

/-- `WRLC` (R102). -/
def execWrlc (g : BitVec 3) (d : BitVec 2) (a : BitVec 5) (s : State) : Out :=
  s.brick g fun s => .done (s.setMe { s.me with lc := s.me.lc.set d.toNat (low32 (s.readS a)) })

/-- `RDLB` (R102). -/
def execRdlb (g : BitVec 3) (d : BitVec 5) (a : BitVec 2) (s : State) : Out :=
  s.setS g d fun s => s.me.lb[a.toNat]

/-- `WRLB` (R102): the reserved bits and bit 0 read 0. -/
def execWrlb (g : BitVec 3) (d : BitVec 2) (a : BitVec 5) (s : State) : Out :=
  s.brick g fun s => .done (s.setMe { s.me with lb := s.me.lb.set d.toNat (s.readS a &&& 0x01FFFFFFFFFFFFFE#64) })

/-- `RDP` (R102). -/
def execRdp (g : BitVec 3) (d : BitVec 5) (s : State) : Out :=
  s.setS g d fun s => BitVec.ofNat 64 (predWord s.me)

/-- `WRP` (R102). -/
def execWrp (g : BitVec 3) (a : BitVec 5) (s : State) : Out :=
  s.brick g fun s => .done (s.setMe (setPreds s.me (s.readS a)))

/-- `RDPC` (R102). -/
def execRdpc (g : BitVec 3) (d : BitVec 5) (s : State) : Out :=
  s.setS g d fun s => s.own

/-- `MADD` (R103). -/
def execMadd (g : BitVec 3) (d a b : BitVec 5) (s : State) : Out :=
  s.setS g d fun s => s.readS d + s.readS a * s.readS b

/-- `MSUB` (R103). -/
def execMsub (g : BitVec 3) (d a b : BitVec 5) (s : State) : Out :=
  s.setS g d fun s => s.readS d - s.readS a * s.readS b

/-- `SHADD1` (R103). -/
def execShadd1 (g : BitVec 3) (d a b : BitVec 5) (s : State) : Out :=
  s.op2 g d a b (fun x y => x + y <<< 1)

/-- `SHADD2` (R103). -/
def execShadd2 (g : BitVec 3) (d a b : BitVec 5) (s : State) : Out :=
  s.op2 g d a b (fun x y => x + y <<< 2)

/-- `SHADD3` (R103). -/
def execShadd3 (g : BitVec 3) (d a b : BitVec 5) (s : State) : Out :=
  s.op2 g d a b (fun x y => x + y <<< 3)

/-- `SHADD4` (R103). -/
def execShadd4 (g : BitVec 3) (d a b : BitVec 5) (s : State) : Out :=
  s.op2 g d a b (fun x y => x + y <<< 4)

/-! ## Predicates (R104 to R107) -/

/-- `CMP` (R104). -/
def execCmp (g d : BitVec 3) (a b : BitVec 5) (c : CmpCc) (s : State) : Out :=
  s.setP g d fun s => cmpHolds c (s.readS a) (s.readS b)

/-- `ICMPI` (R105). -/
def icmpiBody (imm : Word) (n : BitVec 2) (c : ICmpCc) (d : BitVec 3) (s : State) : Effect :=
  .done (s.writeP d (icmpHolds c (s.me.i[n.toNat]) imm))

/-- `ICMPI` without a prefix. -/
def execIcmpi (g : BitVec 3) (n : BitVec 2) (c : ICmpCc) (i : BitVec 12) (d : BitVec 3) (s : State) : Out :=
  s.brick g (icmpiBody (imm12 i) n c d)

/-- `PAND` (R106). -/
def execPand (g d a b : BitVec 3) (s : State) : Out :=
  s.predOp g d a b .and

/-- `POR` (R106). -/
def execPor (g d a b : BitVec 3) (s : State) : Out :=
  s.predOp g d a b .or

/-- `PXOR` (R106). -/
def execPxor (g d a b : BitVec 3) (s : State) : Out :=
  s.predOp g d a b .xor

/-- `PANDN` (R106). -/
def execPandn (g d a b : BitVec 3) (s : State) : Out :=
  s.predOp g d a b .andn

/-- `PORN` (R106). -/
def execPorn (g d a b : BitVec 3) (s : State) : Out :=
  s.predOp g d a b .orn

/-- `PNAND` (R106). -/
def execPnand (g d a b : BitVec 3) (s : State) : Out :=
  s.predOp g d a b .nand

/-- `PNOR` (R106). -/
def execPnor (g d a b : BitVec 3) (s : State) : Out :=
  s.predOp g d a b .nor

/-- `PXNOR` (R106). -/
def execPxnor (g d a b : BitVec 3) (s : State) : Out :=
  s.predOp g d a b .xnor

/-- `SEL` (R107). -/
def execSel (g : BitVec 3) (d a b : BitVec 5) (c : BitVec 3) (s : State) : Out :=
  s.setS g d fun s => if s.readP c then s.readS a else s.readS b

/-- `CSET` (R107). -/
def execCset (g : BitVec 3) (d : BitVec 5) (c : BitVec 3) (s : State) : Out :=
  s.setS g d fun s => if s.readP c then 1 else 0

/-- `SELZ` (R107). -/
def execSelz (g : BitVec 3) (d a : BitVec 5) (c : BitVec 3) (s : State) : Out :=
  s.setS g d fun s => if s.readP c then s.readS a else 0

/-- `FCMP` (R111). -/
def execFcmp (g d : BitVec 3) (a b : BitVec 5) (c : FCmpCc) (s : State) : Out :=
  s.setP g d fun s => fcmpHolds c (fpCode (s.readS a)) (fpCode (s.readS b))

/-! ## Scalar floating point (R108 to R110) -/

/-- `FADD` (R109). -/
def execFadd (g : BitVec 3) (d a b : BitVec 5) (m : RMode) (s : State) : Out :=
  s.fp2 g d a b m fpAdd

/-- `FSUB` (R109). -/
def execFsub (g : BitVec 3) (d a b : BitVec 5) (m : RMode) (s : State) : Out :=
  s.fp2 g d a b m fpSub

/-- `FMUL` (R109). -/
def execFmul (g : BitVec 3) (d a b : BitVec 5) (m : RMode) (s : State) : Out :=
  s.fp2 g d a b m fpMul

/-- `FDIV` (R109). -/
def execFdiv (g : BitVec 3) (d a b : BitVec 5) (m : RMode) (s : State) : Out :=
  s.fp2 g d a b m fpDiv

/-- `FMA` (R109). -/
def execFma (g : BitVec 3) (d a b : BitVec 5) (m : RMode) (s : State) : Out :=
  s.setS g d fun s => fpFma (s.rnd m) (s.readS d) (s.readS a) (s.readS b)

/-- `FMS` (R109). -/
def execFms (g : BitVec 3) (d a b : BitVec 5) (m : RMode) (s : State) : Out :=
  s.setS g d fun s => fpFms (s.rnd m) (s.readS d) (s.readS a) (s.readS b)

/-- `FSQRT` (R109). -/
def execFsqrt (g : BitVec 3) (d a : BitVec 5) (m : RMode) (s : State) : Out :=
  s.fp1 g d a m fpSqrt

/-- `FCVT.I.F` (R109). -/
def execFcvtIF (g : BitVec 3) (d a : BitVec 5) (m : RMode) (s : State) : Out :=
  s.fp1 g d a m fpToInt

/-- `FMIN` (R110). -/
def execFmin (g : BitVec 3) (d a b : BitVec 5) (s : State) : Out :=
  s.op2 g d a b (fun x y => fpWord (Fmt.fp32.pick true (fpCode x) (fpCode y)))

/-- `FMAX` (R110). -/
def execFmax (g : BitVec 3) (d a b : BitVec 5) (s : State) : Out :=
  s.op2 g d a b (fun x y => fpWord (Fmt.fp32.pick false (fpCode x) (fpCode y)))

/-- `FNEG` (R110). -/
def execFneg (g : BitVec 3) (d a : BitVec 5) (s : State) : Out :=
  s.op1 g d a fpNeg

/-- `FABS` (R110). -/
def execFabs (g : BitVec 3) (d a : BitVec 5) (s : State) : Out :=
  s.op1 g d a fpAbs

/-- `FCPYS` (R110). -/
def execFcpys (g : BitVec 3) (d a b : BitVec 5) (s : State) : Out :=
  s.op2 g d a b fpCopySign

/-- `FCLASS` (R110). -/
def execFclass (g : BitVec 3) (d a : BitVec 5) (s : State) : Out :=
  s.op1 g d a (fun x => BitVec.ofNat 64 (Fmt.fp32.classWord (fpCode x)))

/-- `FCVT.F.I` (R110). -/
def execFcvtFI (g : BitVec 3) (d a : BitVec 5) (m : RMode) (s : State) : Out :=
  s.fp1 g d a m fpOfInt

/-- `FCVT.F.U` (R110). -/
def execFcvtFU (g : BitVec 3) (d a : BitVec 5) (m : RMode) (s : State) : Out :=
  s.fp1 g d a m fpOfNat

/-- `FCVT.U.F` (R110). -/
def execFcvtUF (g : BitVec 3) (d a : BitVec 5) (m : RMode) (s : State) : Out :=
  s.fp1 g d a m fpToNat

/-! ## Branches, jumps and calls (R112 to R114) -/

namespace State

/-- A transfer under the condition of a C.B or C.J word; a false condition falls through (R41, R114). -/
def branchIf (s : State) (g : BitVec 3) (n : BitVec 1) (body : State → Effect) : Out :=
  .next (s.finish 4 (if s.condition g n then body s else .done s))

end State

/-- `B.L` (R112). -/
def execBL (g : BitVec 3) (o : BitVec 16) (n : BitVec 1) (s : State) : Out :=
  s.branchIf g n fun s => .jump s (s.own + offset16 o)

/-- `CALL.L` (R112). -/
def execCallL (g : BitVec 3) (o : BitVec 16) (n : BitVec 1) (s : State) : Out :=
  s.branchIf g n fun s => .jump (s.writeS 31#5 (s.own + 4#64)) (s.own + offset16 o)

/-- `JR.L` (R113). -/
def execJrL (g : BitVec 3) (a : BitVec 5) (n : BitVec 1) (s : State) : Out :=
  s.branchIf g n fun s => .jump s (s.readS a)

/-- `CALLR` (R113): the target is the old S[a]. -/
def execCallr (g : BitVec 3) (a : BitVec 5) (n : BitVec 1) (s : State) : Out :=
  s.branchIf g n fun s => .jump (s.writeS 31#5 (s.own + 4#64)) (s.readS a)

/-! ## Loops (R115, R116) -/

/-- `LOOP` (R115). With a count of 0 control passes to the end of the pair. -/
def execLoop (n : BitVec 2) (a : BitVec 5) (l : BitVec 9) (s : State) : Out :=
  s.brick 0#3 fun s =>
    let start := s.own + 4#64
    let count := low32 (s.readS a)
    let t := s.me
    let u := { t with
      lb := t.lb.set n.toNat ((0 : BitVec 7) ++ l ++ start.extractLsb' 0 48)
      lc := t.lc.set n.toNat count
      i := t.i.set n.toNat 0 }
    if count = 0#32 then .after (s.setMe u) (u.loopEnd n) else .done (s.setMe u)

/-- `LEXIT` (R115). -/
def execLexit (n : BitVec 2) (s : State) : Out :=
  s.brick 0#3 fun s =>
    let t := s.me
    if t.lc[n.toNat] = 0#32 then .done s
    else .after (s.setMe { t with lc := t.lc.set n.toNat 0 }) (t.loopEnd n)

end Sys2Proof.Machine
end

