-- ==== Sys2Proof/Machine/Scratchpad.lean ====
section
/-! DEFINITION. Scratchpad pages: frames, refill, eviction and the order of use (R225, R366). -/

namespace Sys2Proof.Machine

namespace State

/-- The keys of a page's frame and of its backing. -/
def frameKey (c frame : Nat) : Nat := 2 ^ 48 + c * 2 ^ 20 + frame * 4096
def backingKey (s : State) (c p i : Nat) : Nat :=
  let h := homeOfDevice s.ranges (s.backingAddr c (4096 * p + i))
  h.1 * 2 ^ 32 + h.2

/-- A page of a scratchpad written back to its backing, line by line (a backing page spreads over home slices). -/
def copyLines (s : State) (keys : List (Nat × Nat)) : State :=
  keys.foldl (fun t e =>
    let bytes := (List.range 128).map fun i => (e.2 + i, Memory.get t.cells (e.1 + i))
    let recs := (List.range 4).map fun i => (e.2 / 32 + i, SMap.find t.sectors (e.1 / 32 + i))
    { t with
      cells := bytes.foldl (fun l b => Memory.put l b.1 b.2) t.cells
      sectors := recs.foldl (fun m r => match r.2 with
        | some x => SMap.set m r.1 x
        | none => SMap.erase m r.1) t.sectors }) s

/-- The pairs (frame key, backing key) of the 32 lines of a page. -/
def pageLines (s : State) (c p frame : Nat) : List (Nat × Nat) :=
  (List.range 32).map fun i => (frameKey c frame + 128 * i, s.backingKey c p (128 * i))

/-- The lines of a page's backing pass through L2, charged to the context that owns the page (R225, R413). -/
def usePageLines (s : State) (c p : Nat) (write : Bool) : State :=
  s.useHomes ((s.ownerOf c).map (·.1)) ((List.range 32).map fun i => s.backingAddr c (4096 * p + 128 * i)) write

/-- A resident page leaves its frame; a dirty one is written back first (R225). -/
def evictPage (s : State) (c p : Nat) : State :=
  let x := s.page c p
  if x.resident then
    let s1 := if x.dirty then (s.usePageLines c p true).copyLines (s.pageLines c p x.frame.toNat) else s
    let s2 := s1.setPage c p { x with resident := false, dirty := false }
    let k := s2.core c
    s2.setCore c { k with lru := k.lru.filter (· ≠ p) }
  else s

/-- The lowest free frame of a core. -/
def freeFrame (s : State) (c : Nat) : Option Nat :=
  let used := ((s.core c).pages.filter fun e => e.2.resident).map fun e => e.2.frame.toNat
  (List.range Config.spadFrames).find? fun f => !used.contains f

/-- The least recently used page that may be evicted. -/
def victim (s : State) (c : Nat) : Option Nat :=
  (s.core c).lru.find? fun p => !(s.page c p).pinned && !(s.page c p).locked

/-- A page filled into a frame from its backing (R225). -/
def fillPage (s : State) (c p frame : Nat) : State :=
  let s1 := (s.usePageLines c p false).copyLines ((s.pageLines c p frame).map fun e => (e.2, e.1))
  let s2 := s1.setPage c p { s1.page c p with resident := true, dirty := false, frame := BitVec.ofNat 8 frame }
  let k := s2.core c
  s2.setCore c { k with lru := k.lru.filter (· ≠ p) ++ [p] }

/-- A page made resident (R225). -/
def refill (s : State) (c p : Nat) : State :=
  if (s.page c p).resident then s
  else match s.freeFrame c with
    | some f => s.fillPage c p f
    | none => match s.victim c with
      | none => s
      | some v =>
        let f := (s.page c v).frame.toNat
        (s.evictPage c v).fillPage c p f

/-- The core and the page of a scratchpad place. -/
def pageOfPlace (place : Nat) : Nat × Nat := ((place - 2 ^ 48) / 2 ^ 20, (place - 2 ^ 48) % 2 ^ 20 / 4096)

/-- An access to a scratchpad place waits until its page is resident, for which another may be evicted, and makes it the most
recently used (R225). While the core moves, and where no page may be evicted, the backing serves it (R217, log 86). -/
def usePage (s : State) (place : Nat) : State :=
  if 2 ^ 48 ≤ place ∧ place < 2 ^ 52 then
    let c := (pageOfPlace place).1
    let p := (pageOfPlace place).2
    let t := if (s.core c).owner.isSome && (s.page c p).backed && !(s.core c).moving then s.refill c p else s
    let k := t.core c
    if k.lru.contains p then t.setCore c { k with lru := k.lru.filter (· ≠ p) ++ [p] } else t
  else s

/-- The pages that a list of written bytes touches are used, each once. -/
def usePages (s : State) (cells : List (Nat × Byte)) : State :=
  ((cells.map fun e => e.1 / 4096 * 4096).eraseDups).foldl usePage s

end State

end Sys2Proof.Machine
end

