-- ==== Sys2Proof/Machine/Walks.lean ====
section
/-! DEFINITION. The walks and the line fills that accesses start, what they put into the TLBs, and how the regulators of the stacks
hold them (R228, R350 to R353, R411 to R413). -/

namespace Sys2Proof.Machine

namespace State

/-! ## Walks -/

/-- The addresses of the table entries that a walk reads from memory. -/
def tableReads (s : State) (d c va : Nat) : Nat → Nat → Nat → List Nat
  | 0, _, _ => []
  | fuel + 1, level, t =>
    let a := t + 8 * tableIndex level va
    let cached := s.cachedWalk d c level va
    let e := cached.getD (BitVec.ofNat 64 (s.natAt a 8))
    let more := if !Pte.valid e || malformedPte level e || Pte.leaf e then []
      else s.tableReads d c va fuel (level + 1) (Pte.pa e)
    if cached.isSome then more else a :: more

/-- The table pointers that a walk has read, for the walk cache. -/
def walkedPointers (s : State) (d c va : Nat) : Nat → Nat → Nat → List WalkEntry
  | 0, _, _ => []
  | fuel + 1, level, t =>
    let e := (s.cachedWalk d c level va).getD (BitVec.ofNat 64 (s.natAt (t + 8 * tableIndex level va) 8))
    if !Pte.valid e || malformedPte level e || Pte.leaf e then []
    else ⟨c, level, va / levelSpan level, e⟩ :: s.walkedPointers d c va fuel (level + 1) (Pte.pa e)

/-- A list of at most `n` entries with a new one at the end; the oldest leave. -/
def keepLast {α : Type} (n : Nat) (l : List α) : List α := l.drop (l.length - n)

/-- An L2 TLB with a new entry: 8 ways to a set, and in a full set the entry that has been there longest leaves (R352,
log 66). -/
def fillL2Tlb (l : List TlbEntry) (e : TlbEntry) : List TlbEntry :=
  let set (x : TlbEntry) : Nat := Config.tlbSet x.ctx x.va x.size % 1024
  match l.filter fun x => set x == set e with
  | old :: rest => if rest.length < 7 then l ++ [e] else l.erase old ++ [e]
  | [] => l ++ [e]

/-- A walk of a die for a page that its L2 TLB does not hold: the reads of the table lines, charged to the context, and what a
leaf fills (R352, R413). -/
def walkOnDie (s : State) (d c va : Nat) : State :=
  let root := (s.ctx c).root
  let t := s.useHomes (some c) ((s.tableReads d c va 4 0 root).map fun a => a / 128 * 128) false
  match s.walk d c va with
  | .leaf e size =>
    let x := t.die d
    let walks := (s.walkedPointers d c va 4 0 root).filter fun w => !x.walks.contains w
    t.setDie d { x with
      tlb := fillL2Tlb x.tlb ⟨c, va / size * size, size, e⟩
      walks := keepLast 1024 (x.walks ++ walks) }
  | _ => t

/-- The L2 TLB of a die holds a page, walked where it did not. -/
def knowOnDie (s : State) (d c va : Nat) : State := if (tlbHit (s.die d).tlb c va).isSome then s else s.walkOnDie d c va

/-- A miss of a core: its L1 TLB takes the entry that the die's L2 TLB holds, walked where it did not (R350, R352). -/
def fillTlb (s : State) (core c va : Nat) : State :=
  let t := s.knowOnDie (dieOfCore core) c va
  let k := t.core core
  match tlbHit k.tlb c va, tlbHit (t.die (dieOfCore core)).tlb c va with
  | none, some e => t.setCore core { k with tlb := keepLast 64 (k.tlb ++ [e]) }
  | _, _ => t

/-- Whether the walk that an access of a unit needs, if any, reaches the tables of the context (R13, R320). -/
def walkReachesFrom (s : State) (a : Site) (c va : Nat) : Bool :=
  (tlbHit (s.die a.die).tlb c va).isSome || (s.tableReads a.die c va 4 0 (s.ctx c).root).all fun e => s.reaches a (s.siteOf e)

/-- The same for a core, which has a TLB of its own. -/
def walkReaches (s : State) (core c va : Nat) : Bool :=
  (tlbHit (s.core core).tlb c va).isSome || s.walkReachesFrom (.core core) c va

/-- The first table entry that such a walk does not reach. -/
def walkGap (s : State) (core c va : Nat) : Nat :=
  ((s.tableReads (dieOfCore core) c va 4 0 (s.ctx c).root).find? fun a => !s.reaches (.core core) (s.siteOf a)).getD 0

/-- The translation of an access of a core at a virtual address, whose byte is at `place`: its TLB holds the page. -/
def walkIn (s : State) (core c va place : Nat) : State :=
  if isLocalPlace place || (tlbHit (s.core core).tlb c va).isSome then s else s.fillTlb core c va

/-! ## Fills that regulators hold (R411, R412) -/

/-- The context is regulated at some stack. -/
def regulated (s : State) (c : Nat) : Bool := (List.range 4).any fun k => (s.regulator (64 * k + c)).en

/-- A regulator holds transfers of a context. -/
def heldCtx (s : State) (c : Nat) : Bool := (List.range 4).any fun k => !(s.regulator (64 * k + c)).held.isEmpty

/-- A regulator holds transfers of the context that owns the core of a stream: what the stream asks for behind them waits. -/
def heldBack (s : State) (q : Nat) : Bool := (s.ownerOf (q / 4)).any fun o => s.heldCtx o.1

/-- The line lies in its home's slice, filled for the context where it did not. -/
def fillHome (s : State) (c line : Nat) (write : Bool) : State :=
  let k := s.homeSlice line
  if (s.linesInSetOf k line).any fun e => e.line == line then s else s.useLine (some c) k line write

/-- What an access at a place starts before it is made, for a context `c` that is regulated: the page of a scratchpad becomes
resident, and the lines that no cache (`cached`) holds for it are filled at their homes. -/
def startFill (s : State) (c place n : Nat) (cached : Nat → Bool) (write : Bool) : State :=
  if isLocalPlace place then s.usePage place
  else ((List.range ((place % 128 + n + 127) / 128)).map fun j => place / 128 * 128 + 128 * j).foldl (fun t line =>
    if cached line || decide (2 ^ 48 ≤ line) then t else t.fillHome c line write) s

/-- A cache that a read by a core is served from holds the line: L1D, or a guest copy. -/
def heldFor (s : State) (core : Nat) (via : Via) (line : Nat) : Bool :=
  (via == .l1 && (SMap.find (s.core core).l1d line).isSome) ||
    (via != .home && (SMap.find (s.die (dieOfCore core)).guest line).isSome)

/-- What the reads of the running stream's word start: (virtual address, place, bytes) of each. -/
def startReads (s : State) (via : Via) (pieces : List (Nat × Nat × Nat)) : State :=
  let c := s.myCtxId
  let t := pieces.foldl (fun u p => u.walkIn u.myCore c p.1 p.2.1) s
  if t.regulated c then
    pieces.foldl (fun u p => u.startFill c p.2.1 p.2.2 (u.heldFor u.myCore via) false) t
  else t

/-- What a write of stream `q` at these places starts. -/
def startWrite (s : State) (q : Nat) (cells : List (Nat × Byte)) : State :=
  match s.ownerOf (q / 4) with
  | none => s
  | some (c, _) =>
    if s.regulated c then
      ((cells.map fun e => e.1 / 128 * 128).eraseDups).foldl (fun t line =>
        t.startFill c line 1 (fun _ => false) true) s
    else s

end State

end Sys2Proof.Machine
end

