-- ==== Sys2Proof/Machine/Monitors.lean ====
section
/-! DEFINITION. Writes as the home sees them: check failures and freezes (R231 to R233, R453), monitors and parked arms
(R256, R257), guest copies (R229). -/

namespace Sys2Proof.Machine

/-- Offsets inside a core image and a stream record (R212, R213), used here and by switch-out. -/
def streamRecordAt (image stream : Nat) : Nat := image + 0x1000 + 0x400 * stream

namespace State

/-- The address that names the sector of a place: a device address, the device address that backs a scratchpad byte,
or a host address. -/
def sectorAddress (s : State) (place : Nat) : Nat :=
  let k := place / 32 * 32
  if k < 2 ^ 48 then k
  else if k < 2 ^ 52 then s.backingAddr ((k - 2 ^ 48) / 2 ^ 20) ((k - 2 ^ 48) % 2 ^ 20)
  else k - 2 ^ 52

/-- The freeze of the master that a writer ID names (R233, R453). -/
def freezeMaster (s : State) (id : BitVec 12) (addr : Nat) : State :=
  let m := field id 0 4
  let c := coreAt (8 * field id 11 1 + field id 4 3) (field id 7 4)
  if m < 4 then
    let q := 4 * c + m
    if (s.ownerOf c).isSome ∧ (s.stream q).run ≠ .idle then
      s.stopNow q .freeze (BitVec.ofNat 64 addr)
    else s
  else if m = 4 then (s.setCore c { s.core c with copyFrozen := true }).endInjected c id
  else if m = 5 ∨ m = 6 then
    ((List.range 4).foldl (fun t k => if t.steWriter k = id then t.setSte k { t.ste k with frozen := true } else t) s).endInjected c id
  else if m = 7 then { s with board := { s.board with hostFrozen := true } }.endInjected c id
  else s

/-- Whether that freezes a master: a stream that runs, a copy engine, an engine that is there, or the host port. -/
def freezes (s : State) (id : BitVec 12) : Bool :=
  let m := field id 0 4
  let c := coreAt (8 * field id 11 1 + field id 4 3) (field id 7 4)
  if m < 4 then (s.ownerOf c).isSome && (s.stream (4 * c + m)).run != .idle
  else if m = 5 ∨ m = 6 then (List.range 4).any fun k => s.steWriter k == id
  else m == 4 || m == 7

/-- A failed check of data of a writer on the way to a consumer: the sector is poisoned, the writer is frozen, and the writer ID, the
sector address and the consumer are reported (R233, R453). -/
def badData (s : State) (place : Nat) (writer : BitVec 12) (who : Consumer) : State :=
  let x := s.sector place
  let d := s.dieOfPlace place
  let s0 := (s.setSector place { x with poison := true }).addTelemetry d 0x0A20 1
  let s1 := if s.freezes writer then s0.addTelemetry d 0x0A28 1 else s0
  (s1.freezeMaster writer (s.sectorAddress place)).reportFailure (BitVec.ofNat 64 (s.sectorAddress place)) writer who d

/-- The same of the data that the sector holds. -/
def badSector (s : State) (place : Nat) (who : Consumer) : State := s.badData place (s.sector place).writer who

/-- The check of a sector where its data leaves toward a consumer, or is merged with a partial write. -/
def checkSector (s : State) (who : Consumer) (place : Nat) : State :=
  if (s.sector place).poison || s.sectorGood place then s else s.badSector place who

/-! ## Monitors -/

/-- The context, saved, whose owner number is `o`. -/
def savedOf (s : State) (o : BitVec 16) : Option SavedCtx := s.saved.find? fun x => x.desc.extractLsb' 64 16 = o

/-- The address of the stream record of a saved context's stream. -/
def savedRecord (x : SavedCtx) (logical stream : Nat) : Nat :=
  streamRecordAt (field (x.table.getD logical 0) 16 32 * 65536) stream

/-- The wake that a write records for a parked arm (R220): for a stream saved in `MON.WAIT`, in its wait record; for
any other, the fired bit of the monitor. -/
def recordWake (s : State) (p : ParkedArm) : State :=
  match s.savedOf p.owner with
  | none => s
  | some x =>
    let r := savedRecord x p.logical p.stream
    if s.natAt (r + 0x218) 1 % 4 = 2 ∧ s.natAt (r + 0x220) 1 = 1 then
      s.merge unitWriter [(r + 0x230, 1), (r + 0x231, BitVec.ofNat 8 (s.natAt (r + 0x231) 1 ||| 2 ^ p.reg))]
    else
      let a := r + 0x320 + 8 * p.reg
      s.merge unitWriter [(a, s.byteAt a ||| 2#8)]

/-- The bit of a slice's parked filter for a line (R257). -/
def filterBit (s : State) (line : Nat) : Nat := s.homeSlice line * 4096 + line / 128 % 4096

/-- Setting the fired bit of a monitor register. -/
def setFired (s : State) (q k : Nat) : State :=
  let t := s.stream q
  if h : k < 4 then s.setStream q { t with m := t.m.set k { t.m[k] with fired := true } } else s

/-- What a write performed at the home of a line does to the armed monitors of that line (R256, R257). -/
def fireLine (s : State) (line : Nat) : State :=
  let s1 := s.monEntries.foldl (fun t e => if e.line = line then t.setFired e.stream e.reg else t) s
  let d := s.homeDie line
  if (s.die d).filters.contains (s.filterBit line) then
    (s.die d).parked.foldl (fun t p => if p.line = line then t.recordWake p else t) s1
  else s1

end State

/-! ## Cached lines -/

/-- The lines, by first place, that a list of written bytes of global memory touches. -/
def linesOf (cells : List (Nat × Byte)) : List Nat :=
  ((cells.filter fun e => decide (e.1 < 2 ^ 48) || decide (2 ^ 52 ≤ e.1)).map fun e => e.1 / 128 * 128).eraseDups

/-- The line at `base` with the written bytes that fall into it; a sector written whole loses its poison mark. -/
def Line.patch (l : Line) (base : Nat) (cells : List (Nat × Byte)) : Line :=
  let mine := cells.filter fun e => e.1 / 128 * 128 = base
  let data := mine.foldl (fun d e => setField d (8 * (e.1 % 128)) 8 e.2.toNat) l.data
  let whole (j : Nat) : Bool := bytesIn mine (base + 32 * j) == 32
  { l with data := data, poison := BitVec.ofNat 4 ((List.range 4).foldl (fun n j =>
      n + (if l.poison.getLsbD j && !whole j then 2 ^ j else 0)) 0) }

/-- The bytes of a line from offset `o` on. -/
def Line.bytes (l : Line) (o n : Nat) : List Byte := (List.range n).map fun i => l.data.extractLsb' (8 * (o + i)) 8

/-- The first poisoned sector of a line among those that hold `n` bytes from offset `o` on. -/
def Line.bad (l : Line) (o n : Nat) : Option Nat :=
  (List.range 4).find? fun j => l.poison.getLsbD j && decide (32 * j < o + n) && decide (o < 32 * j + 32)

namespace State

/-- A write carried out at its homes and in scratchpads, with its transfers charged to context `x` (R232, R256): sectors
written in part are checked first, then the bytes are merged, and monitors fire. -/
def writeAtHome (s : State) (writer : BitVec 12) (cells : List (Nat × Byte)) (x : Option Nat) : State :=
  let s1 := (sectorsOf cells).foldl (fun t k => if bytesIn cells k < 32 then t.checkSector .home k else t) s
  let s2 := (s1.usePages cells).merge writer cells
  let lines := linesOf cells
  lines.foldl fireLine (s2.useHomes x lines true)

/-- The bytes of a line at its home. -/
def homeData (s : State) (line : Nat) : BitVec 1024 :=
  let k := s.cellKey line
  BitVec.ofNat 1024 (leNat ((List.range 128).map fun i => Memory.get s.cells (k + i)))

/-- Copies of lines with written bytes put in. Where a stream that shares the copies has made an acquire of scope `.V` or
`.Y`, a line that then still differs from its home leaves by replacement: a fresh read of it would return the write and, in
the same block, bytes superseded before that write (R278). -/
def patched (s : State) (fresh : Bool) (cells : List (Nat × Byte)) (m : SMap Line) : SMap Line :=
  let lines := linesOf cells
  (SMap.mapVal (fun k l => if lines.contains k then l.patch k cells else l) m).filter fun e =>
    !(fresh && lines.contains e.1 && s.homeData e.1 != e.2.data)

/-- Whether a stream of the cores that `on` names reads fresh (R277). -/
def freshOn (s : State) (on : Nat → Bool) : Bool := s.streams.any fun e => on (e.1 / 4) && e.2.fresh

/-- The guest copies of the writer's die follow a write when its acknowledgement returns (R229, R289). -/
def patchGuests (s : State) (d : Nat) (cells : List (Nat × Byte)) : State :=
  let x := s.die d
  s.setDie d { x with guest := s.patched (s.freshOn fun c => dieOfCore c == d) cells x.guest }

/-- A write by a master on die `d`, carried out and acknowledged (R229, R232). -/
def homeWrite (s : State) (d : Nat) (writer : BitVec 12) (cells : List (Nat × Byte)) (x : Option Nat := none) : State :=
  (s.writeAtHome writer cells x).patchGuests d cells

/-- A write of a core brings its own L1D up to date, line by line where present (R227). -/
def patchL1 (s : State) (c : Nat) (cells : List (Nat × Byte)) : State :=
  let k := s.core c
  let lines := linesOf cells
  (s.setCore c { k with l1d := s.patched (s.freshOn (· == c)) cells k.l1d }).cancelFills c fun line _ _ => lines.contains line

/-- A write of a core drops the lines it touches from its own L1D (R227). -/
def dropL1 (s : State) (c : Nat) (lines : List Nat) : State :=
  let k := s.core c
  (s.setCore c { k with l1d := k.l1d.filter fun e => !lines.contains e.1 }).cancelFills c fun line _ _ => lines.contains line

end State

end Sys2Proof.Machine
end

