-- ==== Sys2Proof/Machine/Reads.lean ====
section
/-! DEFINITION. Reading memory: line fills, guest copies, home reads (R226 to R230, R233), and the address checks
of scalar accesses (R222, R223). -/

namespace Sys2Proof.Machine

namespace State

/-- The line at its home as a fill carries it: all four sectors are checked (R233). -/
def homeLine (s : State) (line ctx va : Nat) (who : Consumer) : State × Line :=
  let t := [0, 32, 64, 96].foldl (fun t o => t.checkSector who (line + o))
    (s.useLine (s.payer who) (s.homeSlice line) line false)
  let poison := (List.range 4).foldl (fun n j => n + (if (t.sector (line + 32 * j)).poison then 2 ^ j else 0)) 0
  (t, ⟨ctx, va, t.homeData line, BitVec.ofNat 4 poison, []⟩)

/-- Whether a die may keep a guest copy of the line (R229). -/
def mayGuest (s : State) (d line : Nat) : Bool := decide (line < 2 ^ 48) && s.homeDie line != d

/-- The slice of a die that keeps guest copies of a line (R229). -/
def guestSlice (s : State) (d line : Nat) : Nat := 32 * d + s.homeSlice line % 32

/-- The line as the die's L2 gives it, a guest copy made on the way where a way of the context's mask is to be had
(R229, R230, R369). -/
def l2Line (s : State) (d line ctx va : Nat) (who : Consumer) : State × Line :=
  if s.mayGuest d line then
    let k := s.guestSlice d line
    match SMap.find (s.die d).guest line with
    | some l => (s.useLine (s.payer who) k line false, l)
    | none =>
      let (t, l) := s.homeLine line ctx va who
      let u := t.setDie d { t.die d with guest := SMap.set (t.die d).guest line l }
      let v := u.useLine (u.payer who) k line false
      if (v.linesInSetOf k line).any fun e => e.line == line then (v, l) else (t, l)
  else s.homeLine line ctx va who

/-- The L1D set of a line: 64 KiB in four ways make 128 sets (R227, log 66). -/
def l1Set (line : Nat) : Nat := line / 128 % 128

/-- A line comes into a core's L1D. In a full set it replaces one of the four lines there, free which (R227). -/
def fillL1 (s : State) (c line : Nat) (l : Line) : State :=
  let k := s.core c
  let same := k.l1d.filter fun e => l1Set e.1 == l1Set line
  if same.length < 4 then s.setCore c { k with l1d := SMap.set k.l1d line l }
  else
    let (t, n) := s.freshFree
    let victim := (same.map (·.1)).getD (Config.anyOf n % same.length) 0
    t.setCore c { k with l1d := SMap.set (k.l1d.filter fun e => e.1 != victim) line l }

/-- The line as the core's L1D gives it, filled on a miss (R227). -/
def l1Line (s : State) (c line ctx va : Nat) : State × Line :=
  match SMap.find (s.core c).l1d line with
  | some l => (s, l)
  | none =>
    let (t, l) := s.l2Line (dieOfCore c) line ctx va (.core c)
    (t.fillL1 c line { l with ctx := ctx, va := va }, l)

/-- A scratchpad page, or the lines of device memory, that a read at its home uses. -/
def useRead (s : State) (x : Option Nat) (place n : Nat) : State :=
  if 2 ^ 48 ≤ place ∧ place < 2 ^ 52 then s.usePage place
  else s.useHomes x ((List.range ((place % 128 + n + 127) / 128)).map fun j => place / 128 * 128 + 128 * j) false

/-- Bytes read at their home or in a scratchpad, the sectors they use checked on the way. -/
def readHome (s : State) (place n : Nat) (who : Consumer := .core s.myCore) : State × Except Nat (List Byte) :=
  let ks := (List.range ((place % 32 + n + 31) / 32)).map fun j => place / 32 * 32 + 32 * j
  let t := ks.foldl (checkSector · who) (s.useRead (s.payer who) place n)
  match ks.find? fun k => (t.sector k).poison with
  | some k => (t, .error k)
  | none => (t, .ok (t.bytesAt place n))

/-- Whether a read of a place is served at its home whatever caches there are. -/
def servedAtHome (via : Via) (place : Nat) : Bool := (decide (2 ^ 48 ≤ place) && decide (place < 2 ^ 52)) || via == .home

/-- The line that a read through a cache is served from. -/
def cachedLine (s : State) (c ctx : Nat) (via : Via) (va line : Nat) (who : Consumer) : State × Line :=
  match via with
  | .l1 => s.l1Line c line ctx va
  | _ => s.l2Line (dieOfCore c) line ctx va who

/-- `n` bytes of a line at `line`, or the place of a poisoned sector that they use. -/
def lineBytes (l : Line) (line place n : Nat) : Except Nat (List Byte) :=
  match l.bad (place % 128) n with
  | some j => .error (line + 32 * j)
  | none => .ok (l.bytes (place % 128) n)

/-! ### Reads ahead of program order (R272) -/

/-- The way in which a read of a place is made. -/
def routeOf (via : Via) (place : Nat) : Via := if servedAtHome via place then .home else via

/-- What the word of the running stream has read ahead at a place takes the place of the bytes `b` read there now: block by
block where they are those of `whole` 64-byte blocks, else as one element (R155, R281). -/
def bindAhead (s : State) (via : Via) (whole : Bool) (place : Nat) (b : List Byte) : List Byte :=
  match s.ahead.filter fun a => a.stream == s.cur && a.word == s.me.seqNext && a.via == routeOf via place with
  | [] => b
  | l =>
    if whole || decide (16 < b.length) then
      b.zipIdx.map fun e =>
        match l.find? fun a => a.data.length == 64 && a.place == (place + e.2) / 64 * 64 with
        | some a => a.data.getD ((place + e.2) % 64) e.1
        | none => e.1
    else match l.find? fun a => decide (a.place ≤ place) && decide (place + b.length ≤ a.place + a.data.length) with
      | some a => (a.data.drop (place - a.place)).take b.length
      | none => b

/-- A home read or a write of stream `q` at `n` bytes from a place on: no younger home read of the stream, or no younger
read at all, has been made there before it (R272). -/
def passAhead (s : State) (q : Nat) (write : Bool) (place n : Nat) : State :=
  { s with ahead := s.ahead.filter fun a =>
      !(a.stream == q && (write || (a.via == .home && decide ((s.stream q).seqNext < a.word))) &&
        decide (a.place < place + n) && decide (place < a.place + a.data.length)) }

/-- Stream `q` has read the bytes `b` at a place past its core's L1D and, from the home, past its die's guest copy. A line
there whose bytes differ is marked with the stream: the write that it has seen supersedes them (R275, R276). A prefetched
line on its way to the core with other bytes is given up (R236). -/
def passCopies (s : State) (q : Nat) (guests : Bool) (place : Nat) (b : List Byte) : State :=
  let line := place / 128 * 128
  let older (k : Nat) (l : Line) : Bool := k == line && l.bytes (place % 128) b.length != b
  let mark (k : Nat) (l : Line) : Line := if older k l then { l with passed := q :: l.passed.filter (· != q) } else l
  let k := s.core (q / 4)
  let t := { s.setCore (q / 4) { k with l1d := SMap.mapVal mark k.l1d } with
    net := s.net.filter fun m => match m with
      | .readData j ctx va line _ data _ => !(j == q / 4 && older line ⟨ctx, va, data, 0, []⟩)
      | _ => true }
  let d := dieOfCore (q / 4)
  if guests then t.setDie d { t.die d with guest := SMap.mapVal mark (t.die d).guest } else t

/-- What a read by stream `q` past the caches does to what the stream holds that is older. -/
def seenPast (s : State) (q : Nat) (via : Via) (place : Nat) : Except Nat (List Byte) → State
  | .error _ => s
  | .ok b => if decide (2 ^ 48 ≤ place) && decide (place < 2 ^ 52) || via == .l1 then s else s.passCopies q (via == .home) place b

/-- A home read of stream `q` (R272, R276). -/
def readAtHome (s : State) (q place n : Nat) : State × Except Nat (List Byte) :=
  let r := s.readHome place n (.core (q / 4))
  ((r.1.passAhead q false place n).seenPast q .home place r.2, r.2)

/-- What a read by the word of the running stream of state `s` comes to, where one made now gives `r`. -/
def bound (s : State) (via : Via) (whole : Bool) (place n : Nat) (r : State × Except Nat (List Byte)) :
    State × Except Nat (List Byte) :=
  let x := r.2.map (s.bindAhead via whole place)
  ((if servedAtHome via place then r.1.passAhead s.cur false place n else r.1).seenPast s.cur via place x, x)

/-- `n` bytes of one line, or the place of a poisoned sector that they use. `whole` says that they lie in a block which the
access reads as one (R281). -/
def readPiece (s : State) (c ctx : Nat) (via : Via) (va place n : Nat) (who : Consumer := .core c) (whole : Bool := false) :
    State × Except Nat (List Byte) :=
  let line := place / 128 * 128
  let r : State × Except Nat (List Byte) :=
    if servedAtHome via place then s.readHome place n who
    else
      let x := s.cachedLine c ctx via (va / 128 * 128) line who
      (x.1, lineBytes x.2 line place n)
  if who == .core s.myCore then s.bound via whole place n r else r

/-- The pieces of a read, (virtual address, place, bytes), in order; the first poisoned sector ends it. Pieces of one line
come from one reading of it, so that lanes with one address read one value (R156): `seen` are the lines read. `blocks` are
the 64-byte blocks of virtual addresses that the access reads as one (R155, R281). -/
def readPiecesSeen (s : State) (c ctx : Nat) (via : Via) (blocks : List Nat) (seen : SMap Line) :
    List (Nat × Nat × Nat) → State × Except Nat (List Byte)
  | [] => (s, .ok [])
  | (va, place, n) :: l =>
    let line := place / 128 * 128
    let (t, seen', r) : State × SMap Line × Except Nat (List Byte) :=
      if servedAtHome via place then
        let r := s.readHome place n (.core c)
        (r.1, seen, r.2)
      else match SMap.find seen line with
        | some x => (s, seen, lineBytes x line place n)
        | none =>
          let (u, x) := s.cachedLine c ctx via (va / 128 * 128) line (.core c)
          (u, SMap.set seen line x, lineBytes x line place n)
    match s.bound via (blocks.contains (va / 64)) place n (t, r) with
    | (t, .error k) => (t, .error k)
    | (t, .ok b) =>
      match t.readPiecesSeen c ctx via blocks seen' l with
      | (u, .error k) => (u, .error k)
      | (u, .ok r) => (u, .ok (b ++ r))

def readPieces (s : State) (c ctx : Nat) (via : Via) (l : List (Nat × Nat × Nat)) (blocks : List Nat := []) :
    State × Except Nat (List Byte) :=
  s.readPiecesSeen c ctx via blocks [] l

/-- The lines of a core's L1D, of its fills on their way and of its die's guest copies that `hit` names and whose bytes are
older than those at their homes are replaced (R227, R229). -/
def replaceStale (s : State) (c : Nat) (hit : Nat → Line → Bool) : State :=
  let stale (line : Nat) (l : Line) : Bool := hit line l && s.homeData line != l.data
  let k := s.core c
  let t := { s.setCore c { k with l1d := k.l1d.filter fun e => !stale e.1 e.2 } with
    net := s.net.filter fun m => match m with
      | .readData j ctx va line _ data _ => !(j == c && stale line ⟨ctx, va, data, 0, []⟩)
      | _ => true }
  let d := dieOfCore c
  t.setDie d { t.die d with guest := (t.die d).guest.filter fun e => !stale e.1 e.2 }

/-- The guest copies of a die whose bytes are older than those at their homes are replaced: streams that come to the die must not
read there what they have already seen superseded (R21, R276, log 89). -/
def dropOldGuests (s : State) (d : Nat) : State :=
  let x := s.die d
  s.setDie d { x with guest := x.guest.filter fun e => s.homeData e.1 == e.2.data }

/-- The aligned 64-byte blocks that lie wholly in `n` bytes from an address on (R155, R281). -/
def blocksWithin (lo n : Nat) : List Nat :=
  (List.range ((n + 63) / 64)).filterMap fun j =>
    let b := (lo + 63) / 64 + j
    if 64 * b + 64 ≤ lo + n then some b else none

/-- The stop of the running stream at data it cannot use (R215, R233). -/
def stopAt (s : State) (place : Nat) : Effect :=
  .keep (s.raise .uncorr (BitVec.ofNat 64 (s.sectorAddress place)))

end State

/-! ## Pieces of an access -/

/-- An access of `n` bytes cut at multiples of 128; `fuel` pieces at most. -/
def cutAt128 : Nat → Nat → Nat → List (Nat × Nat)
  | 0, _, _ => []
  | fuel + 1, a, n =>
    if n = 0 then [] else
      let k := min n (128 - a % 128)
      (a, k) :: cutAt128 fuel (a + k) (n - k)

/-- The pieces of `n` bytes from an address on. -/
def cut (a n : Nat) : List (Nat × Nat) := cutAt128 (n / 128 + 2) a n

/-! ## Checks of addresses -/

/-- What the checks of an access come to: its places, or the way the word ends. -/
inductive Checked (α : Type) where
  | ok (a : α)
  | no (e : Effect)

namespace State

/-- A translation that failed at `ea`, as the word meets it: PAGE, PROT, or a stop at a poisoned table sector; a
malformed entry is reported to the host (R349, R372). -/
def failed (s : State) (ea : Word) : Xlate → Effect
  | .page => .trap .page ea
  | .prot => .trap .prot ea
  | .malformed level a =>
    .keep ((s.toHost 0 3 (BitVec.ofNat 64 (a + level * 2 ^ 56 + s.myCtxId * 2 ^ 58)) s.myDie).raise .page ea)
  | .poisoned k => s.stopAt k
  | .ok _ _ => .trap .prot ea

/-- Whether a read by the running stream reaches what it is served from: a home on the other die needs the link, unless a
cache that serves the read holds the line (R13, R336). -/
def reachable (s : State) (via : Via) (place : Nat) : Bool :=
  s.reaches (.core s.myCore) (s.siteOf place) || s.heldFor s.myCore via (place / 128 * 128)

/-- Translation of a global address with the full/empty check of R223, step 5. A walk and a read that cannot reach the other die
wait (R336); a read for which `via` gives no way is made by another unit. -/
def checkGlobal (s : State) (ea : Word) (acc : Acc) (fe : Bool) (via : Option Via := some .l2) : Checked Nat :=
  if !s.walkReaches s.myCore s.myCtxId ea.toNat then
    let a := s.walkGap s.myCore s.myCtxId ea.toNat
    .no (s.linkHold (s.siteOf a) a)
  else match s.translate ea.toNat acc with
  | .ok place f =>
    if f ≠ fe then .no (.trap .prot ea)
    else if acc.rd && via.any fun v => !s.reachable v place then .no (s.linkHold (s.siteOf place) place)
    else .ok place
  | x => .no (s.failed ea x)

/-- The checks of a local address. -/
def checkLocal (s : State) (ea : Word) (a : Nat) : Checked Nat :=
  if s.localBacked s.myCore a then .ok (localPlace s.myCore a) else .no (.trap .page ea)

/-- Which spaces an instruction accepts, and the way in which it reads. -/
structure Form where
  size : Nat
  acc : Acc
  window : Bool := false
  fe : Bool := false
  via : Option Via := some .home

/-- The checks of a scalar access (R223), in order; the place of its first byte. -/
def checkScalar (s : State) (ea : Word) (f : Form) : Checked Nat :=
  let top := ea.extractLsb' 48 16
  if top ≠ 0#16 ∧ top ≠ 0xFFFF#16 then .no (.trap .page ea)
  else if ea.toNat % f.size ≠ 0 then .no (.trap .align ea)
  else if top = 0xFFFF#16 then
    if f.window then s.checkLocal ea (field ea 0 48) else .no (.trap .prot ea)
  else s.checkGlobal ea f.acc f.fe f.via

/-- The space and address of R168 of `n` bytes at a virtual or local address that the stream's checks placed. -/
def rangeOf (s : State) (ea : Word) (place n : Nat) : Nat × Nat × Nat :=
  if isLocalPlace place then (1 + s.myCore, (place - 2 ^ 48) % 2 ^ 20, n) else (0, field ea 0 48, n)

end State

end Sys2Proof.Machine
end

