-- ==== Sys2Proof/Machine/Atoms.lean ====
section
/-! DEFINITION. Operations carried out at a home slice: atomics and reductions (R243 to R246), loop-nest claims (R402),
full/empty words (R248, R249), and the deduplication windows of the Mortar link (R340, R368). -/

namespace Sys2Proof.Machine

/-! ## Atomic operations -/

/-- Bytes of an atomic by its aux byte: twice the operation plus the size bit, 16 for FADD, 0x40 for a claim. -/
def atomSize (aux : Nat) : Nat := if aux = 0x40 then 32 else if aux = 16 then 4 else if aux % 2 = 1 then 8 else 4

/-- The new value of an atomic, or none where a `CAS` fails (R244). Operands are `n`-bit numbers. -/
def atomNew (aux n : Nat) (old x compare : Nat) : Option Nat :=
  let sx (v : Nat) : Int := (BitVec.ofNat n v).toInt
  match aux / 2 with
  | 0 => some ((old + x) % 2 ^ n)
  | 1 => some (if sx old ≤ sx x then old else x)
  | 2 => some (if sx old ≤ sx x then x else old)
  | 3 => some (old &&& x)
  | 4 => some (old ||| x)
  | 5 => some (old ^^^ x)
  | 6 => some x
  | 7 => if old = compare then some x else none
  | _ => some (Fmt.fp32.sum Rnd.nearest 0 [Fmt.fp32.value old, Fmt.fp32.value x])

/-- What an `ATOM` form writes into S[d] from the old value (R244). -/
def atomResult (aux : Nat) (old : Nat) : Word :=
  if aux = 16 then BitVec.ofNat 64 old
  else if aux % 2 = 1 then BitVec.ofNat 64 old else (BitVec.ofNat 32 old).signExtend 64

/-- The loop-nest descriptor of R401, from its 32 bytes. -/
structure Nest where
  next : Nat
  e : Vector Nat 4
  least : Nat
  claimants : Nat
  clean : Bool
  deriving DecidableEq, Repr

def Nest.ofBytes (l : List Byte) : Nest :=
  let at' (o n : Nat) : Nat := leNat ((l.drop o).take n)
  ⟨at' 0 8, #v[at' 8 4, at' 12 4, at' 16 4, at' 20 4], at' 0x18 2, at' 0x1A 2, at' 0x1C 4 == 0⟩

def Nest.total (d : Nest) : Nat := d.e[0] * d.e[1] * d.e[2] * d.e[3]

/-- R401. -/
def Nest.malformed (d : Nest) : Bool :=
  d.e.toList.contains 0 || d.least == 0 || d.claimants == 0 || !d.clean || decide (2 ^ 63 ≤ d.total) ||
    decide (d.total < d.next)

/-- The size of the next chunk (R402). -/
def Nest.chunk (d : Nest) : Nat :=
  let r := d.total - d.next
  min r (max d.least ((r + 2 * d.claimants - 1) / (2 * d.claimants)))

/-- The indices of iteration `s` (R402). -/
def Nest.indices (d : Nest) (s : Nat) : Vector (BitVec 32) 4 :=
  let f (x : Nat) : BitVec 32 := BitVec.ofNat 32 x
  #v[f (s % d.e[0]), f (s / d.e[0] % d.e[1]), f (s / (d.e[0] * d.e[1]) % d.e[2]), f (s / (d.e[0] * d.e[1] * d.e[2]))]

namespace State

/-- A write formed at the home for a stream (R232), its own L1D lines dropped (R227). -/
def formedWrite (s : State) (q place : Nat) (l : List Byte) : State :=
  let cells := (l.zipIdx).map fun e => (place + e.2, e.1)
  ((s.passAhead q true place l.length).writeAtHome (writerOfStream q) cells (s.payer (.core (q / 4)))).dropL1 (q / 4) (linesOf cells)

/-- An atomic, reduction or claim of stream `q` carried out at its home, indivisibly; on host memory at the host port, which asks
for the line's ownership (R245, R341). -/
def atomAtHome (s : State) (q : Nat) (op : AtomOp) : State × HomeReply :=
  let aux := op.aux.toNat
  let n := atomSize aux
  match (if 2 ^ 52 ≤ op.place then s.toHostBare else s).readAtHome q op.place n with
  | (t, .error k) => (t, .poisoned k)
  | (t, .ok l) =>
    if aux = 0x40 then
      let d := Nest.ofBytes l
      if d.malformed then (t, .malformed)
      else if d.total = d.next then (t, .claim 0 (Vector.replicate 4 0))
      else
        let c := d.chunk
        (t.formedWrite q op.place (leBytes 8 (d.next + c)), .claim (BitVec.ofNat 64 c) (d.indices d.next))
    else
      let old := leNat l
      let b := 8 * n
      match atomNew aux b old (op.x.toNat % 2 ^ b) (op.compare.toNat % 2 ^ b) with
      | none => (t, .value (BitVec.ofNat 64 old))
      | some v => (t.formedWrite q op.place (leBytes n v), .value (BitVec.ofNat 64 old))

/-- The end of an `ATOM` form or claim of the running stream, whose S[d] is `d`, with the home's answer. -/
def atomDone (s : State) (d : BitVec 5) (op : AtomOp) : HomeReply → Effect
  | .value old => .done (s.writeS d (atomResult op.aux.toNat old.toNat))
  | .claim c i =>
    if c = 0 then .done (s.writeS d 0)
    else
      let u := s.writeS d c
      .done (u.setMe { u.me with i := i })
  | .malformed => .trap .format op.va
  | .poisoned k => s.stopAt k

/-! ## Remote-atomic agents (R339, R340) -/

/-- The agent through which a core's requests for the other die pass: the one of its mesh row. Agents are numbered
die*16 + module. -/
def agentOf (core : Nat) : Nat := dieOfCore core * 16 + meshY core

/-- Whether an agent has no room for a request: 64 are outstanding, or the request whose window slot the next number would take
(R339, R368). -/
def agentFull (a : Sys2Proof.Machine.Agent) : Bool :=
  decide (Config.agentOutstanding ≤ a.out.length) || a.out.any fun r => r.reqnum.toNat % 64 == a.next.toNat % 64

/-- A request for the other die enters its agent, or waits. -/
def sendAgent (s : State) (q : Nat) (red : Option Nat) (d : BitVec 5) (op : AtomOp) : Option (State × BitVec 16) :=
  let k := agentOf (q / 4)
  let x := s.die (dieOfCore (q / 4))
  let a := SMap.get {} x.agents k
  if agentFull a then none
  else
    let r : AgentReq := ⟨a.next, q, red, d, op, none, s.now (dieOfCore (q / 4)), []⟩
    some (s.setDie (dieOfCore (q / 4)) { x with
      agents := SMap.set x.agents k { next := a.next + 1, out := a.out ++ [r] } }, a.next)

/-- The bytes that an operation has just formed at its home, given its old value or claim: none where it wrote nothing. -/
def formedBytes (s : State) (op : AtomOp) (r : HomeReply) : List (Nat × Byte) :=
  let aux := op.aux.toNat
  let b := 8 * atomSize aux
  let n : Nat := match r with
    | .value old =>
      if aux != 0x40 && (atomNew aux b old.toNat (op.x.toNat % 2 ^ b) (op.compare.toNat % 2 ^ b)).isSome then atomSize aux else 0
    | .claim c _ => if c != 0 then 8 else 0
    | _ => 0
  (List.range n).map fun i => (op.place + i, s.byteAt (op.place + i))

/-- A request that reaches the far die: a new number is carried out once and its reply enters the window; a number in
the window gets the cached reply, which for a reduction is 0 (R340, R368). -/
def atomAtFarDie (s : State) (agent : Nat) (r : AgentReq) : State × HomeReply × List (Nat × Byte) :=
  let far := 1 - agent / 16 % 2
  let key := agent * 64 + r.reqnum.toNat % 64
  let slot := SMap.get {} (s.die far).dedup key
  if slot.state = 2#8 ∧ slot.reqnum = r.reqnum then (s, slot.reply, slot.formed)
  else
    let (t, old) := s.atomAtHome r.stream r.op
    let reply : HomeReply := match r.red, old with
      | some _, .value _ => .value 0
      | _, y => y
    let x := t.die far
    let formed := t.formedBytes r.op old
    (t.setDie far { x with dedup := SMap.set x.dedup key ⟨reply, r.reqnum, 2, formed⟩ }, reply, formed)

/-! ## Full/empty words (R248, R249) -/

def isFull (s : State) (place : Nat) : Bool := s.full.contains (place / 8)

/-- A full bit written. -/
def setFull (s : State) (place : Nat) (b : Bool) : State :=
  { s with full := if b then (if s.isFull place then s.full else place / 8 :: s.full)
                   else s.full.filter (· ≠ place / 8) }

/-- An access of the running stream meets a full/empty page through a mapping that none has met before: its full bits are 0,
as when the page was mapped, unless another mapping of the page has been met (R248, log 75). -/
def meetFull (s : State) (va : Nat) : State :=
  match s.leafOf s.myCore s.myCtxId va with
  | .leaf e size =>
    let lo := Pte.pa e
    let m := (s.myCtx.owner, va / size * size, size, lo)
    if s.feMaps.contains m then s
    else
      let shared := s.feMaps.any fun f => decide (f.2.2.2 < lo + size) && decide (lo < f.2.2.2 + f.2.2.1)
      let t := if shared then s
        else { s with full := s.full.filter fun w => decide (8 * w < lo) || decide (lo + size ≤ 8 * w) }
      { t with feMaps := m :: t.feMaps }
  | _ => s

/-- A full word read at its home for stream `q`; `LDFE` empties it. -/
def takeFull (s : State) (q place : Nat) (take : Bool) : State × Except Nat Word :=
  match s.readAtHome q place 8 with
  | (t, .error k) => (t, .error k)
  | (t, .ok l) =>
    let v := BitVec.ofNat 64 (leNat l)
    if take then ((t.formedWrite q place l).setFull place false, .ok v) else (t, .ok v)

/-- The home serves the queued requests of a full word in arrival order, `LDFF` requests in turn until an `LDFE` empties the
word (R249); `n` requests are left. The answers set out to their streams. -/
def serveRequests (s : State) (place : Nat) : Nat → State
  | 0 => s
  | n + 1 =>
    match (if s.isFull place then s.feQueue.find? fun r => r.place = place else none) with
    | none => s
    | some r =>
      let (t, x) := s.takeFull r.stream place r.take
      ({ t with feQueue := t.feQueue.filter fun f => f.stream ≠ r.stream }.post (.feReply r.stream (match x with
        | .ok v => .value v
        | .error k => .poisoned k) (t.now (dieOfCore (r.stream / 4))))).serveRequests place n

def serveFull (s : State) (place : Nat) : State := s.serveRequests place s.feQueue.length

end State

end Sys2Proof.Machine
end

