-- ==== Sys2Proof/Machine/Stores.lean ====
section
/-! DEFINITION. The store queue of a stream (R165, R168, R169, R234, R240), range-slot counts (R397, R398), and how a
queued write is carried out. -/

namespace Sys2Proof.Machine

/-- Two ranges (space, first, count) share a byte. -/
def overlaps (a b : Nat × Nat × Nat) : Bool :=
  a.1 == b.1 && decide (a.2.1 < b.2.1 + b.2.2) && decide (b.2.1 < a.2.1 + a.2.2) && a.2.2 != 0 && b.2.2 != 0

def anyOverlap (l m : List (Nat × Nat × Nat)) : Bool := l.any fun a => m.any (overlaps a)

/-- The first place of the piece of a write that a place lies in (R281). -/
def StoreEntry.piece (e : StoreEntry) (place : Nat) : Nat :=
  if e.pieces.blocks.contains (place / 64) then place / 64 * 64 else place / e.pieces.unit * e.pieces.unit

/-! ## Range slots -/

namespace Stream

/-- The range that slot `k` binds, for a stream of mesh core `c`. -/
def slotRange (t : Stream) (c k : Nat) : Nat × Nat × Nat :=
  let n := t.n.toList.getD k default
  if n.bound then ((if n.space then 1 + c else 0), n.base.toNat, n.length.toNat) else (0, 0, 0)

/-- The bindings, (slot, gen), that track an access with these ranges. -/
def tracking (t : Stream) (c : Nat) (ranges : List (Nat × Nat × Nat)) : List (Nat × Nat) :=
  (List.range 8).filterMap fun k =>
    if anyOverlap [t.slotRange c k] ranges then some (k, (t.n.toList.getD k default).gen) else none

/-- Counting an access into the bindings that track it (R397). -/
def count (t : Stream) (l : List (Nat × Nat)) : Stream := l.foldl (fun u e => u.addCount e.1 1) t

/-- Whether an add would carry a count past 65,535. -/
def countFull (t : Stream) (l : List (Nat × Nat)) : Bool :=
  l.any fun e => (t.n.toList.getD e.1 default).count = 0xFFFF#16

/-- The bindings that a mask names, each with its generation. -/
def maskSlots (t : Stream) (mask : BitVec 8) : List (Nat × Nat) :=
  (List.range 8).filterMap fun k =>
    let n := t.n.toList.getD k default
    if mask.getLsbD k && n.bound then some (k, n.gen) else none

end Stream

namespace State

/-! ## What a release waits for -/

/-- The STE commands that stream `q` has sent and that no STE has carried out. -/
def steCommands (s : State) (q : Nat) : List SteCmd :=
  (s.net.filterMap fun m => match m with
    | .steCmd _ c => if c.stream = q then some c else none
    | _ => none) ++
  (s.stes.map fun e => e.2.queue.filter fun c => c.stream = q).flatten

/-- The copies of stream `q` that have not performed: accepted, not delivered whole and not stopped (R271, R285). -/
def liveCopies (s : State) (q : Nat) : List CopyRec :=
  ((s.core (q / 4)).copies.map (·.2)).filter fun r =>
    r.stream = q % 4 && decide (r.phase = .active)

/-- Whether the accesses of stream `q` that are older than word `seq` have performed, as far as a release waits for them. -/
def releaseReady (s : State) (q seq : Nat) : ReleaseOf → Bool
  | .no => true
  | .all =>
    !((s.liveCopies q).any fun r => decide (r.seq < seq)) && !((s.steCommands q).any fun c => decide (c.seq < seq)) &&
      !((s.stream q).storeQ.any fun e => decide (e.seq < seq))
  | .slots l =>
    let hit (m : List (Nat × Nat)) := m.any l.contains
    !((s.liveCopies q).any fun r => decide (r.seq < seq) && hit r.counted) &&
      !((s.steCommands q).any fun c => decide (c.seq < seq) && hit c.counted) &&
      !((s.stream q).storeQ.any fun e => decide (e.seq < seq) && hit e.counted)

/-! ## Carrying a queued write out -/

/-- The bytes of a list whose lines are homed on a die. -/
def homedOn (s : State) (d : Nat) (cells : List (Nat × Byte)) : List (Nat × Byte) :=
  cells.filter fun e => s.homeDie e.1 == d

/-- The data of a write goes to its homes and into scratchpads. The writer's own L1D drops what other writes than scalar
stores touch; the bytes of a scalar store enter it where the store has performed with that (R226, R227, R271). -/
def storeData (s : State) (q : Nat) (kind : StoreKind) (cells : List (Nat × Byte)) : State :=
  let c := q / 4
  let u := cells.foldl (fun t e => t.passAhead q true e.1 1) s
  let t := u.writeAtHome (writerOfStream q) cells (s.payer (.core c))
  match kind with
  | .scalar | .remote => t.patchL1 c (s.homedOn (dieOfCore c) cells)
  | _ => t.dropL1 c (linesOf cells)

/-- The acknowledgement of a write has returned: what it wrote on the other die has performed. The guest copies of its die and
the L1D of its core take it now or drop their lines, and what younger words have read ahead there they read again (R227, R229,
R271, R272, R289). -/
def storeDone (s : State) (q : Nat) (kind : StoreKind) (cells : List (Nat × Byte)) : State :=
  let far := s.homedOn (1 - dieOfCore (q / 4)) cells
  let t := far.foldl (fun t e => t.passAhead q true e.1 1) (s.patchGuests (dieOfCore (q / 4)) far)
  match kind with
  | .scalar => t.patchL1 (q / 4) far
  | _ => t.dropL1 (q / 4) (linesOf far)

/-- The stop of a stream whose retired access met data it cannot use: at its oldest entry not retired, with the
sector's address (R215, R454). -/
def stopLate (s : State) (q place : Nat) : State :=
  s.stopNow q .uncorr (BitVec.ofNat 64 (s.sectorAddress place))

/-- The effect of a queued write at its home. -/
def carryOut (s : State) (q : Nat) (e : StoreEntry) : State :=
  match e.kind with
  | .red op x =>
    match e.cells with
    | [] => s
    | (place, _) :: _ =>
      match s.atomAtHome q ⟨op.setWidth 8, e.va, place, x, 0⟩ with
      | (t, .poisoned k) => t.stopLate q k
      | (t, _) => t
  | .stfl _ => match e.cells with
    | [] => s
    | (place, _) :: _ => ((s.storeData q e.kind e.cells).setFull place true).serveFull place
  | .feclr => match e.cells with
    | [] => s
    | (place, _) :: _ => (s.storeData q e.kind e.cells).setFull place false
  | _ => s.storeData q e.kind e.cells

/-- A queued write leaves the queue, and its counts are removed (R397). -/
def dropStore (s : State) (q : Nat) (e : StoreEntry) : State :=
  let t := s.stream q
  s.setStream q ({ t with storeQ := t.storeQ.filter fun f => f.seq ≠ e.seq }.uncount e.counted)

/-- A queued write has performed as its stream sees it. The bytes of a reduction are those formed at its home. -/
def retireStore (s : State) (q : Nat) (e : StoreEntry) : State :=
  (s.storeDone q e.kind (match e.kind with
    | .red _ _ => e.landed
    | _ => e.landed ++ e.cells)).dropStore q e

/-- A change of the queue entries of a stream. -/
def mapStores (s : State) (q : Nat) (f : StoreEntry → StoreEntry) : State :=
  let t := s.stream q
  s.setStream q { t with storeQ := t.storeQ.map f }

/-- An agent holds the request of an entry. -/
def inAgent (s : State) (q : Nat) (e : StoreEntry) : Bool :=
  (SMap.get ({} : Sys2Proof.Machine.Agent) (s.die (dieOfCore (q / 4))).agents (agentOf (q / 4))).out.any fun r =>
    r.stream == q && r.red == some e.seq

/-- Whether an entry is a reduction that its agent carries out: one that the agent holds, or one still at its core whose home
is on the other die (R340). A `SETHOME` in between changes neither, so that it is carried out once (R359, R372). -/
def isFarReduction (s : State) (q : Nat) (e : StoreEntry) : Bool :=
  match e.kind, e.cells with
  | .red _ _, (place, _) :: _ => s.inAgent q e || (e.phase == .queued && s.homeDie place != dieOfCore (q / 4))
  | _, _ => false

/-- The target core of an entry that goes to a scratchpad. -/
def targetCore (e : StoreEntry) : Nat := ((e.cells.headD (0, 0)).1 - 2 ^ 48) / 2 ^ 20

/-- An `STR` of stream `q` whose target core is moving is held there (R218, R242). What a moving core has issued drains, its own
STRs too, and an `STR` to a core of a context that is switched out lands in the backing page (R217, R220, log 88). -/
def targetMoves (s : State) (q : Nat) (e : StoreEntry) : Bool :=
  let k := s.core (targetCore e)
  e.kind == .remote && k.moving && !(s.core (q / 4)).moving && !(k.owner.any fun o => (s.ctx o.1).leaving)

/-- A far reduction enters its agent; none when the agent is full. -/
def sendReduction (s : State) (q : Nat) (e : StoreEntry) : Option State :=
  match e.kind, e.cells with
  | .red op x, (place, _) :: _ =>
    (s.sendAgent q (some e.seq) 0 ⟨op.setWidth 8, e.va, place, x, 0⟩).map fun r =>
      r.1.mapStores q fun f => if f.seq = e.seq then { f with phase := .sent, sentAt := s.now (dieOfCore (q / 4)) } else f
  | _, _ => none

/-- Whether a page of a scratchpad is held by another stream of the core than `q` (R253). -/
def pageHeld (s : State) (q p : Nat) : Bool :=
  let x := s.page (q / 4) p
  x.locked && x.holder.toNat != q % 4

/-- Whether a range of the stream's own scratchpad lies in a page that a sibling holds. -/
def rangeHeld (s : State) (q : Nat) (r : Nat × Nat × Nat) : Bool :=
  r.1 == 1 + q / 4 && r.2.2 != 0 &&
    (List.range ((r.2.1 % 4096 + r.2.2 + 4095) / 4096)).any fun j => s.pageHeld q (r.2.1 / 4096 + j)

/-- Whether the link carries a write of a stream to its homes (R13, R320). -/
def linkedTo (s : State) (q : Nat) (cells : List (Nat × Byte)) : Bool :=
  cells.all fun c => s.sends (.core (q / 4)) (s.siteOf c.1)

/-- The writes of a core's streams that set out before a write of it, of its class (R321). -/
def sentBefore (s : State) (q : Nat) (e : StoreEntry) : List StoreEntry :=
  ((List.range 4).map fun j => (s.stream (q / 4 * 4 + j)).storeQ.filter fun f =>
    f.phase == .sent && (e.phase == .queued || decide (f.order < e.order)) && f.kind.isBulk == e.kind.isBulk).flatten

/-- Whether a write may land at a place now: the link carries it there (R13), no write of its class that its core sent before it
to the same slice is still on its way there (R322), no sibling holds the place's page (R253), and no regulator holds a fill of
its context (R412). -/
def mayLand (s : State) (q : Nat) (e : StoreEntry) (place : Nat) : Bool :=
  s.sends (.core (q / 4)) (s.siteOf place) && !s.heldBack q &&
    if isLocalPlace place then
      !(decide ((place - 2 ^ 48) / 2 ^ 20 = q / 4) && s.pageHeld q ((place - 2 ^ 48) % 2 ^ 20 / 4096))
    else
      !((s.sentBefore q e).any fun f => f.cells.any fun x => !isLocalPlace x.1 && s.homeSlice x.1 == s.homeSlice place)

/-- The oldest entry of a stream's queue performs as far as it can, once its word has retired (R165): true when it has
left the queue. The page of a scratchpad that it goes to is made resident (R225, R242). -/
def performHead (s : State) (q : Nat) : State × Bool :=
  match (s.stream q).storeQ with
  | [] => (s, false)
  | e :: _ =>
    if s.inTrb q e.seq || !s.releaseReady q e.seq e.release || e.ranges.any (s.rangeHeld q) || s.targetMoves q e ||
        !s.linkedTo q (e.landed ++ e.cells) then
      (s, false)
    else if s.isFarReduction q e then
      if e.phase = .queued then ((s.sendReduction q e).getD s, false) else (s, false)
    else if e.phase = .written then (s.retireStore q e, true)
    else
      let t := if e.phase = .queued then s.startWrite q e.cells else s
      if e.cells.all fun x => t.mayLand q e x.1 then ((t.carryOut q e).retireStore q e, true) else (t, false)

/-- Performing `n` entries from the head; false when one of them cannot perform yet. -/
def performMany (s : State) (q : Nat) : Nat → State × Bool
  | 0 => (s, true)
  | n + 1 =>
    match s.performHead q with
    | (t, false) => (t, false)
    | (t, true) => t.performMany q n

/-- The number of entries up to the last one whose ranges overlap the given ones. -/
def lastOverlap (l : List StoreEntry) (ranges : List (Nat × Nat × Nat)) : Nat :=
  ((l.zipIdx.filter fun e => anyOverlap e.1.ranges ranges).map fun e => e.2 + 1).foldl max 0

/-- The read of the running stream's word is counted in the slots that track its ranges until the word's entry completes; false
while a count is full (R397). -/
def countRead (s : State) (ranges : List (Nat × Nat × Nat)) : State × Bool :=
  let t := s.me
  let hits := t.tracking s.myCore ranges
  if !s.inTrb s.cur t.seqNext || hits.isEmpty then (s, true)
  else if t.countFull hits then (s, false)
  else
    let mark (e : TrbEntry) : TrbEntry := if e.seq = t.seqNext then { e with counted := e.counted ++ hits } else e
    (s.setMe { t.count hits with trb := t.trb.map mark }, true)

/-- Every older store of the running stream that overlaps the ranges performs. -/
def drainOver (s : State) (ranges : List (Nat × Nat × Nat)) : State × Bool :=
  s.performMany s.cur (lastOverlap s.me.storeQ ranges)

/-- Every older store that overlaps the ranges performs before the running stream reads them (R169), and the read is counted. -/
def drainFor (s : State) (ranges : List (Nat × Nat × Nat)) : State × Bool :=
  match s.drainOver ranges with
  | (t, true) => t.countRead ranges
  | r => r

/-- Every older store of the running stream performs. -/
def drainAll (s : State) : State × Bool := s.performMany s.cur s.me.storeQ.length

/-- After older writes have performed, a word goes on, unless one of them could not (it holds) or stopped its stream. -/
def goOn (s : State) (w : Wait) (r : State × Bool) (body : State → Effect) : Effect :=
  if r.1.me.faultMark && !s.me.faultMark then .keep r.1
  else if r.2 then body r.1 else .keep (r.1.holdFor w)

/-- A word whose reads are `pieces` goes on once the walks and the fills that they start have begun at their regulators (R412). -/
def starting (s : State) (via : Via) (pieces : List (Nat × Nat × Nat)) (body : State → Effect) : Effect :=
  let u := s.startReads via pieces
  if u.heldBack u.cur then .keep (u.holdFor .fills) else body u

/-- A word whose reads lie in the given ranges, each (virtual address, place, bytes) of `pieces`: it holds while an older store that
overlaps them cannot perform, while a sibling holds a page of them, and while a regulator holds the walks and the fills that the
reads have started (R412). -/
def reading (s : State) (ranges : List (Nat × Nat × Nat)) (via : Via) (pieces : List (Nat × Nat × Nat))
    (body : State → Effect) : Effect :=
  if ranges.any (s.rangeHeld s.cur) then .hold (.reads ranges)
  else s.goOn (.reads ranges) (s.drainFor ranges) fun t => t.starting via pieces body

/-- A write enters the queue of the running stream when its word retires; it holds while a slot's count is full. `pages` are the
virtual addresses that its word has translated, with their places; by default that of its first byte. -/
def enqueue (s : State) (kind : StoreKind) (cells : List (Nat × Byte)) (va : Word)
    (ranges : List (Nat × Nat × Nat)) (release : ReleaseOf) (pieces : Pieces := {})
    (pages : List (Nat × Nat) := [(va.toNat, (cells.headD (0, 0)).1)]) : Effect :=
  let hits := s.me.tracking s.myCore ranges
  if s.me.countFull hits then .hold .retry
  else
    let e : StoreEntry := ⟨s.me.seqNext, kind, cells, va, ranges, .queued, release, hits, [], 0, pieces, 0⟩
    let t := pages.foldl (fun u p => u.walkIn u.myCore u.myCtxId p.1 p.2) s
    .done (t.setMe { t.me.count hits with storeQ := t.me.storeQ ++ [e] })

end State

end Sys2Proof.Machine
end

