-- ==== Sys2Proof/Machine/LoadStore.lean ====
section
/-! DEFINITION. Scalar loads, stores and prefetch (R38, R53, R222, R223, R234 to R236). -/

namespace Sys2Proof.Machine

/-- How the bytes of a scalar load become a word. -/
def extendBytes (signed : Bool) (l : List Byte) : Word :=
  let n := 8 * l.length
  if signed then BitVec.ofInt 64 (BitVec.ofNat n (leNat l)).toInt else BitVec.ofNat 64 (leNat l)

namespace State

/-- A scalar load of `n` bytes at `ea` into S[d] (R53, R223). -/
def loadScalar (via : Via) (n : Nat) (signed : Bool) (ea : Word) (d : BitVec 5) (s : State) : Effect :=
  match s.checkScalar ea { size := n, acc := .load, window := true, via := some via } with
  | .no e => e
  | .ok place =>
    s.reading [s.rangeOf ea place n] via [(field ea 0 48, place, n)] fun s =>
      match s.readPiece s.myCore s.myCtxId via (field ea 0 48) place n with
      | (t, .error k) => t.stopAt k
      | (t, .ok l) => .done (t.writeS d (extendBytes signed l))

/-- A scalar store of the low `n` bytes of `x` at `ea` (R53, R223, R234). -/
def storeScalar (n : Nat) (ea x : Word) (s : State) : Effect :=
  match s.checkScalar ea { size := n, acc := .store, window := true } with
  | .no e => e
  | .ok place =>
    s.enqueue .scalar (placed place (leBytes n x.toNat)) ea [s.rangeOf ea place n] .no

/-- The place of the line of a prefetch that is not dropped: a global address that hits a TLB and may be read (R236). -/
def prefetchLine (s : State) (ea : Word) : Option Nat :=
  let va := ea.toNat / 128 * 128
  let c := s.myCore
  if ea.extractLsb' 48 16 ≠ 0#16 then none
  else if (tlbHit (s.core c).tlb s.myCtxId va).isNone && (tlbHit (s.die (dieOfCore c)).tlb s.myCtxId va).isNone then none
  else match s.translate va .load with
    | .ok place false => some place
    | _ => none

/-- `PREF` (R236): a line request, or nothing. Whether one that need not be dropped is carried out is left open. -/
def prefetch (ea : Word) (l1 : Bool) (s : State) : Effect :=
  let (t, k) := s.freshFree
  match s.prefetchLine ea with
  | some place =>
    if Config.prefTaken k then .done (t.post (.readReq s.myCore s.myCtxId (ea.toNat / 128 * 128) place l1)) else .done t
  | none => .done t

end State

/-! ## Bodies of the M words; a prefixed pair supplies another immediate -/

/-- `LD.B` (R53). -/
def ldBBody (imm : Word) (b : BitVec 4) (t : BitVec 5) (s : State) : Effect :=
  s.loadScalar .l1 1 true (s.mAddr b imm) t

/-- `LD.B` without a prefix. -/
def execLdB (g : BitVec 3) (b : BitVec 4) (i : BitVec 12) (t : BitVec 5) (s : State) : Out :=
  s.brick g (ldBBody (imm12 i) b t)

/-- `LD.BU` (R53). -/
def ldBuBody (imm : Word) (b : BitVec 4) (t : BitVec 5) (s : State) : Effect :=
  s.loadScalar .l1 1 false (s.mAddr b imm) t

/-- `LD.BU` without a prefix. -/
def execLdBu (g : BitVec 3) (b : BitVec 4) (i : BitVec 12) (t : BitVec 5) (s : State) : Out :=
  s.brick g (ldBuBody (imm12 i) b t)

/-- `LD.H` (R53). -/
def ldHBody (imm : Word) (b : BitVec 4) (t : BitVec 5) (s : State) : Effect :=
  s.loadScalar .l1 2 true (s.mAddr b imm) t

/-- `LD.H` without a prefix. -/
def execLdH (g : BitVec 3) (b : BitVec 4) (i : BitVec 12) (t : BitVec 5) (s : State) : Out :=
  s.brick g (ldHBody (imm12 i) b t)

/-- `LD.HU` (R53). -/
def ldHuBody (imm : Word) (b : BitVec 4) (t : BitVec 5) (s : State) : Effect :=
  s.loadScalar .l1 2 false (s.mAddr b imm) t

/-- `LD.HU` without a prefix. -/
def execLdHu (g : BitVec 3) (b : BitVec 4) (i : BitVec 12) (t : BitVec 5) (s : State) : Out :=
  s.brick g (ldHuBody (imm12 i) b t)

/-- `LD.W` (R53). -/
def ldWBody (imm : Word) (b : BitVec 4) (t : BitVec 5) (s : State) : Effect :=
  s.loadScalar .l1 4 true (s.mAddr b imm) t

/-- `LD.W` without a prefix. -/
def execLdW (g : BitVec 3) (b : BitVec 4) (i : BitVec 12) (t : BitVec 5) (s : State) : Out :=
  s.brick g (ldWBody (imm12 i) b t)

/-- `LD.WU` (R53). -/
def ldWuBody (imm : Word) (b : BitVec 4) (t : BitVec 5) (s : State) : Effect :=
  s.loadScalar .l1 4 false (s.mAddr b imm) t

/-- `LD.WU` without a prefix. -/
def execLdWu (g : BitVec 3) (b : BitVec 4) (i : BitVec 12) (t : BitVec 5) (s : State) : Out :=
  s.brick g (ldWuBody (imm12 i) b t)

/-- `LD.D` (R53). -/
def ldDBody (imm : Word) (b : BitVec 4) (t : BitVec 5) (s : State) : Effect :=
  s.loadScalar .l1 8 false (s.mAddr b imm) t

/-- `LD.D` without a prefix. -/
def execLdD (g : BitVec 3) (b : BitVec 4) (i : BitVec 12) (t : BitVec 5) (s : State) : Out :=
  s.brick g (ldDBody (imm12 i) b t)

/-- `LDX.D` (R235). -/
def ldxDBody (imm : Word) (b : BitVec 4) (t : BitVec 5) (s : State) : Effect :=
  s.loadScalar .home 8 false (s.mAddr b imm) t

/-- `LDX.D` without a prefix. -/
def execLdxD (g : BitVec 3) (b : BitVec 4) (i : BitVec 12) (t : BitVec 5) (s : State) : Out :=
  s.brick g (ldxDBody (imm12 i) b t)

/-- `ST.B` (R53). -/
def stBBody (imm : Word) (b : BitVec 4) (t : BitVec 5) (s : State) : Effect :=
  s.storeScalar 1 (s.mAddr b imm) (s.readS t)

/-- `ST.B` without a prefix. -/
def execStB (g : BitVec 3) (b : BitVec 4) (i : BitVec 12) (t : BitVec 5) (s : State) : Out :=
  s.brick g (stBBody (imm12 i) b t)

/-- `ST.H` (R53). -/
def stHBody (imm : Word) (b : BitVec 4) (t : BitVec 5) (s : State) : Effect :=
  s.storeScalar 2 (s.mAddr b imm) (s.readS t)

/-- `ST.H` without a prefix. -/
def execStH (g : BitVec 3) (b : BitVec 4) (i : BitVec 12) (t : BitVec 5) (s : State) : Out :=
  s.brick g (stHBody (imm12 i) b t)

/-- `ST.W` (R53). -/
def stWBody (imm : Word) (b : BitVec 4) (t : BitVec 5) (s : State) : Effect :=
  s.storeScalar 4 (s.mAddr b imm) (s.readS t)

/-- `ST.W` without a prefix. -/
def execStW (g : BitVec 3) (b : BitVec 4) (i : BitVec 12) (t : BitVec 5) (s : State) : Out :=
  s.brick g (stWBody (imm12 i) b t)

/-- `ST.D` (R53). -/
def stDBody (imm : Word) (b : BitVec 4) (t : BitVec 5) (s : State) : Effect :=
  s.storeScalar 8 (s.mAddr b imm) (s.readS t)

/-- `ST.D` without a prefix. -/
def execStD (g : BitVec 3) (b : BitVec 4) (i : BitVec 12) (t : BitVec 5) (s : State) : Out :=
  s.brick g (stDBody (imm12 i) b t)

/-- `PREF` (R236): level 1 fills L1D too. -/
def prefBody (imm : Word) (b : BitVec 4) (l : BitVec 1) (s : State) : Effect :=
  s.prefetch (s.mAddr b imm) (l == 1#1)

/-- `PREF` without a prefix. -/
def execPref (g : BitVec 3) (b : BitVec 4) (i : BitVec 12) (l : BitVec 1) (s : State) : Out :=
  s.brick g (prefBody (imm12 i) b l)

/-- `BAT_LD_D` (R39): as `LD.D` with offset 0. -/
def execBatLdD (a b : BitVec 5) (s : State) : Out :=
  s.bat fun s => s.loadScalar .l1 8 false (s.readS b) a

/-- `BAT_ST_D` (R39): as `ST.D` with offset 0. -/
def execBatStD (a b : BitVec 5) (s : State) : Out :=
  s.bat fun s => s.storeScalar 8 (s.readS a) (s.readS b)

end Sys2Proof.Machine
end

