-- ==== Sys2Proof/Machine/Fences.lean ====
section
/-! DEFINITION. Acquires and releases (R227, R229, R239, R284) and the fences of major 0x30 (R283 to R285). -/

namespace Sys2Proof.Machine

/-- Whether the cached line `l` at a place lies in the ranges, (first, count), of an acquire by context `c`; no ranges means
every line. It does when the virtual address that filled it does, or when the context maps its place into a range. -/
def lineHit (s : State) (ranges : Option (List (Nat × Nat))) (c line : Nat) (l : Line) : Bool :=
  match ranges with
  | none => true
  | some rs => rs.any fun r => r.2 != 0 &&
      ((l.ctx == c && decide (r.1 < l.va + 128) && decide (l.va < r.1 + r.2)) || s.mapsInto c line r.1 r.2)

/-- The global ranges bound to the slots of a mask (R284). -/
def Stream.globalRanges (t : Stream) (mask : BitVec 8) : List (Nat × Nat) :=
  (List.range 8).filterMap fun k =>
    let n := t.n.toList.getD k default
    if mask.getLsbD k && n.bound && !n.space then some (n.base.toNat, n.length.toNat) else none

/-- Releases of every scope wait for the same events (R271). -/
def releaseAt (_ : Scope) (r : ReleaseOf) : ReleaseOf := r

/-- Scopes that invalidate L1D lines, and those that invalidate guest copies too (R239). -/
def dropsL1 : Scope → Bool
  | .stream | .core => false
  | _ => true
def dropsGuests : Scope → Bool
  | .device | .system => true
  | _ => false

namespace State

/-- Whether an acquire by stream `q` at a scope that does not invalidate a copy of a line may leave it to the younger reads: no
agent of the scope has seen bytes of it superseded (R276), nor is a read behind the acquire fresh while the line is older than
its home (R278). What may not stay leaves by replacement (log 72). -/
def outdated (s : State) (q : Nat) (scope : Scope) (line : Nat) (l : Line) : Bool :=
  (l.passed.any fun p => match scope with
    | .stream => p == q
    | .core => p / 4 == q / 4
    | _ => dieOfCore (p / 4) == dieOfCore (q / 4)) ||
    ((s.stream q).fresh && s.homeData line != l.data)

/-- The invalidations of an acquire by stream `q` (R227, R229, R239). -/
def acquireAt (s : State) (q : Nat) (scope : Scope) (ranges : Option (List (Nat × Nat))) : State :=
  let c := q / 4
  let x := ((s.ownerOf c).map (·.1)).getD 0
  let gone (drops : Bool) (line : Nat) (l : Line) : Bool := (drops || s.outdated q scope line l) && lineHit s ranges x line l
  let k := s.core c
  let t := { s.setCore c { k with l1d := k.l1d.filter fun e => !gone (dropsL1 scope) e.1 e.2 } with
    net := s.net.filter fun m => match m with
      | .readData j ctx va line _ data _ => !(j == c && gone (dropsL1 scope) line ⟨ctx, va, data, 0, []⟩)
      | _ => true }
  let d := t.die (dieOfCore c)
  t.setDie (dieOfCore c) { d with guest := d.guest.filter fun e => !gone (dropsGuests scope) e.1 e.2 }

/-- What the words behind a ranged acquire of the running stream have read ahead in its ranges they read again; an unranged one
has all of them do so (R272). A mask of 0 orders nothing (R284). -/
def orderAhead (s : State) (ranged : Bool) (mask : BitVec 8) : State :=
  if ranged then
    let on (k : Nat) : RangeSlot := s.me.n.toList.getD k default
    let inSlot (a : ReadAhead) (k : Nat) : Bool := mask.getLsbD k && (on k).bound &&
      (if isLocalPlace a.place then (on k).space && overlaps (0, (a.place - 2 ^ 48) % 2 ^ 20, a.data.length)
          (0, (on k).base.toNat, (on k).length.toNat)
        else !(on k).space && s.mapsInto s.myCtxId (a.place / 128 * 128) (on k).base.toNat (on k).length.toNat)
    { s with ahead := s.ahead.filter fun a => !(a.stream == s.cur && (List.range 8).any (inSlot a)) }
  else s.forgetAhead s.cur

/-- The ranges of the running stream's acquire: none for an unranged one. -/
def acquireRanges (s : State) (ranged : Bool) (mask : BitVec 8) : Option (List (Nat × Nat)) :=
  if ranged then some (s.me.globalRanges mask) else none

/-- An acquire word of the running stream (R272, R277). -/
def acquireWord (s : State) (scope : Scope) (ranged : Bool) (mask : BitVec 8) : State :=
  let ranges := s.acquireRanges ranged mask
  let t := (s.acquireAt s.cur scope ranges).orderAhead ranged mask
  if dropsGuests scope && ranges != some [] then t.setMe { t.me with fresh := true } else t

/-- The L1I lines that a fence invalidates, whatever its scope (R54, R284). -/
def acquireFetch (s : State) (c : Nat) (ranges : Option (List (Nat × Nat))) : State :=
  let x := ((s.ownerOf c).map (·.1)).getD 0
  let k := s.core c
  s.setCore c { k with l1i := k.l1i.filter fun e => !lineHit s ranges x e.1 e.2 }

/-- What a release of the running stream waits for (R284). -/
def releaseOf (s : State) (ranged : Bool) (mask : BitVec 8) : ReleaseOf :=
  if ranged then .slots (s.me.maskSlots mask) else .all

/-- The number of queue entries up to the last that one of the bindings tracks. -/
def lastTracked (l : List StoreEntry) (slots : List (Nat × Nat)) : Nat :=
  ((l.zipIdx.filter fun e => e.1.counted.any slots.contains).map fun e => e.2 + 1).foldl max 0

/-- The older stores that a release waits for perform. -/
def settleOlder (s : State) : ReleaseOf → State × Bool
  | .no => (s, true)
  | .all => s.drainAll
  | .slots l => s.performMany s.cur (lastTracked s.me.storeQ l)

/-- A word goes on once every older access that it waits for has performed; it holds until then. -/
def afterOlder (s : State) (r : ReleaseOf) (body : State → Effect) : Effect :=
  s.goOn .retry (s.settleOlder r) fun t =>
    if t.releaseReady t.cur t.me.seqNext r then body t else .keep t.holdWord

/-- As `afterOlder` for every older access other than a copy (R304, R305). -/
def afterOlderButCopies (s : State) (body : State → Effect) : Effect :=
  s.goOn .older s.drainAll fun t => if (t.steCommands t.cur).isEmpty then body t else .keep (t.holdFor .older)

/-- The acquire half of a fence. -/
def fenceAcquire (s : State) (scope : Scope) (ranged : Bool) (mask : BitVec 8) : State :=
  (s.acquireWord scope ranged mask).acquireFetch s.myCore (s.acquireRanges ranged mask)

end State

/-- `FENCE.ACQ` (R284). -/
def execFenceAcq (g : BitVec 3) (r : BitVec 1) (m : BitVec 8) (sc : Scope) (s : State) : Out :=
  s.brick g fun s =>
    .done (s.fenceAcquire sc (r == 1#1) m)

/-- `FENCE.REL` (R284). -/
def execFenceRel (g : BitVec 3) (r : BitVec 1) (m : BitVec 8) (sc : Scope) (s : State) : Out :=
  s.brick g fun s => s.afterOlder (releaseAt sc (s.releaseOf (r == 1#1) m)) fun t => .done t

/-- `FENCE.AR` (R284). -/
def execFenceAr (g : BitVec 3) (r : BitVec 1) (m : BitVec 8) (sc : Scope) (s : State) : Out :=
  s.brick g fun s =>
    s.afterOlder (releaseAt sc (s.releaseOf (r == 1#1) m)) fun t => .done (t.fenceAcquire sc (r == 1#1) m)

end Sys2Proof.Machine
end

