-- ==== Sys2Proof/Machine/Handles.lean ====
section
/-! DEFINITION. Handles: fields, validity, element addresses, bounds policy (R119 to R122) and bounding ranges (R396). -/

namespace Sys2Proof.Machine

/-- The element formats of R120. -/
inductive ElemFmt where
  | int8 | nat8 | int16 | nat16 | int32 | nat32 | fp32 | fp16
  | bf16 | e4m3 | e5m2 | tc8 | f4 | p6 | w36 | int64
  deriving DecidableEq, Repr

def ElemFmt.ofCode : Nat → Option ElemFmt
  | 0 => some .int8 | 1 => some .nat8 | 2 => some .int16 | 3 => some .nat16
  | 4 => some .int32 | 5 => some .nat32 | 6 => some .fp32 | 7 => some .fp16
  | 8 => some .bf16 | 9 => some .e4m3 | 10 => some .e5m2 | 11 => some .tc8
  | 12 => some .f4 | 13 => some .p6 | 14 => some .w36 | 15 => some .int64
  | _ => none

/-- Bits of one element as it is held, without packing (R120, R121). -/
def ElemFmt.width : ElemFmt → Nat
  | .int8 | .nat8 | .e4m3 | .e5m2 | .tc8 => 8
  | .int16 | .nat16 | .fp16 | .bf16 => 16
  | .int32 | .nat32 | .fp32 => 32
  | .f4 => 4
  | .p6 => 6
  | .w36 | .int64 => 64

/-- Bytes of one element of a format that is neither F4 nor P6. -/
def ElemFmt.bytes (f : ElemFmt) : Nat := f.width / 8

abbrev Handle := BitVec 2048

namespace Handle
def addr (h : Handle) : Nat := field h 0 48
def space (h : Handle) : Bool := h.getLsbD 63
def fmtCode (h : Handle) : Nat := field h 64 5
def fmt (h : Handle) : Option ElemFmt := ElemFmt.ofCode h.fmtCode
def ndim (h : Handle) : Nat := field h 72 5
def bounds (h : Handle) : Nat := field h 80 2
def kb (h : Handle) : Nat := field h 82 2
def pad (h : Handle) : Nat := field h 128 64
def sbase (h : Handle) : Nat := field h 192 64
def sorigin (h : Handle) : Nat := field h 256 64
def extent (h : Handle) (k : Nat) : Nat := field h (512 + 32 * k) 32
def stride (h : Handle) (k : Nat) : Int := (h.extractLsb' (1024 + 64 * k) 64).toInt

/-- The extents, dimension by dimension (R119). -/
def extents (h : Handle) : List Nat := (List.range h.ndim).map h.extent

/-- The reserved bits of R119: an image keeps only its listed fields (R8). -/
def clean (img : Handle) : Handle :=
  img.extractLsb' 512 1536 ++ (0 : BitVec 192) ++ img.extractLsb' 128 192 ++ (0 : BitVec 44) ++
    img.extractLsb' 80 4 ++ (0 : BitVec 3) ++ img.extractLsb' 72 5 ++ (0 : BitVec 3) ++ img.extractLsb' 63 6 ++
    (0 : BitVec 15) ++ img.extractLsb' 0 48

/-- A nonnegative multiple of `k`. -/
def multipleOf (x : Int) (k : Nat) : Bool := decide (0 ≤ x) && x % k == 0

/-- R121, for an image that is not empty. -/
def validFor (h : Handle) (f : ElemFmt) : Bool :=
  let strides := (List.range 16).map h.stride
  decide (1 ≤ h.ndim) && decide (h.ndim ≤ 16) && decide (h.bounds ≤ 2) &&
  ((List.range 16).all fun k =>
    if k < h.ndim then h.extent k != 0 else h.extent k == 0 && h.stride k == 0) &&
  h.stride 0 == 0 &&
  decide (h.pad < 2 ^ f.width) &&
  (!h.space || decide (h.addr < 2 ^ 20)) &&
  match f with
  | .f4 => strides.all (fun x => x % 16 == 0) && multipleOf ((h.addr : Int) - h.sorigin) 16
  | .p6 => h.addr % 16 == 0 && strides.all (fun x => x % 16 == 0)
  | _ => h.addr % f.bytes == 0 && strides.all (fun x => x % f.bytes == 0)

/-- Valid (R121). The empty handle is not. -/
def valid (h : Handle) : Bool :=
  match h.fmt with
  | none => false
  | some f => h.validFor f

/-- The empty handle (R121). -/
def isEmpty (h : Handle) : Bool := h.ndim == 0

/-- `sum over k = 1 .. of c[k] · stride[k]`, over the coordinates after the first, from dimension `k` on. -/
def strideSum (h : Handle) : Nat → List Int → Int
  | _, [] => 0
  | k, c :: l => c * h.stride k + h.strideSum (k + 1) l

/-- `elem_addr` (R122). -/
def elemAddr (h : Handle) (c : List Int) : Int :=
  let c0 := c.headD 0
  let off := h.strideSum 1 c.tail
  match h.fmt with
  | some .f4 => h.addr + c0 / 2 + off
  | some .p6 => h.addr + 16 * (c0 / 21) + off
  | some f => h.addr + c0 * f.bytes + off
  | none => h.addr + off

/-- Where an access of an element lands (R122). -/
inductive Where where
  /-- The element at the coordinates, which the clamp may have moved; its first byte's address. -/
  | elem (c : List Int) (a : Int)
  | pad
  | fault (a : Int)
  deriving DecidableEq, Repr

/-- `access` (R122). -/
def access (h : Handle) (c : List Int) : Where :=
  let ok := (c.zip h.extents).all fun e => decide (0 ≤ e.1) && decide (e.1 < e.2)
  if ok then .elem c (h.elemAddr c)
  else if h.bounds = 1 then .pad
  else if h.bounds = 2 then
    let c' := (c.zip h.extents).map fun e => max 0 (min e.1 ((e.2 : Int) - 1))
    .elem c' (h.elemAddr c')
  else .fault (h.elemAddr c)

/-- The address of the scale code of the F4 block whose first byte is at `a` (R122). -/
def scaleAddr (h : Handle) (a : Int) : Int := h.sbase + (a - h.sorigin) / 16

/-- The bytes of dimension 0 (R396). -/
def span0 (h : Handle) : Nat :=
  match h.fmt with
  | some .f4 => (h.extent 0 + 1) / 2
  | some .p6 => 16 * ((h.extent 0 + 20) / 21)
  | some f => h.extent 0 * f.bytes
  | none => 0

/-- The bounding range of R396: its first byte and the byte after it. -/
def bounding (h : Handle) : Int × Int :=
  let reach := (List.range h.ndim).drop 1 |>.map fun k => ((h.extent k : Int) - 1) * h.stride k
  (h.addr + (reach.map (min 0)).foldl (· + ·) 0, h.addr + h.span0 + (reach.map (max 0)).foldl (· + ·) 0)

/-- The limit of the handle's space. -/
def limit (h : Handle) : Nat := if h.space then 2 ^ 20 else 2 ^ 48

end Handle

end Sys2Proof.Machine
end

