-- ==== Sys2Proof/Machine/HandleOps.lean ====
section
/-! DEFINITION. Handle and extension registers and their instructions (R119 to R127), and the checks of accesses that
name their space. -/

namespace Sys2Proof.Machine

namespace State

/-- A trap whose `SYS.EADDR` the spec leaves open. -/
def trapOpen (s : State) (c : Cause) : Effect :=
  let (t, k) := s.freshFree
  .keep (t.raise c (Config.formatAddr k))

/-- The checks of an access that names its space, within one page (R222). -/
def checkSpace (s : State) (isLocal : Bool) (ea : Word) (acc : Acc) (via : Via := .l2) : Checked Nat :=
  if isLocal then s.checkLocal ea ea.toNat
  else if neverFetched ea then .no (.trap .page ea)
  else s.checkGlobal ea acc false (some via)

/-- The range of an access that names its space. -/
def spaceRange (s : State) (isLocal : Bool) (ea : Word) (n : Nat) : Nat × Nat × Nat :=
  ((if isLocal then 1 + s.myCore else 0), ea.toNat, n)

/-- H[k]. -/
def handle (s : State) (k : BitVec 4) : Handle := s.me.h[k.toNat]
def setHandle (s : State) (k : BitVec 4) (h : Handle) : State := s.setMe { s.me with h := s.me.h.set k.toNat h }

/-- `HLD`, `HLD.L` (R124). -/
def handleLoad (isLocal : Bool) (d : BitVec 4) (ea : Word) (s : State) : Effect :=
  if ea.extractLsb' 0 8 ≠ 0#8 then .trap .align ea
  else match s.checkSpace isLocal ea .load with
    | .no e => e
    | .ok place =>
      let pieces := [(ea.toNat, place, 128), (ea.toNat + 128, place + 128, 128)]
      s.reading [s.spaceRange isLocal ea 256] .l2 pieces fun s =>
        match s.readPieces s.myCore s.myCtxId .l2 pieces with
        | (t, .error k) => t.stopAt k
        | (t, .ok l) =>
          let h := Handle.clean (BitVec.ofNat 2048 (leNat l))
          if h.valid then .done (t.setHandle d h) else t.trapOpen .format

/-- `HST`, `HST.L` (R124). -/
def handleStore (isLocal : Bool) (a : BitVec 4) (ea : Word) (s : State) : Effect :=
  if ea.extractLsb' 0 8 ≠ 0#8 then .trap .align ea
  else match s.checkSpace isLocal ea .store with
    | .no e => e
    | .ok place =>
      s.enqueue .wide (placed place (leBytes 256 (Handle.clean (s.handle a)).toNat)) ea [s.spaceRange isLocal ea 256] .no

end State

/-- `HLD` (R124). -/
def execHld (g : BitVec 3) (d : BitVec 4) (sc : BitVec 5) (s : State) : Out :=
  s.brick g fun s => s.handleLoad false d (s.readS sc)

/-- `HLD.L` (R124). -/
def execHldL (g : BitVec 3) (d : BitVec 4) (sc : BitVec 5) (s : State) : Out :=
  s.brick g fun s => s.handleLoad true d (s.readS sc)

/-- `HST` (R124). -/
def execHst (g : BitVec 3) (a : BitVec 4) (sc : BitVec 5) (s : State) : Out :=
  s.brick g fun s => s.handleStore false a (s.readS sc)

/-- `HST.L` (R124). -/
def execHstL (g : BitVec 3) (a : BitVec 4) (sc : BitVec 5) (s : State) : Out :=
  s.brick g fun s => s.handleStore true a (s.readS sc)

/-- A handle with extent and stride of dimension `k` replaced. -/
def Handle.setDim (h : Handle) (k : Nat) (extent : BitVec 32) (stride : Word) : Handle :=
  setField (setField h (512 + 32 * k) 32 extent.toNat) (1024 + 64 * k) 64 stride.toNat

/-- `HSETD` (R124). -/
def execHsetd (g : BitVec 3) (d k : BitVec 4) (sc : BitVec 5) (x : BitVec 3) (s : State) : Out :=
  s.brick g fun s =>
    let h := s.handle d
    if h.ndim ≤ k.toNat then s.trapOpen .format
    else
      let h' := h.setDim k.toNat (low32 (s.readS sc)) (s.me.x[x.toNat])
      if h'.valid then .done (s.setHandle d h') else s.trapOpen .format

/-- The step in bytes of `n` elements along dimension `k`, or none where dimension 0 of a packed format is cut inside
a block (R124). -/
def Handle.stepBytes (h : Handle) (k : Nat) (n : Int) : Option Int :=
  if 1 ≤ k then some (n * h.stride k)
  else match h.fmt with
    | some .f4 => if n % 32 = 0 then some (16 * (n / 32)) else none
    | some .p6 => if n % 21 = 0 then some (16 * (n / 21)) else none
    | some f => some (n * f.bytes)
    | none => none

/-- `HOFF` (R124). -/
def execHoff (g : BitVec 3) (d k : BitVec 4) (sc : BitVec 5) (s : State) : Out :=
  s.brick g fun s =>
    let h := s.handle d
    if h.ndim ≤ k.toNat then s.trapOpen .format
    else match h.stepBytes k.toNat (s.readS sc).toInt with
      | none => s.trapOpen .format
      | some step =>
        let a : Int := h.addr + step
        if a < 0 ∨ (h.limit : Int) ≤ a then s.trapOpen .format
        else .done (s.setHandle d (setField h 0 48 a.toNat))

/-- `XSET` (R127). -/
def execXset (g d : BitVec 3) (a : BitVec 5) (s : State) : Out :=
  s.brick g fun s => .done (s.setMe { s.me with x := s.me.x.set d.toNat (s.readS a) })

/-- `XGET` (R127). -/
def execXget (g : BitVec 3) (d : BitVec 5) (a : BitVec 3) (s : State) : Out :=
  s.setS g d fun s => s.me.x[a.toNat]

end Sys2Proof.Machine
end

