-- ==== Sys2Proof/Machine/Pages.lean ====
section
/-! DEFINITION. Pins and page locks of the scratchpad (R252, R253, R366), and line locks (R251, R370). -/

namespace Sys2Proof.Machine

namespace State

/-- The checks of a local address of major 0x2F (R247). -/
def localPage (s : State) (ea : Word) : Checked Nat :=
  if s.localBacked s.myCore ea.toNat then .ok (ea.toNat / 4096) else .no (.trap .page ea)

def pinnedCount (s : State) (c : Nat) : Nat := ((s.core c).pages.filter fun e => e.2.pinned).length

/-- Whether the running stream holds a page, and whether it holds any (R253). -/
def holds (s : State) (p : Nat) : Bool :=
  (s.page s.myCore p).locked && (s.page s.myCore p).holder == BitVec.ofNat 2 (s.cur % 4)
def holdsAny (s : State) : Bool :=
  (s.core s.myCore).pages.any fun e => e.2.locked && e.2.holder == BitVec.ofNat 2 (s.cur % 4)

end State

/-- `PIN.L` (R252). -/
def execPinL (g : BitVec 3) (d : BitVec 3) (a : BitVec 5) (s : State) : Out :=
  s.brick g fun s => match s.localPage (s.readS a) with
    | .no e => e
    | .ok p =>
      if (s.page s.myCore p).pinned then .done (s.writeP d true)
      else if s.pinnedCount s.myCore < Config.pinLimit then
        let t := s.refill s.myCore p
        .done ((t.setPage s.myCore p { t.page s.myCore p with pinned := true }).writeP d true)
      else .done (s.writeP d false)

/-- `UNPIN.L` (R252). -/
def execUnpinL (g : BitVec 3) (a : BitVec 5) (s : State) : Out :=
  s.brick g fun s => match s.localPage (s.readS a) with
    | .no e => e
    | .ok p =>
      let x := s.page s.myCore p
      .done (if x.pinned then s.setPage s.myCore p { x with pinned := false } else s)

/-- `PLOCK.L` (R253). -/
def execPlockL (g : BitVec 3) (d : BitVec 3) (a : BitVec 5) (s : State) : Out :=
  s.brick g fun s => match s.localPage (s.readS a) with
    | .no e => e
    | .ok p =>
      let x := s.page s.myCore p
      if s.holds p then .done (s.writeP d true)
      else if x.locked || s.holdsAny then .done (s.writeP d false)
      else
        let y := { x with locked := true, holder := BitVec.ofNat 2 (s.cur % 4) }
        .done ((s.setPage s.myCore p y).writeP d true)

/-- The range of a local page, and the local side of a copy. -/
def pageRange (c p : Nat) : Nat × Nat × Nat := (1 + c, 4096 * p, 4096)
def CopyRec.localRange (r : CopyRec) (c : Nat) : Nat × Nat × Nat :=
  let b := Handle.bounding (if r.toLocal then r.dst else r.src)
  (1 + c, b.1.toNat, (b.2 - b.1).toNat)

/-- `PUNLOCK.L` (R253). -/
def execPunlockL (g : BitVec 3) (a : BitVec 5) (s : State) : Out :=
  s.brick g fun s => match s.localPage (s.readS a) with
    | .no e => e
    | .ok p =>
      if s.holds p then
        s.goOn .retry (s.drainOver [pageRange s.myCore p]) fun t =>
          if (t.liveCopies t.cur).any fun r => overlaps (r.localRange t.myCore) (pageRange t.myCore p) then
            .keep t.holdWord
          else .done (t.setPage t.myCore p { t.page t.myCore p with locked := false })
      else .done s

/-! ## Line locks (R251) -/

namespace State

/-- The place of the byte at a global address of any page, readable (R247). -/
def checkLine (s : State) (ea : Word) : Checked Nat :=
  if ea.extractLsb' 48 16 = 0xFFFF#16 then .no (.trap .prot ea)
  else if neverFetched ea then .no (.trap .page ea)
  else if !s.walkReaches s.myCore s.myCtxId ea.toNat then
    let a := s.walkGap s.myCore s.myCtxId ea.toNat
    .no (s.linkHold (s.siteOf a) a)
  else match s.translate ea.toNat .load with
    | .ok place _ => if s.reachable .home place then .ok place else .no (s.linkHold (s.siteOf place) place)
    | x => .no (s.failed ea x)

/-- The lowest way of the context's mask on the home's die that is unlocked in the set of a line. -/
def lockableWay (s : State) (line : Nat) : Option Nat :=
  let mask := s.myCtx.way (s.homeDie line)
  let used := (s.locksOfSet line).map (·.way)
  (List.range 16).find? fun w => mask.getLsbD w && !used.contains w

/-- `LOCK` on a line: the new state and the predicate. -/
def lockLine (s : State) (line : Nat) : State × Bool :=
  if s.isLocked line then (s, true)
  else if Config.lockWays ≤ (s.locksOfSet line).length then (s, false)
  else match s.lockableWay line with
    | none => (s, false)
    | some w =>
      if (s.locks.filter fun k => k.ctx = some s.myCtxId).length < s.myCtx.resq then
        (s.lockInWay (some s.myCtxId) line w, true)
      else (s, false)

end State

/-- `LOCK` (R251). -/
def execLock (g : BitVec 3) (d : BitVec 3) (a : BitVec 5) (s : State) : Out :=
  s.brick g fun s => match s.checkLine (s.readS a) with
    | .no e => e
    | .ok place =>
      let r := (s.walkIn s.myCore s.myCtxId (s.readS a).toNat place).lockLine (place / 128 * 128)
      .done (r.1.writeP d r.2)

/-- `UNLOCK` (R251). -/
def execUnlock (g : BitVec 3) (a : BitVec 5) (s : State) : Out :=
  s.brick g fun s => match s.checkLine (s.readS a) with
    | .no e => e
    | .ok place =>
      .done { s.walkIn s.myCore s.myCtxId (s.readS a).toNat place with
        locks := s.locks.filter fun k => !(k.line == place / 128 * 128 && k.ctx == some s.myCtxId) }

end Sys2Proof.Machine
end

