-- ==== Sys2Proof/Machine/SyncOps.lean ====
section
/-! DEFINITION. Acquire loads, release stores, remote stores (R237 to R242), atomics and reductions (R243 to R245),
full/empty words (R247 to R250) and monitors (R254 to R258). -/

namespace Sys2Proof.Machine

/-- Bytes of the `.W` and `.D` forms. -/
def sizeOf' (z : BitVec 1) : Nat := if z = 0#1 then 4 else 8

/-- The range mask of `LDA` and `STL`: `X1`[7:0] (R238). -/
def State.rangeMask (s : State) : BitVec 8 := s.me.x[1].extractLsb' 0 8

/-- `LDA` (R239). -/
def execLda (g : BitVec 3) (d : BitVec 5) (a : BitVec 5) (r : BitVec 1) (sc : Scope) (z : BitVec 1) (s : State) : Out :=
  s.brick g fun s =>
    let ea := s.readS a
    let n := sizeOf' z
    match s.checkScalar ea { size := n, acc := .load, window := true } with
    | .no e => e
    | .ok place =>
      s.reading [s.rangeOf ea place n] .home [(field ea 0 48, place, n)] fun s =>
        match s.readAtHome s.cur place n with
        | (t, .error k) => t.stopAt k
        | (t, .ok l) => .done ((t.writeS d (extendBytes (z == 0#1) l)).acquireWord sc (r == 1#1) t.rangeMask)

/-- `STL` (R240). -/
def execStl (g : BitVec 3) (r : BitVec 1) (sc : Scope) (a : BitVec 5) (b : BitVec 5) (z : BitVec 1) (s : State) : Out :=
  s.brick g fun s =>
    let ea := s.readS a
    let n := sizeOf' z
    match s.checkScalar ea { size := n, acc := .store, window := true } with
    | .no e => e
    | .ok place =>
      let x := s.readS b
      s.enqueue .scalar (placed place (leBytes n x.toNat)) ea [s.rangeOf ea place n]
        (releaseAt sc (s.releaseOf (r == 1#1) s.rangeMask))

/-- `STR` (R241, R242). -/
def execStr (g : BitVec 3) (a : BitVec 5) (b : BitVec 5) (z : BitVec 2) (s : State) : Out :=
  s.brick g fun s =>
    let ra := s.readS a
    let n := 2 ^ z.toNat
    let o := field ra 0 20
    let x := s.myCtx
    if field ra 32 32 ≠ 0 ∨ field ra 20 4 ≠ 0 ∨ x.w ≤ field ra 24 4 ∨ x.h ≤ field ra 28 4 then .trap .prot ra
    else if o % n ≠ 0 then .trap .align ra
    else if !s.localBacked s.myCore o then .trap .page ra
    else
      let c := x.position (field ra 28 4 * x.w + field ra 24 4)
      let v := s.readS b
      s.enqueue .remote (placed (localPlace c o) (leBytes n v.toNat)) ra [(1 + c, o, n)] .no

/-! ## Atomics and reductions (R243 to R245) -/

namespace State

/-- The running stream blocks until the reply of a request returns (R19). -/
def blockFor (s : State) (w : Wait) : Effect := .keep (s.setMe { s.me with run := .blocked, wait := w })

/-- The running stream waits (R19). -/
def waitFor (s : State) (w : Wait) : Effect := .keep (s.setMe { s.me with run := .waiting, wait := w })

/-- An atomic or claim carried out at its home: at once on the stream's die, or through the agent (R245, R339). -/
def atomic (s : State) (d : BitVec 5) (op : AtomOp) : Effect :=
  if s.homeDie op.place = s.myDie then
    let r := s.atomAtHome s.cur op
    r.1.atomDone d op r.2
  else match s.sendAgent s.cur none d op with
    | none => .keep (s.holdFor .agentRoom)
    | some (t, n) => t.blockFor (.reply n.toNat)

/-- An `ATOM` form or `NEST.CLAIM` with its aux byte (R244, R402). -/
def atomForm (aux : BitVec 8) (d : BitVec 5) (ea x compare : Word) (s : State) : Effect :=
  let n := atomSize aux.toNat
  match s.checkScalar ea { size := n, acc := .both, via := none } with
  | .no e => e
  | .ok place => s.reading [s.rangeOf ea place n] .home [(ea.toNat, place, n)] fun s => s.atomic d ⟨aux, ea, place, x, compare⟩

/-- The aux byte of operation `op` in size `z` (R243). -/
def auxOf (op : Nat) (z : BitVec 1) : BitVec 8 := BitVec.ofNat 8 (2 * op + z.toNat)

/-- A `RED` form (R244): it completes when it is accepted. -/
def redForm (aux : BitVec 5) (ea x : Word) (s : State) : Effect :=
  let n := atomSize aux.toNat
  match s.checkScalar ea { size := n, acc := .both, via := none } with
  | .no e => e
  | .ok place => s.enqueue (.red aux x) (placed place (List.replicate n 0)) ea [s.rangeOf ea place n] .no

end State

/-- `ATOM.ADD` (R243, R244). -/
def execAtomAdd (g : BitVec 3) (d : BitVec 5) (a : BitVec 5) (b : BitVec 5) (z : BitVec 1) (s : State) : Out :=
  s.brick g fun s => s.atomForm (State.auxOf 0 z) d (s.readS a) (s.readS b) 0

/-- `ATOM.MIN` (R243, R244). -/
def execAtomMin (g : BitVec 3) (d : BitVec 5) (a : BitVec 5) (b : BitVec 5) (z : BitVec 1) (s : State) : Out :=
  s.brick g fun s => s.atomForm (State.auxOf 1 z) d (s.readS a) (s.readS b) 0

/-- `ATOM.MAX` (R243, R244). -/
def execAtomMax (g : BitVec 3) (d : BitVec 5) (a : BitVec 5) (b : BitVec 5) (z : BitVec 1) (s : State) : Out :=
  s.brick g fun s => s.atomForm (State.auxOf 2 z) d (s.readS a) (s.readS b) 0

/-- `ATOM.AND` (R243, R244). -/
def execAtomAnd (g : BitVec 3) (d : BitVec 5) (a : BitVec 5) (b : BitVec 5) (z : BitVec 1) (s : State) : Out :=
  s.brick g fun s => s.atomForm (State.auxOf 3 z) d (s.readS a) (s.readS b) 0

/-- `ATOM.OR` (R243, R244). -/
def execAtomOr (g : BitVec 3) (d : BitVec 5) (a : BitVec 5) (b : BitVec 5) (z : BitVec 1) (s : State) : Out :=
  s.brick g fun s => s.atomForm (State.auxOf 4 z) d (s.readS a) (s.readS b) 0

/-- `ATOM.XOR` (R243, R244). -/
def execAtomXor (g : BitVec 3) (d : BitVec 5) (a : BitVec 5) (b : BitVec 5) (z : BitVec 1) (s : State) : Out :=
  s.brick g fun s => s.atomForm (State.auxOf 5 z) d (s.readS a) (s.readS b) 0

/-- `ATOM.XCHG` (R243, R244). -/
def execAtomXchg (g : BitVec 3) (d : BitVec 5) (a : BitVec 5) (b : BitVec 5) (z : BitVec 1) (s : State) : Out :=
  s.brick g fun s => s.atomForm (State.auxOf 6 z) d (s.readS a) (s.readS b) 0

/-- `ATOM.CAS` (R243, R244). -/
def execAtomCas (g : BitVec 3) (d : BitVec 5) (a : BitVec 5) (b : BitVec 5) (z : BitVec 1) (s : State) : Out :=
  s.brick g fun s => s.atomForm (State.auxOf 7 z) d (s.readS a) (s.readS b) (s.readS d)

/-- `ATOM.FADD.F32` (R243, R244). -/
def execAtomFaddF32 (g : BitVec 3) (d : BitVec 5) (a : BitVec 5) (b : BitVec 5) (s : State) : Out :=
  s.brick g fun s => s.atomForm 16#8 d (s.readS a) (s.readS b) 0

/-- `RED.ADD.W` (R243, R244). -/
def execRedAddW (g : BitVec 3) (a : BitVec 5) (b : BitVec 5) (s : State) : Out :=
  s.brick g fun s => s.redForm 0#5 (s.readS a) (s.readS b)

/-- `RED.ADD.D` (R243, R244). -/
def execRedAddD (g : BitVec 3) (a : BitVec 5) (b : BitVec 5) (s : State) : Out :=
  s.brick g fun s => s.redForm 1#5 (s.readS a) (s.readS b)

/-- `RED.MIN.W` (R243, R244). -/
def execRedMinW (g : BitVec 3) (a : BitVec 5) (b : BitVec 5) (s : State) : Out :=
  s.brick g fun s => s.redForm 2#5 (s.readS a) (s.readS b)

/-- `RED.MIN.D` (R243, R244). -/
def execRedMinD (g : BitVec 3) (a : BitVec 5) (b : BitVec 5) (s : State) : Out :=
  s.brick g fun s => s.redForm 3#5 (s.readS a) (s.readS b)

/-- `RED.MAX.W` (R243, R244). -/
def execRedMaxW (g : BitVec 3) (a : BitVec 5) (b : BitVec 5) (s : State) : Out :=
  s.brick g fun s => s.redForm 4#5 (s.readS a) (s.readS b)

/-- `RED.MAX.D` (R243, R244). -/
def execRedMaxD (g : BitVec 3) (a : BitVec 5) (b : BitVec 5) (s : State) : Out :=
  s.brick g fun s => s.redForm 5#5 (s.readS a) (s.readS b)

/-- `RED.AND.W` (R243, R244). -/
def execRedAndW (g : BitVec 3) (a : BitVec 5) (b : BitVec 5) (s : State) : Out :=
  s.brick g fun s => s.redForm 6#5 (s.readS a) (s.readS b)

/-- `RED.AND.D` (R243, R244). -/
def execRedAndD (g : BitVec 3) (a : BitVec 5) (b : BitVec 5) (s : State) : Out :=
  s.brick g fun s => s.redForm 7#5 (s.readS a) (s.readS b)

/-- `RED.OR.W` (R243, R244). -/
def execRedOrW (g : BitVec 3) (a : BitVec 5) (b : BitVec 5) (s : State) : Out :=
  s.brick g fun s => s.redForm 8#5 (s.readS a) (s.readS b)

/-- `RED.OR.D` (R243, R244). -/
def execRedOrD (g : BitVec 3) (a : BitVec 5) (b : BitVec 5) (s : State) : Out :=
  s.brick g fun s => s.redForm 9#5 (s.readS a) (s.readS b)

/-- `RED.XOR.W` (R243, R244). -/
def execRedXorW (g : BitVec 3) (a : BitVec 5) (b : BitVec 5) (s : State) : Out :=
  s.brick g fun s => s.redForm 10#5 (s.readS a) (s.readS b)

/-- `RED.XOR.D` (R243, R244). -/
def execRedXorD (g : BitVec 3) (a : BitVec 5) (b : BitVec 5) (s : State) : Out :=
  s.brick g fun s => s.redForm 11#5 (s.readS a) (s.readS b)

/-- `RED.ADD.F32` (R243, R244). -/
def execRedAddF32 (g : BitVec 3) (a : BitVec 5) (b : BitVec 5) (s : State) : Out :=
  s.brick g fun s => s.redForm 16#5 (s.readS a) (s.readS b)

/-! ## Full/empty words (R247 to R250) -/

namespace State

/-- `LDFE` (`take`) and `LDFF` (R249). A request behind queued requests of its word waits its turn. -/
def fullLoad (take : Bool) (d : BitVec 5) (ea : Word) (s : State) : Effect :=
  match s.checkScalar ea { size := 8, acc := if take then .both else .load, fe := true } with
  | .no e => e
  | .ok place =>
    s.reading [s.rangeOf ea place 8] .home [(ea.toNat, place, 8)] fun s0 =>
      let s := s0.meetFull ea.toNat
      if s.isFull place && !(s.feQueue.any fun r => r.place = place) then
        match s.takeFull s.cur place take with
        | (t, .error k) => t.stopAt k
        | (t, .ok v) => .done (t.writeS d v)
      else
        let limit := if s.me.fewait = 0 then none else some (s.now s.myDie + s.me.fewait.toNat)
        { s with feQueue := s.feQueue ++ [FeReq.mk place s.cur take] }.waitFor (.fe d take ea place limit)

/-- `STFL` and `FECLR` (R249). -/
def fullStore (kind : StoreKind) (ea x : Word) (s : State) : Effect :=
  match s.checkScalar ea { size := 8, acc := .store, fe := true } with
  | .no e => e
  | .ok place => (s.meetFull ea.toNat).enqueue kind (placed place (leBytes 8 x.toNat)) ea [s.rangeOf ea place 8] .no

end State

/-- `LDFE` (R249). -/
def execLdfe (g : BitVec 3) (d : BitVec 5) (a : BitVec 5) (s : State) : Out :=
  s.brick g fun s => s.fullLoad true d (s.readS a)

/-- `LDFF` (R249). -/
def execLdff (g : BitVec 3) (d : BitVec 5) (a : BitVec 5) (s : State) : Out :=
  s.brick g fun s => s.fullLoad false d (s.readS a)

/-- `STFL` (R249). -/
def execStfl (g : BitVec 3) (a : BitVec 5) (b : BitVec 5) (s : State) : Out :=
  s.brick g fun s => s.fullStore (.stfl (s.readS b)) (s.readS a) (s.readS b)

/-- `FECLR` (R249). -/
def execFeclr (g : BitVec 3) (a : BitVec 5) (s : State) : Out :=
  s.brick g fun s => s.fullStore .feclr (s.readS a) 0

/-! ## Monitors (R254 to R258) -/

namespace State

/-- The arm of register `k` of a stream withdrawn from its slice. -/
def dropMonitor (s : State) (q k : Nat) : State :=
  { s with monEntries := s.monEntries.filter fun e => !(e.stream == q && e.reg == k) }

def setMon (s : State) (k : BitVec 2) (x : MonReg) : State := s.setMe { s.me with m := s.me.m.set k.toNat x }

/-- The fired bits of the running stream, as the mask of a wake. -/
def firedMask (s : State) : Nat :=
  (List.range 4).foldl (fun n k => n + (if (s.me.m.toList.getD k {}).fired then 2 ^ k else 0)) 0

/-- `wake(reason)`, with the reported bits cleared (R258). -/
def monWake (s : State) (d : BitVec 5) (reason : Nat) : Effect :=
  let t := s.setMe { s.me with m := s.me.m.map fun r => { r with fired := false } }
  .done (t.writeS d (BitVec.ofNat 64 (256 * reason + s.firedMask)))

end State

/-- `MON.ARM` (R256). -/
def execMonArm (g : BitVec 3) (a : BitVec 5) (k : BitVec 2) (s : State) : Out :=
  s.brick g fun s =>
    let ea := s.readS a
    match s.checkScalar ea { size := 1, acc := .load } with
    | .no e => e
    | .ok place =>
      let t := (s.walkIn s.myCore s.myCtxId ea.toNat place).dropMonitor s.cur k.toNat
      .done ({ t with monEntries := t.monEntries ++ [MonEntry.mk (place / 128 * 128) s.cur k.toNat] }.setMon k
        ⟨ea.extractLsb' 7 41, false, true⟩)

/-- `MON.DISARM` (R256). -/
def execMonDisarm (g : BitVec 3) (k : BitVec 2) (s : State) : Out :=
  s.brick g fun s =>
    .done ((s.dropMonitor s.cur k.toNat).setMon k { s.me.m[k.toNat] with fired := false, armed := false })

/-- `MON.WAIT` (R258). -/
def execMonWait (g : BitVec 3) (d : BitVec 5) (a : BitVec 5) (s : State) : Out :=
  s.brick g fun s =>
    if !(s.me.m.toList.any fun r => r.armed) then .done (s.writeS d 0)
    else if s.firedMask ≠ 0 then s.monWake d 1
    else
      let n := field (s.readS a) 0 32
      s.waitFor (.mon d (if n = 0 then none else some (s.now s.myDie + n)))

end Sys2Proof.Machine
end

