-- ==== Sys2Proof/Machine/Barrier.lean ====
section
/-! DEFINITION. Groups and barriers (R312 to R317). -/

namespace Sys2Proof.Machine

/-- Phase `q` is completed when the group is in phase `p` (R316). -/
def phaseDone (p q : BitVec 32) : Bool :=
  let d := (p - q).toNat
  decide (1 ≤ d) && decide (d < 2 ^ 31)

namespace State

/-- Whether the present phase of a group has an error so far (R315). -/
def phaseErr (s : State) (c : Nat) (g : BitVec 8) (x : Group) : Bool :=
  s.groupErrs.contains ((s.ctx c).owner, g, x.phase)

/-- The message of a phase's completion to a member that waits for it. -/
def tellMember (s : State) (c : Nat) (g : BitVec 8) (q : BitVec 32) (err : Bool) (x : Group) (i : Nat) : State :=
  if x.members.getLsbD i then
    let m := s.memberStream c i
    let waits := match (s.stream m).wait with
      | .bar _ h w _ => h == g && w == q
      | .barWait _ h w => h == g && w == q
      | .barArr _ h w => h == g && w == q
      | _ => false
    if waits then s.post (.barDone m g q err x.home) else s
  else s

/-- The test of R315: a phase completes when every member has arrived and no bound copy of it is undelivered. -/
def testPhase (s : State) (c : Nat) (g : BitVec 8) : State :=
  let x := s.group c g
  if x.size ≠ 0 ∧ x.arrivals = x.size ∧ x.copies0 = 0 then
    let err := s.phaseErr c g x
    let s1 := s.setGroup c g { x with
      phase := x.phase + 1, arrivals := 0, arrived := 0, err := err, copies0 := x.copies1, copies1 := 0 }
    let s2 := { s1 with groupErrs := s1.groupErrs.filter fun e => e ≠ ((s.ctx c).owner, g, x.phase) }
    (List.range (4 * (s.ctx c).cores)).foldl (fun t i => t.tellMember c g x.phase err x i) s2
  else s

/-- Member `i` arrives in the present phase. -/
def arrive (s : State) (c : Nat) (g : BitVec 8) (i : Nat) : State :=
  let x := s.group c g
  (s.setGroup c g { x with arrivals := x.arrivals + 1, arrived := setField x.arrived i 1 1 }).testPhase c g

/-- An arrival that an event withdraws (R318). -/
def withdrawArrival (s : State) (c : Nat) (g : BitVec 8) (i : Nat) : State :=
  let x := s.group c g
  if x.arrived.getLsbD i then
    s.setGroup c g { x with arrivals := x.arrivals - 1, arrived := setField x.arrived i 1 0 }
  else s

/-- A bound copy binds to the phase in which its stream's next arrival will count (R315). -/
def bindCopy (s : State) (c : Nat) (g : BitVec 8) (i : Nat) : State × Binding :=
  let x := s.group c g
  if x.arrived.getLsbD i then (s.setGroup c g { x with copies1 := x.copies1 + 1 }, ⟨g, x.phase + 1⟩)
  else (s.setGroup c g { x with copies0 := x.copies0 + 1 }, ⟨g, x.phase⟩)

/-- The delivery of a bound copy (R264, R266). -/
def deliverArrival (s : State) (c : Nat) (b : Binding) (err : Bool) : State :=
  let x := s.group c b.group
  let y := if b.phase = x.phase then { x with copies0 := x.copies0 - 1 } else { x with copies1 := x.copies1 - 1 }
  let s1 := s.setGroup c b.group y
  let s2 := if err then { s1 with groupErrs := ((s.ctx c).owner, b.group, b.phase) :: s1.groupErrs } else s1
  if x.size = 0 then s else s2.testPhase c b.group

/-- Whether the running stream is a member of a group. -/
def isMember (s : State) (g : BitVec 8) : Bool := s.me.groups.any fun m => m.group == g

def myMember (s : State) : Nat := s.memberIndex s.cur

/-- A word on a group acts at the group's home (R312, R314, R316). -/
def atGroup (s : State) (g : BitVec 8) (body : State → Effect) : Effect :=
  let x := s.group s.myCtxId g
  if x.size = 0 then body s else s.asking (.group x.home) (body s)

/-- Joining group `g` (R314). -/
def join (s : State) (g : BitVec 8) (x : Group) (t : Bool) : State :=
  let i := s.myMember
  let s1 := s.setGroup s.myCtxId g { x with
    members := setField x.members i 1 1, tflags := setField x.tflags i 1 t.toNat }
  s1.setMe { s1.me with groups := s1.me.groups ++ [⟨g, t⟩] }

/-- Whether a bound copy of the group that stream `q` issued is not yet delivered. -/
def undelivered (s : State) (q : Nat) (g : BitVec 8) : Bool :=
  (s.core (q / 4)).copies.any fun e => e.2.stream == q % 4 && (e.2.binding.any fun b => b.group == g)

/-- A group that dissolves keeps no error of a phase that never completed: a later group of its ID begins afresh (R315). -/
def forgetErrors (s : State) (c : Nat) (g : BitVec 8) : State :=
  { s with groupErrs := s.groupErrs.filter fun e => !(e.1 == (s.ctx c).owner && e.2.1 == g) }

/-- Stream `q` of context `c` leaves a group that it belongs to (R314). -/
def leave (s : State) (c q : Nat) (g : BitVec 8) : State :=
  let i := s.memberIndex q
  let x := s.group c g
  let y := { x with
    size := x.size - 1
    arrivals := if x.arrived.getLsbD i then x.arrivals - 1 else x.arrivals
    arrived := setField x.arrived i 1 0
    members := setField x.members i 1 0
    tflags := setField x.tflags i 1 0 }
  let free := decide (y.size = 0) || (y.broken && decide (y.members = 0))
  let s1 := if free then (s.setGroup c g Group.free).forgetErrors c g else s.setGroup c g y
  let t := s1.stream q
  let s2 := s1.setStream q { t with groups := t.groups.filter fun m => m.group ≠ g }
  if free then s2 else s2.testPhase c g

end State

/-- The group ID of a group word (R312). -/
def groupId (w : Word) : BitVec 8 := w.extractLsb' 0 8

/-- `GJOIN` (R314). -/
def execGjoin (g : BitVec 3) (d : BitVec 3) (a : BitVec 5) (t : BitVec 1) (s : State) : Out :=
  s.brick g fun s =>
    let w := s.readS a
    let k := groupId w
    s.atGroup k fun s =>
    let x := s.group s.myCtxId k
    if s.isMember k then .done (s.writeP d true)
    else if decide (4 ≤ s.me.groups.length) || x.broken || (x.size != 0 && x.memberCount == x.size) then
      .done (s.writeP d false)
    else if x.size = 0 then
      let n := field w 16 11
      if n = 0 ∨ 1024 < n then .trap .format w
      else .done ((s.join k { Group.free with size := n, home := s.myDie } (t == 1#1)).writeP d true)
    else .done ((s.join k x (t == 1#1)).writeP d true)

/-- `GLEAVE` (R314). -/
def execGleave (g : BitVec 3) (a : BitVec 5) (s : State) : Out :=
  s.brick g fun s =>
    let k := groupId (s.readS a)
    s.atGroup k fun s =>
    if !s.isMember k then .done s
    else if s.undelivered s.cur k then .trap .format (k.setWidth 64)
    else .done (s.leave s.myCtxId s.cur k)

namespace State

/-- The end of `BAR` or `BAR.WAIT` on completion: an acquire at `.V`, and the error flag (R316, R317). -/
def barEnd (s : State) (p : BitVec 3) (err : Bool) : Effect :=
  .done (((s.acquireAt s.cur .device none).forgetAhead s.cur).writeP p err)

/-- The arrival of `BAR` in the present phase, and the wait for that phase (R316). -/
def barArrive (s : State) (p : BitVec 3) (g : BitVec 8) : Effect :=
  let q := (s.group s.myCtxId g).phase
  let t := s.arrive s.myCtxId g s.myMember
  let x := t.group s.myCtxId g
  if x.phase = q then t.waitFor (.bar p g q true) else t.barEnd p x.err

/-- The word that `BAR.ARR` writes. -/
def arrivalWord (q : BitVec 32) (g : BitVec 8) : Word := q ++ (0 : BitVec 24) ++ g

/-- The arrival of `BAR.ARR` in the present phase. -/
def barArrArrive (s : State) (d : BitVec 5) (g : BitVec 8) : Effect :=
  let q := (s.group s.myCtxId g).phase
  .done ((s.arrive s.myCtxId g s.myMember).writeS d (arrivalWord q g))

/-- The checks of `BAR` and `BAR.ARR`, and the release at `.V` of an arrival (R316, R317). -/
def barChecked (s : State) (g : BitVec 8) (body : State → Group → Effect) : Effect :=
  if !s.isMember g then .trap .format (g.setWidth 64)
  else s.atGroup g fun s =>
    let x := s.group s.myCtxId g
    if x.broken then .trap .groupBroken (g.setWidth 64)
    else s.afterOlder .all fun t => body t (t.group t.myCtxId g)

end State

/-- `BAR` (R316). -/
def execBar (g : BitVec 3) (d : BitVec 3) (a : BitVec 5) (s : State) : Out :=
  s.brick g fun s =>
    let k := groupId (s.readS a)
    s.barChecked k fun s x =>
      if x.arrived.getLsbD s.myMember then s.waitFor (.bar d k x.phase false) else s.barArrive d k

/-- `BAR.ARR` (R316). -/
def execBarArr (g : BitVec 3) (d : BitVec 5) (a : BitVec 5) (s : State) : Out :=
  s.brick g fun s =>
    let k := groupId (s.readS a)
    s.barChecked k fun s x =>
      if x.arrived.getLsbD s.myMember then s.waitFor (.barArr d k x.phase) else s.barArrArrive d k

/-- `BAR.WAIT` (R316). -/
def execBarWait (g : BitVec 3) (d : BitVec 3) (a : BitVec 5) (s : State) : Out :=
  s.brick g fun s =>
    let w := s.readS a
    let k := groupId w
    let q := w.extractLsb' 32 32
    if !s.isMember k then .trap .format (k.setWidth 64)
    else s.atGroup k fun s =>
    let x := s.group s.myCtxId k
    if phaseDone x.phase q then s.barEnd d (x.err && q == x.phase - 1)
    else if x.broken then .done (s.writeP d true)
    else s.waitFor (.barWait d k q)

namespace State

/-- A phase's completion reaches a waiting stream (R315, R316). -/
def barDone (s : State) (q : Nat) (g : BitVec 8) (phase : BitVec 32) (err : Bool) : State :=
  match (s.stream q).wait with
  | .bar p h w true => if h = g ∧ w = phase then s.completeFor q fun s => s.barEnd p err else s
  | .bar p h w false => if h = g ∧ w = phase then s.completeFor q fun s => s.barArrive p g else s
  | .barWait p h w => if h = g ∧ w = phase then s.completeFor q fun s => s.barEnd p err else s
  | .barArr d h w => if h = g ∧ w = phase then s.completeFor q fun s => s.barArrArrive d g else s
  | _ => s

/-- The release of a waiting member by a break (R216, R316). -/
def barReleased (s : State) (q : Nat) (g : BitVec 8) : State :=
  match (s.stream q).wait with
  | .bar p h _ _ => if h = g then s.completeFor q fun s => .done (s.writeP p true) else s
  | .barWait p h _ => if h = g then s.completeFor q fun s => .done (s.writeP p true) else s
  | .barArr _ h _ => if h = g then s.raiseAt q .groupBroken (s.stream q).pc (g.setWidth 64) else s
  | _ => s

end State

end Sys2Proof.Machine
end

