-- ==== Sys2Proof/WellFormed.lean ====
section
/-! DEFINITION. When an instruction is well formed: the range checks that decode makes (R49, step 3). -/

namespace Sys2Proof

/-- Whether software may write the register (R128, R409): the others are R at both levels. -/
def SysReg.writable : SysReg → Bool
  | .gen | .pitch | .mesh | .status | .trate | .txofs => false
  | .srseed | .nftrap | .fewait | .epc | .ecause | .eaddr | .trapbase | .bp _ | .tdead => true

/-- Whether operand A of the pair is TC8 (R189). -/
def TcPair.aIsTc8 : TcPair → Bool
  | .tc8 | .tc8E4m3 | .tc8E5m2 => true
  | .e4m3Tc8 | .e5m2Tc8 => false

/-- Whether operand B of the pair is TC8 (R189). -/
def TcPair.bIsTc8 : TcPair → Bool
  | .tc8 | .e4m3Tc8 | .e5m2Tc8 => true
  | .tc8E4m3 | .tc8E5m2 => false

/-- Elements of a row of a tile in the format (R174). -/
def TileFmt.elems : TileFmt → Nat
  | .e4m3 | .e5m2 | .tc8 => 64
  | .fp16 | .bf16 => 32
  | .fp32 => 16
  | .f4 => 128

/-- The field checks of `TCVT` (R184): source `s`, destination `f`, part `p`, codebook `k`. -/
def tcvtOk (s f : TileFmt) (p k : BitVec 2) : Bool :=
  f != s && f != .tc8 && !(f == .f4 && s == .fp32) && !(f == .fp32 && s == .f4) &&
  (s == .tc8 || k == 0#2) &&
  decide (p.toNat < Nat.max s.elems f.elems / Nat.min s.elems f.elems)


/-- The checks of decode that the fields of a word cannot express by their width: R49 step 3.
Steps that are no words have no encoding and no check. -/
def Instr.wf : Instr → Bool
  | .batMov _ _ => true
  | .batAdd _ _ => true
  | .batSub _ _ => true
  | .batAnd _ _ => true
  | .batOr _ _ => true
  | .batXor _ _ => true
  | .batShl _ _ => true
  | .batShr _ _ => true
  | .batSra _ _ => true
  | .batMul _ _ => true
  | .batLdD _ _ => true
  | .batStD _ _ => true
  | .batJr _ => true
  | .batB _ => true
  | .batCall _ => true
  | .imx _ _ => true
  | .movi _ _ _ => true
  | .addi _ _ _ => true
  | .andi _ _ _ => true
  | .ori _ _ _ => true
  | .xori _ _ _ => true
  | .shli _ i _ => BitVec.ult i 64#12
  | .shri _ i _ => BitVec.ult i 64#12
  | .srai _ i _ => BitVec.ult i 64#12
  | .muli _ _ _ => true
  | .movh _ _ _ => true
  | .ldB _ _ _ _ => true
  | .ldBu _ _ _ _ => true
  | .ldH _ _ _ _ => true
  | .ldHu _ _ _ _ => true
  | .ldW _ _ _ _ => true
  | .ldWu _ _ _ _ => true
  | .ldD _ _ _ _ => true
  | .ldxD _ _ _ _ => true
  | .stB _ _ _ _ => true
  | .stH _ _ _ _ => true
  | .stW _ _ _ _ => true
  | .stD _ _ _ _ => true
  | .pref _ _ _ _ => true
  | .add _ _ _ _ => true
  | .sub _ _ _ _ => true
  | .mul _ _ _ _ => true
  | .mulh _ _ _ _ => true
  | .mulhu _ _ _ _ => true
  | .mulhm _ _ _ _ => true
  | .div _ _ _ _ => true
  | .divu _ _ _ _ => true
  | .rem _ _ _ _ => true
  | .remu _ _ _ _ => true
  | .min _ _ _ _ => true
  | .minu _ _ _ _ => true
  | .max _ _ _ _ => true
  | .maxu _ _ _ _ => true
  | .adds _ _ _ _ => true
  | .subs _ _ _ _ => true
  | .addsu _ _ _ _ => true
  | .subsu _ _ _ _ => true
  | .abs _ _ _ => true
  | .neg _ _ _ => true
  | .and _ _ _ _ => true
  | .or _ _ _ _ => true
  | .xor _ _ _ _ => true
  | .andn _ _ _ _ => true
  | .orn _ _ _ _ => true
  | .xnor _ _ _ _ => true
  | .shl _ _ _ _ => true
  | .shr _ _ _ _ => true
  | .sra _ _ _ _ => true
  | .rol _ _ _ _ => true
  | .ror _ _ _ _ => true
  | .clz _ _ _ => true
  | .ctz _ _ _ => true
  | .popc _ _ _ => true
  | .brev _ _ _ => true
  | .bswap _ _ _ => true
  | .sxtB _ _ _ => true
  | .sxtH _ _ _ => true
  | .sxtW _ _ _ => true
  | .zxtB _ _ _ => true
  | .zxtH _ _ _ => true
  | .zxtW _ _ _ => true
  | .bfx _ _ _ _ => true
  | .bfxu _ _ _ _ => true
  | .bfi _ _ _ _ => true
  | .addW _ _ _ _ => true
  | .subW _ _ _ _ => true
  | .mulW _ _ _ _ => true
  | .divW _ _ _ _ => true
  | .divuW _ _ _ _ => true
  | .remW _ _ _ _ => true
  | .remuW _ _ _ _ => true
  | .shlW _ _ _ _ => true
  | .shrW _ _ _ _ => true
  | .sraW _ _ _ _ => true
  | .rdi _ _ _ => true
  | .rdlc _ _ _ => true
  | .wri _ _ _ => true
  | .wrlc _ _ _ => true
  | .rdlb _ _ _ => true
  | .wrlb _ _ _ => true
  | .rdp _ _ => true
  | .wrp _ _ => true
  | .rdpc _ _ => true
  | .madd _ _ _ _ => true
  | .msub _ _ _ _ => true
  | .shadd1 _ _ _ _ => true
  | .shadd2 _ _ _ _ => true
  | .shadd3 _ _ _ _ => true
  | .shadd4 _ _ _ _ => true
  | .cmp _ _ _ _ _ => true
  | .icmpi _ _ _ _ _ => true
  | .pand _ _ _ _ => true
  | .por _ _ _ _ => true
  | .pxor _ _ _ _ => true
  | .pandn _ _ _ _ => true
  | .porn _ _ _ _ => true
  | .pnand _ _ _ _ => true
  | .pnor _ _ _ _ => true
  | .pxnor _ _ _ _ => true
  | .sel _ _ _ _ _ => true
  | .cset _ _ _ => true
  | .selz _ _ _ _ => true
  | .fcmp _ _ _ _ _ => true
  | .fadd _ _ _ _ _ => true
  | .fsub _ _ _ _ _ => true
  | .fmul _ _ _ _ _ => true
  | .fdiv _ _ _ _ _ => true
  | .fma _ _ _ _ _ => true
  | .fms _ _ _ _ _ => true
  | .fsqrt _ _ _ _ => true
  | .fcvtIF _ _ _ _ => true
  | .fmin _ _ _ _ => true
  | .fmax _ _ _ _ => true
  | .fneg _ _ _ => true
  | .fabs _ _ _ => true
  | .fcpys _ _ _ _ => true
  | .fclass _ _ _ => true
  | .fcvtFI _ _ _ _ => true
  | .fcvtFU _ _ _ _ => true
  | .fcvtUF _ _ _ _ => true
  | .bL g _ n => !(g == 0#3 && n == 1#1)
  | .callL g _ n => !(g == 0#3 && n == 1#1)
  | .jrL g _ n => !(g == 0#3 && n == 1#1)
  | .callr g _ n => !(g == 0#3 && n == 1#1)
  | .loop _ _ l => l != 0#9
  | .lexit _ => true
  | .hld _ _ _ => true
  | .hldL _ _ _ => true
  | .hst _ _ _ => true
  | .hstL _ _ _ => true
  | .hsetd _ _ _ _ _ => true
  | .hoff _ _ _ _ => true
  | .xset _ _ _ => true
  | .xget _ _ _ => true
  | .sysr _ _ _ => true
  | .sysw _ r _ => r.writable
  | .sysx _ r _ => r.writable
  | .vaddF _ _ _ _ _ => true
  | .vsubF _ _ _ _ _ => true
  | .vmulF _ _ _ _ _ => true
  | .vdivF _ _ _ _ _ => true
  | .vminF _ _ _ _ => true
  | .vmaxF _ _ _ _ => true
  | .vfmaF _ _ _ _ _ => true
  | .vfmsF _ _ _ _ _ => true
  | .vsqrt _ _ _ _ => true
  | .vrcp _ _ _ _ => true
  | .vrsq _ _ _ _ => true
  | .vexp2 _ _ _ _ => true
  | .vlog2 _ _ _ _ => true
  | .vnegF _ _ _ => true
  | .vabsF _ _ _ => true
  | .vcpysF _ _ _ _ => true
  | .vclassF _ _ _ => true
  | .vrndF _ _ _ _ => true
  | .vaddI _ _ _ _ => true
  | .vsubI _ _ _ _ => true
  | .vmulI _ _ _ _ => true
  | .vmulhI _ _ _ _ => true
  | .vmulhU _ _ _ _ => true
  | .vminI _ _ _ _ => true
  | .vminU _ _ _ _ => true
  | .vmaxI _ _ _ _ => true
  | .vmaxU _ _ _ _ => true
  | .vaddsI _ _ _ _ => true
  | .vsubsI _ _ _ _ => true
  | .vaddsU _ _ _ _ => true
  | .vsubsU _ _ _ _ => true
  | .vabsI _ _ _ => true
  | .vnegI _ _ _ => true
  | .vmaddI _ _ _ _ => true
  | .vand _ _ _ _ => true
  | .vor _ _ _ _ => true
  | .vxor _ _ _ _ => true
  | .vandn _ _ _ _ => true
  | .vnot _ _ _ => true
  | .vshl _ _ _ _ => true
  | .vshr _ _ _ _ => true
  | .vsra _ _ _ _ => true
  | .vshli _ _ _ _ => true
  | .vshri _ _ _ _ => true
  | .vsrai _ _ _ _ => true
  | .vpopc _ _ _ => true
  | .vclz _ _ _ => true
  | .vfcmpEq _ _ _ _ => true
  | .vfcmpLt _ _ _ _ => true
  | .vfcmpLe _ _ _ _ => true
  | .vfcmpUn _ _ _ _ => true
  | .vfcmpNe _ _ _ _ => true
  | .vcmpEq _ _ _ _ => true
  | .vcmpNe _ _ _ _ => true
  | .vcmpLt _ _ _ _ => true
  | .vcmpLe _ _ _ _ => true
  | .vcmpLtu _ _ _ _ => true
  | .vcmpLeu _ _ _ _ => true
  | .vsel _ _ _ _ _ => true
  | .vany _ _ _ => true
  | .vall _ _ _ => true
  | .vcvtFI _ _ _ _ => true
  | .vcvtFU _ _ _ _ => true
  | .vcvtIF _ _ _ _ => true
  | .vcvtUF _ _ _ _ => true
  | .vpackF16 _ _ _ _ _ => true
  | .vpackBf16 _ _ _ _ _ => true
  | .vpackE4m3Lo _ _ _ _ _ => true
  | .vpackE4m3Hi _ _ _ _ _ => true
  | .vpackE5m2Lo _ _ _ _ _ => true
  | .vpackE5m2Hi _ _ _ _ _ => true
  | .vpackI16 _ _ _ _ => true
  | .vpackI8Lo _ _ _ _ => true
  | .vpackI8Hi _ _ _ _ => true
  | .vunpkF16 _ _ _ _ => true
  | .vunpkBf16 _ _ _ _ => true
  | .vunpkE4m3 _ _ _ _ => true
  | .vunpkE5m2 _ _ _ _ => true
  | .vunpkTc8 _ _ _ _ _ => true
  | .vunpkI16 _ _ _ _ => true
  | .vunpkI8 _ _ _ _ => true
  | .vredAddF _ _ _ _ => true
  | .vredMinF _ _ _ => true
  | .vredMaxF _ _ _ => true
  | .vredAddI _ _ _ => true
  | .vredMinI _ _ _ => true
  | .vredMaxI _ _ _ => true
  | .vredMinU _ _ _ => true
  | .vredMaxU _ _ _ => true
  | .vscanAddF _ _ _ _ => true
  | .vscanAddI _ _ _ => true
  | .vmov _ _ _ => true
  | .viota _ _ => true
  | .vld _ _ _ => true
  | .vldL _ _ _ => true
  | .vldx _ _ _ => true
  | .vlds _ _ _ _ => true
  | .vldsL _ _ _ _ => true
  | .vgth _ _ _ _ => true
  | .vgthL _ _ _ _ => true
  | .vst _ _ _ => true
  | .vstL _ _ _ => true
  | .vsts _ _ _ _ => true
  | .vstsL _ _ _ _ => true
  | .vsct _ _ _ _ => true
  | .vsctL _ _ _ _ => true
  | .vstm _ _ _ _ => true
  | .vstmL _ _ _ _ => true
  | .vperm _ _ _ _ => true
  | .vrot _ _ _ _ => true
  | .vbcst _ _ _ _ => true
  | .vzipLo _ _ _ _ => true
  | .vzipHi _ _ _ _ => true
  | .vuzpEv _ _ _ _ => true
  | .vuzpOd _ _ _ _ => true
  | .vrng _ _ _ _ => true
  | .vrngU _ _ _ _ => true
  | .vfromt _ _ _ _ => true
  | .vtot _ _ _ _ => true
  | .vext _ _ _ _ => true
  | .vins _ _ _ _ => true
  | .vbcs _ _ _ => true
  | .cbkEncLo _ _ _ _ _ => true
  | .cbkEncHi _ _ _ _ _ => true
  | .vencF4 _ _ _ _ _ => true
  | .vdecF4 _ _ _ _ => true
  | .tld _ _ _ _ => true
  | .tldT _ _ _ _ => true
  | .tldP6 _ _ _ _ => true
  | .tst _ _ _ _ => true
  | .tmov _ _ _ => true
  | .tzero _ _ => true
  | .tcvt _ _ _ s p k f => tcvtOk s f p k
  | .tred _ _ _ k _ f => f == TileFmt.tc8 || k == 0#2
  | .mma _ _ _ _ _ _ => true
  | .mmaSp _ _ _ _ _ _ => true
  | .mmaTc _ _ _ _ y x p => (p.aIsTc8 || x == 0#2) && (p.bIsTc8 || y == 0#2)
  | .czero _ _ => true
  | .cmov _ _ _ => true
  | .cld _ _ _ => true
  | .cst _ _ _ => true
  | .ccvtE4m3 _ _ _ p _ => p == 0#4
  | .ccvtE5m2 _ _ _ p _ => p == 0#4
  | .ccvtF16 _ _ _ p _ => BitVec.ule p 1#4
  | .ccvtBf16 _ _ _ p _ => BitVec.ule p 1#4
  | .ccvtF32 _ _ _ p _ => BitVec.ule p 3#4
  | .ccvtF4 _ _ _ p _ => BitVec.ule p 1#4
  | .csclR _ _ _ _ _ => true
  | .csclC _ _ _ _ _ => true
  | .cbkLd _ _ _ => true
  | .cbkLdL _ _ _ => true
  | .eret => true
  | .eretStep => true
  | .brk _ _ => true
  | .rdus _ _ _ => true
  | .wrus _ _ _ => true
  | .rdtime _ _ _ => true
  | .lda _ _ _ _ _ _ => true
  | .stl _ _ _ _ _ _ => true
  | .str _ _ _ _ => true
  | .atomAdd _ _ _ _ _ => true
  | .atomMin _ _ _ _ _ => true
  | .atomMax _ _ _ _ _ => true
  | .atomAnd _ _ _ _ _ => true
  | .atomOr _ _ _ _ _ => true
  | .atomXor _ _ _ _ _ => true
  | .atomXchg _ _ _ _ _ => true
  | .atomCas _ _ _ _ _ => true
  | .atomFaddF32 _ _ _ _ => true
  | .redAddW _ _ _ => true
  | .redAddD _ _ _ => true
  | .redMinW _ _ _ => true
  | .redMinD _ _ _ => true
  | .redMaxW _ _ _ => true
  | .redMaxD _ _ _ => true
  | .redAndW _ _ _ => true
  | .redAndD _ _ _ => true
  | .redOrW _ _ _ => true
  | .redOrD _ _ _ => true
  | .redXorW _ _ _ => true
  | .redXorD _ _ _ => true
  | .redAddF32 _ _ _ => true
  | .ldfe _ _ _ => true
  | .ldff _ _ _ => true
  | .stfl _ _ _ => true
  | .feclr _ _ => true
  | .lock _ _ _ => true
  | .unlock _ _ => true
  | .pinL _ _ _ => true
  | .unpinL _ _ => true
  | .plockL _ _ _ => true
  | .punlockL _ _ => true
  | .fenceAcq _ r m _ => r == 1#1 || m == 0#8
  | .fenceRel _ r m _ => r == 1#1 || m == 0#8
  | .fenceAr _ r m _ => r == 1#1 || m == 0#8
  | .monArm _ _ _ => true
  | .monDisarm _ _ => true
  | .monWait _ _ _ => true
  | .copyG2l _ _ _ s => s != 0#5
  | .copyL2g _ _ _ s => s != 0#5
  | .copyG2lB _ _ _ s _ => s != 0#5
  | .copyL2gB _ _ _ s _ => s != 0#5
  | .copyResume _ s => s != 0#5
  | .copyCancel _ s => s != 0#5
  | .copyChk _ s => s != 0#5
  | .taskSpawn _ _ _ _ => true
  | .taskNext _ => true
  | .taskDone _ => true
  | .taskYield _ _ => true
  | .cancel _ _ _ => true
  | .taskInfo _ _ k => BitVec.ule k 6#3
  | .gjoin _ _ _ _ => true
  | .gleave _ _ => true
  | .bar _ _ _ => true
  | .barArr _ _ _ => true
  | .barWait _ _ _ => true
  | .steCfg _ d _ => d != 0#5
  | .steIns _ d _ => d != 0#5
  | .steUpd _ d _ => d != 0#5
  | .steDraw _ d _ _ => d != 0#5
  | .steSum _ d q => d != 0#5 && BitVec.ule q 4#6
  | .rangeTag _ _ _ _ => true
  | .rangeTagH _ _ _ => true
  | .rangeClr _ _ => true
  | .rangeRd _ _ _ k => BitVec.ule k 2#2
  | .nestClaim _ _ _ => true
  | .perfRd _ _ _ => true
  | .entryIssue _ _ => true
  | .engineCompletion _ _ => true
  | .trbRetire _ => true
  | .storeQueuePerform _ => true
  | .trapEntry _ => true
  | .eventTaken _ => true
  | .uncorrectableError _ => true
  | .scratchpadRefill _ _ => true
  | .pageWalk _ _ => true
  | .rdreq _ => true
  | .rddata _ => true
  | .write _ => true
  | .wrack _ => true
  | .atom _ => true
  | .atrep _ => true
  | .strPacket _ => true
  | .feop _ => true
  | .ferep _ => true
  | .mon _ => true
  | .barmsg _ => true
  | .stecmd _ => true
  | .sterep _ => true
  | .steCfgCreate _ => true
  | .steCfgBuild _ => true
  | .steCfgSet _ => true
  | .steCfgRelease _ => true
  | .steInsExec _ => true
  | .steUpdExec _ => true
  | .steDrawExec _ => true
  | .steSumExec _ => true
  | .copyTransfer _ _ _ => true
  | .copyComplete _ _ => true
  | .launchWrite _ _ _ => true
  | .launchNop _ _ => true
  | .launchTasks _ _ => true
  | .launchStart _ _ => true
  | .launchServe _ _ => true
  | .launchCancel _ _ => true
  | .start _ => true
  | .taskDelivery _ => true
  | .taskmsg _ => true
  | .spillRefill _ => true
  | .hostEventWrite _ _ => true
  | .ctxcreate _ => true
  | .ctxset _ => true
  | .invtlb _ => true
  | .migrate _ => true
  | .migrationDrainComplete _ => true
  | .migrationInstall _ => true
  | .pegForward _ => true
  | .marker _ => true
  | .repart _ => true
  | .switchout _ => true
  | .resume _ => true
  | .clrfault _ => true
  | .ctxdestroy _ => true
  | .sethome _ => true
  | .setqueue _ => true
  | .setspill _ => true
  | .streamset _ => true
  | .outputPortSlot _ => true
  | .meshFlitReceive _ _ => true
  | .mortarFlitReceive _ _ => true
  | .controlFlit _ _ => true
  | .replayTimeout _ => true
  | .marginAlarm _ _ => true
  | .retrainComplete _ => true
  | .poison _ => true
  | .mgmt _ => true
  | .snoop _ => true
  | .reassemblyWatchdog _ => true
  | .replyTimerExpiry _ => true
  | .atomRepeatTimeout _ _ => true
  | .timerDeadline _ => true
  | .waitLimitExpiry _ => true
  | .monWaitDeadline _ => true
  | .timeCalibration => true
  | .timeStep _ _ => true
  | .regulatorAdmit _ _ _ => true
  | .regulatorWrite _ _ _ => true
  | .powerAlarm _ => true
  | .alarmClear _ => true
  | .clockStepDown => true
  | .clockStepUp => true
  | .coldReset => true
  | .reboot _ => true
  | .rollbackCommit _ => true
  | .hostPortFreezeClear _ => true
  | .steFreezeClear _ _ => true
  | .copyEngineFreezeClear _ _ => true
  | .hostWindowWrite _ _ => true
  | .hostWrite _ _ _ => true
  | .hostRead _ _ _ => true
  | .illegalWord => true
  | .oscillatorTick _ => true
  | .coreClockCycle _ => true
  | .commandedRetrain _ => true

end Sys2Proof
end

