-- ==== Sys2Proof/Decode.lean ====
section
/-! DEFINITION. Decoding of parcels into instructions, and the encoder (chapter 02).
Every word that is not an instruction is rejected by name; no word has an undefined effect (R50). -/

namespace Sys2Proof

/-- Why a word is no instruction; each raises ILLEGAL (R37, R38, R49, R50). -/
inductive Reject where
  /-- A bat whose opcode is reserved, 0x0000 among them, or a bat `JR` with a nonzero fa. -/
  | reservedBat
  /-- A brick whose major is not assigned. -/
  | reservedMajor
  /-- An unlisted minor or func, a nonzero reserved bit, or a field beyond its file. -/
  | badFields
  /-- A field combination or an immediate outside the instruction's range. -/
  | outOfRange
  /-- Fewer parcels than the word needs. -/
  | short
  deriving DecidableEq, Repr

/-! ## Field codes -/

def RMode.code : RMode → Nat
  | .rn => 0 | .rz => 1 | .rp => 2 | .rd => 3 | .rs => 4
/-- Mode codes 5 to 7 are reserved (R77). -/
def RMode.ofCode : Nat → Option RMode
  | 0 => some .rn | 1 => some .rz | 2 => some .rp | 3 => some .rd | 4 => some .rs | _ => none

def Scope.code : Scope → Nat
  | .stream => 0 | .core => 1 | .die => 2 | .device => 3 | .system => 4
/-- Scope codes 5 to 7 are reserved (R237). -/
def Scope.ofCode : Nat → Option Scope
  | 0 => some .stream | 1 => some .core | 2 => some .die | 3 => some .device | 4 => some .system
  | _ => none

def CmpCc.code : CmpCc → Nat
  | .eq => 0 | .ne => 1 | .lt => 2 | .le => 3 | .gt => 4 | .ge => 5
  | .ltu => 6 | .leu => 7 | .gtu => 8 | .geu => 9 | .tst => 10 | .tstn => 11
/-- R104. -/
def CmpCc.ofCode : Nat → Option CmpCc
  | 0 => some .eq | 1 => some .ne | 2 => some .lt | 3 => some .le | 4 => some .gt | 5 => some .ge
  | 6 => some .ltu | 7 => some .leu | 8 => some .gtu | 9 => some .geu | 10 => some .tst
  | 11 => some .tstn | _ => none

def ICmpCc.code : ICmpCc → Nat
  | .eq => 0 | .ne => 1 | .lt => 2 | .ge => 3
/-- R105. -/
def ICmpCc.ofCode : Nat → Option ICmpCc
  | 0 => some .eq | 1 => some .ne | 2 => some .lt | 3 => some .ge | _ => none

def FCmpCc.code : FCmpCc → Nat
  | .eq => 0 | .lt => 1 | .le => 2 | .un => 3 | .ne => 4
/-- R111. -/
def FCmpCc.ofCode : Nat → Option FCmpCc
  | 0 => some .eq | 1 => some .lt | 2 => some .le | 3 => some .un | 4 => some .ne | _ => none

def TileFmt.code : TileFmt → Nat
  | .e4m3 => 0 | .e5m2 => 1 | .fp16 => 2 | .bf16 => 3 | .fp32 => 4 | .f4 => 5 | .tc8 => 6
/-- Code 7 and above name no format (R174). -/
def TileFmt.ofCode : Nat → Option TileFmt
  | 0 => some .e4m3 | 1 => some .e5m2 | 2 => some .fp16 | 3 => some .bf16 | 4 => some .fp32
  | 5 => some .f4 | 6 => some .tc8 | _ => none

def MmaPair.code : MmaPair → Nat
  | .e4m3 => 0 | .e4m3E5m2 => 1 | .e5m2E4m3 => 2 | .e5m2 => 3 | .f16 => 4 | .f16Bf16 => 5
  | .bf16F16 => 6 | .bf16 => 7 | .f4 => 8
/-- R186. -/
def MmaPair.ofCode : Nat → Option MmaPair
  | 0 => some .e4m3 | 1 => some .e4m3E5m2 | 2 => some .e5m2E4m3 | 3 => some .e5m2 | 4 => some .f16
  | 5 => some .f16Bf16 | 6 => some .bf16F16 | 7 => some .bf16 | 8 => some .f4 | _ => none

def TcPair.code : TcPair → Nat
  | .tc8 => 0 | .tc8E4m3 => 1 | .e4m3Tc8 => 2 | .tc8E5m2 => 3 | .e5m2Tc8 => 4
/-- R189. -/
def TcPair.ofCode : Nat → Option TcPair
  | 0 => some .tc8 | 1 => some .tc8E4m3 | 2 => some .e4m3Tc8 | 3 => some .tc8E5m2
  | 4 => some .e5m2Tc8 | _ => none

/-- The 12-bit numbers of R128 and R409. -/
def SysReg.code : SysReg → Nat
  | .gen => 0x000 | .pitch => 0x001 | .mesh => 0x002
  | .srseed => 0x010 | .nftrap => 0x011 | .fewait => 0x012 | .status => 0x013
  | .epc => 0x100 | .ecause => 0x101 | .eaddr => 0x102 | .trapbase => 0x103
  | .bp n => 0x110 + n.toNat
  | .trate => 0x200 | .txofs => 0x201 | .tdead => 0x202
def SysReg.ofCode : Nat → Option SysReg
  | 0x000 => some .gen | 0x001 => some .pitch | 0x002 => some .mesh
  | 0x010 => some .srseed | 0x011 => some .nftrap | 0x012 => some .fewait | 0x013 => some .status
  | 0x100 => some .epc | 0x101 => some .ecause | 0x102 => some .eaddr | 0x103 => some .trapbase
  | 0x110 => some (.bp 0) | 0x111 => some (.bp 1) | 0x112 => some (.bp 2) | 0x113 => some (.bp 3)
  | 0x114 => some (.bp 4) | 0x115 => some (.bp 5) | 0x116 => some (.bp 6) | 0x117 => some (.bp 7)
  | 0x200 => some .trate | 0x201 => some .txofs | 0x202 => some .tdead
  | _ => none

/-! ## Decoding -/


/-- A bat (R38, R39): the opcode sits in bits 14 to 10, the operands in bits 9 to 0. -/
def decodeBat (p : BitVec 16) : Option Instr :=
  match (p.extractLsb' 10 5).toNat with
  | 1 => some (.batMov (p.extractLsb' 5 5) (p.extractLsb' 0 5))
  | 2 => some (.batAdd (p.extractLsb' 5 5) (p.extractLsb' 0 5))
  | 3 => some (.batSub (p.extractLsb' 5 5) (p.extractLsb' 0 5))
  | 4 => some (.batAnd (p.extractLsb' 5 5) (p.extractLsb' 0 5))
  | 5 => some (.batOr (p.extractLsb' 5 5) (p.extractLsb' 0 5))
  | 6 => some (.batXor (p.extractLsb' 5 5) (p.extractLsb' 0 5))
  | 7 => some (.batShl (p.extractLsb' 5 5) (p.extractLsb' 0 5))
  | 8 => some (.batShr (p.extractLsb' 5 5) (p.extractLsb' 0 5))
  | 9 => some (.batSra (p.extractLsb' 5 5) (p.extractLsb' 0 5))
  | 10 => some (.batMul (p.extractLsb' 5 5) (p.extractLsb' 0 5))
  | 11 => some (.batLdD (p.extractLsb' 5 5) (p.extractLsb' 0 5))
  | 12 => some (.batStD (p.extractLsb' 5 5) (p.extractLsb' 0 5))
  | 13 => if p.extractLsb' 5 5 = 0#5 then some (.batJr (p.extractLsb' 0 5)) else none
  | 14 => some (.batB (p.extractLsb' 0 10))
  | 15 => some (.batCall (p.extractLsb' 0 10))
  | _ => none

/-- Major 0x00 (R98). -/
def decodeMaj00 (g : BitVec 3) (lo : BitVec 5) (up : BitVec 16) : Option Instr :=
  if lo = 0#5 ∧ up.extractLsb' 0 1 = 0#1 then some (.add g (up.extractLsb' 11 5) (up.extractLsb' 6 5) (up.extractLsb' 1 5))
  else if lo = 1#5 ∧ up.extractLsb' 0 1 = 0#1 then some (.sub g (up.extractLsb' 11 5) (up.extractLsb' 6 5) (up.extractLsb' 1 5))
  else if lo = 2#5 ∧ up.extractLsb' 0 1 = 0#1 then some (.mul g (up.extractLsb' 11 5) (up.extractLsb' 6 5) (up.extractLsb' 1 5))
  else if lo = 3#5 ∧ up.extractLsb' 0 1 = 0#1 then some (.mulh g (up.extractLsb' 11 5) (up.extractLsb' 6 5) (up.extractLsb' 1 5))
  else if lo = 4#5 ∧ up.extractLsb' 0 1 = 0#1 then some (.mulhu g (up.extractLsb' 11 5) (up.extractLsb' 6 5) (up.extractLsb' 1 5))
  else if lo = 5#5 ∧ up.extractLsb' 0 1 = 0#1 then some (.mulhm g (up.extractLsb' 11 5) (up.extractLsb' 6 5) (up.extractLsb' 1 5))
  else if lo = 6#5 ∧ up.extractLsb' 0 1 = 0#1 then some (.div g (up.extractLsb' 11 5) (up.extractLsb' 6 5) (up.extractLsb' 1 5))
  else if lo = 7#5 ∧ up.extractLsb' 0 1 = 0#1 then some (.divu g (up.extractLsb' 11 5) (up.extractLsb' 6 5) (up.extractLsb' 1 5))
  else if lo = 8#5 ∧ up.extractLsb' 0 1 = 0#1 then some (.rem g (up.extractLsb' 11 5) (up.extractLsb' 6 5) (up.extractLsb' 1 5))
  else if lo = 9#5 ∧ up.extractLsb' 0 1 = 0#1 then some (.remu g (up.extractLsb' 11 5) (up.extractLsb' 6 5) (up.extractLsb' 1 5))
  else if lo = 10#5 ∧ up.extractLsb' 0 1 = 0#1 then some (.min g (up.extractLsb' 11 5) (up.extractLsb' 6 5) (up.extractLsb' 1 5))
  else if lo = 11#5 ∧ up.extractLsb' 0 1 = 0#1 then some (.minu g (up.extractLsb' 11 5) (up.extractLsb' 6 5) (up.extractLsb' 1 5))
  else if lo = 12#5 ∧ up.extractLsb' 0 1 = 0#1 then some (.max g (up.extractLsb' 11 5) (up.extractLsb' 6 5) (up.extractLsb' 1 5))
  else if lo = 13#5 ∧ up.extractLsb' 0 1 = 0#1 then some (.maxu g (up.extractLsb' 11 5) (up.extractLsb' 6 5) (up.extractLsb' 1 5))
  else if lo = 14#5 ∧ up.extractLsb' 0 1 = 0#1 then some (.adds g (up.extractLsb' 11 5) (up.extractLsb' 6 5) (up.extractLsb' 1 5))
  else if lo = 15#5 ∧ up.extractLsb' 0 1 = 0#1 then some (.subs g (up.extractLsb' 11 5) (up.extractLsb' 6 5) (up.extractLsb' 1 5))
  else if lo = 16#5 ∧ up.extractLsb' 0 1 = 0#1 then some (.addsu g (up.extractLsb' 11 5) (up.extractLsb' 6 5) (up.extractLsb' 1 5))
  else if lo = 17#5 ∧ up.extractLsb' 0 1 = 0#1 then some (.subsu g (up.extractLsb' 11 5) (up.extractLsb' 6 5) (up.extractLsb' 1 5))
  else if lo = 18#5 ∧ up.extractLsb' 0 6 = 0#6 then some (.abs g (up.extractLsb' 11 5) (up.extractLsb' 6 5))
  else if lo = 19#5 ∧ up.extractLsb' 0 6 = 0#6 then some (.neg g (up.extractLsb' 11 5) (up.extractLsb' 6 5))
  else none

/-- Major 0x01 (R99). -/
def decodeMaj01 (g : BitVec 3) (lo : BitVec 5) (up : BitVec 16) : Option Instr :=
  if lo = 0#5 ∧ up.extractLsb' 0 1 = 0#1 then some (.and g (up.extractLsb' 11 5) (up.extractLsb' 6 5) (up.extractLsb' 1 5))
  else if lo = 1#5 ∧ up.extractLsb' 0 1 = 0#1 then some (.or g (up.extractLsb' 11 5) (up.extractLsb' 6 5) (up.extractLsb' 1 5))
  else if lo = 2#5 ∧ up.extractLsb' 0 1 = 0#1 then some (.xor g (up.extractLsb' 11 5) (up.extractLsb' 6 5) (up.extractLsb' 1 5))
  else if lo = 3#5 ∧ up.extractLsb' 0 1 = 0#1 then some (.andn g (up.extractLsb' 11 5) (up.extractLsb' 6 5) (up.extractLsb' 1 5))
  else if lo = 4#5 ∧ up.extractLsb' 0 1 = 0#1 then some (.orn g (up.extractLsb' 11 5) (up.extractLsb' 6 5) (up.extractLsb' 1 5))
  else if lo = 5#5 ∧ up.extractLsb' 0 1 = 0#1 then some (.xnor g (up.extractLsb' 11 5) (up.extractLsb' 6 5) (up.extractLsb' 1 5))
  else if lo = 6#5 ∧ up.extractLsb' 0 1 = 0#1 then some (.shl g (up.extractLsb' 11 5) (up.extractLsb' 6 5) (up.extractLsb' 1 5))
  else if lo = 7#5 ∧ up.extractLsb' 0 1 = 0#1 then some (.shr g (up.extractLsb' 11 5) (up.extractLsb' 6 5) (up.extractLsb' 1 5))
  else if lo = 8#5 ∧ up.extractLsb' 0 1 = 0#1 then some (.sra g (up.extractLsb' 11 5) (up.extractLsb' 6 5) (up.extractLsb' 1 5))
  else if lo = 9#5 ∧ up.extractLsb' 0 1 = 0#1 then some (.rol g (up.extractLsb' 11 5) (up.extractLsb' 6 5) (up.extractLsb' 1 5))
  else if lo = 10#5 ∧ up.extractLsb' 0 1 = 0#1 then some (.ror g (up.extractLsb' 11 5) (up.extractLsb' 6 5) (up.extractLsb' 1 5))
  else none

/-- Major 0x02 (R100). -/
def decodeMaj02 (g : BitVec 3) (lo : BitVec 5) (up : BitVec 16) : Option Instr :=
  if lo = 0#5 ∧ up.extractLsb' 0 6 = 0#6 then some (.clz g (up.extractLsb' 11 5) (up.extractLsb' 6 5))
  else if lo = 1#5 ∧ up.extractLsb' 0 6 = 0#6 then some (.ctz g (up.extractLsb' 11 5) (up.extractLsb' 6 5))
  else if lo = 2#5 ∧ up.extractLsb' 0 6 = 0#6 then some (.popc g (up.extractLsb' 11 5) (up.extractLsb' 6 5))
  else if lo = 3#5 ∧ up.extractLsb' 0 6 = 0#6 then some (.brev g (up.extractLsb' 11 5) (up.extractLsb' 6 5))
  else if lo = 4#5 ∧ up.extractLsb' 0 6 = 0#6 then some (.bswap g (up.extractLsb' 11 5) (up.extractLsb' 6 5))
  else if lo = 5#5 ∧ up.extractLsb' 0 6 = 0#6 then some (.sxtB g (up.extractLsb' 11 5) (up.extractLsb' 6 5))
  else if lo = 6#5 ∧ up.extractLsb' 0 6 = 0#6 then some (.sxtH g (up.extractLsb' 11 5) (up.extractLsb' 6 5))
  else if lo = 7#5 ∧ up.extractLsb' 0 6 = 0#6 then some (.sxtW g (up.extractLsb' 11 5) (up.extractLsb' 6 5))
  else if lo = 8#5 ∧ up.extractLsb' 0 6 = 0#6 then some (.zxtB g (up.extractLsb' 11 5) (up.extractLsb' 6 5))
  else if lo = 9#5 ∧ up.extractLsb' 0 6 = 0#6 then some (.zxtH g (up.extractLsb' 11 5) (up.extractLsb' 6 5))
  else if lo = 10#5 ∧ up.extractLsb' 0 6 = 0#6 then some (.zxtW g (up.extractLsb' 11 5) (up.extractLsb' 6 5))
  else if lo = 11#5 ∧ up.extractLsb' 0 1 = 0#1 then some (.bfx g (up.extractLsb' 11 5) (up.extractLsb' 6 5) (up.extractLsb' 1 5))
  else if lo = 12#5 ∧ up.extractLsb' 0 1 = 0#1 then some (.bfxu g (up.extractLsb' 11 5) (up.extractLsb' 6 5) (up.extractLsb' 1 5))
  else if lo = 13#5 ∧ up.extractLsb' 0 1 = 0#1 then some (.bfi g (up.extractLsb' 11 5) (up.extractLsb' 6 5) (up.extractLsb' 1 5))
  else none

/-- Major 0x03 (R101). -/
def decodeMaj03 (g : BitVec 3) (lo : BitVec 5) (up : BitVec 16) : Option Instr :=
  if lo = 0#5 ∧ up.extractLsb' 0 1 = 0#1 then some (.addW g (up.extractLsb' 11 5) (up.extractLsb' 6 5) (up.extractLsb' 1 5))
  else if lo = 1#5 ∧ up.extractLsb' 0 1 = 0#1 then some (.subW g (up.extractLsb' 11 5) (up.extractLsb' 6 5) (up.extractLsb' 1 5))
  else if lo = 2#5 ∧ up.extractLsb' 0 1 = 0#1 then some (.mulW g (up.extractLsb' 11 5) (up.extractLsb' 6 5) (up.extractLsb' 1 5))
  else if lo = 3#5 ∧ up.extractLsb' 0 1 = 0#1 then some (.divW g (up.extractLsb' 11 5) (up.extractLsb' 6 5) (up.extractLsb' 1 5))
  else if lo = 4#5 ∧ up.extractLsb' 0 1 = 0#1 then some (.divuW g (up.extractLsb' 11 5) (up.extractLsb' 6 5) (up.extractLsb' 1 5))
  else if lo = 5#5 ∧ up.extractLsb' 0 1 = 0#1 then some (.remW g (up.extractLsb' 11 5) (up.extractLsb' 6 5) (up.extractLsb' 1 5))
  else if lo = 6#5 ∧ up.extractLsb' 0 1 = 0#1 then some (.remuW g (up.extractLsb' 11 5) (up.extractLsb' 6 5) (up.extractLsb' 1 5))
  else if lo = 7#5 ∧ up.extractLsb' 0 1 = 0#1 then some (.shlW g (up.extractLsb' 11 5) (up.extractLsb' 6 5) (up.extractLsb' 1 5))
  else if lo = 8#5 ∧ up.extractLsb' 0 1 = 0#1 then some (.shrW g (up.extractLsb' 11 5) (up.extractLsb' 6 5) (up.extractLsb' 1 5))
  else if lo = 9#5 ∧ up.extractLsb' 0 1 = 0#1 then some (.sraW g (up.extractLsb' 11 5) (up.extractLsb' 6 5) (up.extractLsb' 1 5))
  else none

/-- Major 0x04 (R102). -/
def decodeMaj04 (g : BitVec 3) (lo : BitVec 5) (up : BitVec 16) : Option Instr :=
  if lo = 0#5 ∧ up.extractLsb' 8 3 = 0#3 ∧ up.extractLsb' 0 6 = 0#6 then some (.rdi g (up.extractLsb' 11 5) (up.extractLsb' 6 2))
  else if lo = 1#5 ∧ up.extractLsb' 8 3 = 0#3 ∧ up.extractLsb' 0 6 = 0#6 then some (.rdlc g (up.extractLsb' 11 5) (up.extractLsb' 6 2))
  else if lo = 2#5 ∧ up.extractLsb' 13 3 = 0#3 ∧ up.extractLsb' 0 6 = 0#6 then some (.wri g (up.extractLsb' 11 2) (up.extractLsb' 6 5))
  else if lo = 3#5 ∧ up.extractLsb' 13 3 = 0#3 ∧ up.extractLsb' 0 6 = 0#6 then some (.wrlc g (up.extractLsb' 11 2) (up.extractLsb' 6 5))
  else if lo = 4#5 ∧ up.extractLsb' 8 3 = 0#3 ∧ up.extractLsb' 0 6 = 0#6 then some (.rdlb g (up.extractLsb' 11 5) (up.extractLsb' 6 2))
  else if lo = 5#5 ∧ up.extractLsb' 13 3 = 0#3 ∧ up.extractLsb' 0 6 = 0#6 then some (.wrlb g (up.extractLsb' 11 2) (up.extractLsb' 6 5))
  else if lo = 6#5 ∧ up.extractLsb' 0 11 = 0#11 then some (.rdp g (up.extractLsb' 11 5))
  else if lo = 7#5 ∧ up.extractLsb' 11 5 = 0#5 ∧ up.extractLsb' 0 6 = 0#6 then some (.wrp g (up.extractLsb' 6 5))
  else if lo = 8#5 ∧ up.extractLsb' 0 11 = 0#11 then some (.rdpc g (up.extractLsb' 11 5))
  else none

/-- Major 0x05 (R103). -/
def decodeMaj05 (g : BitVec 3) (lo : BitVec 5) (up : BitVec 16) : Option Instr :=
  if lo = 0#5 ∧ up.extractLsb' 0 1 = 0#1 then some (.madd g (up.extractLsb' 11 5) (up.extractLsb' 6 5) (up.extractLsb' 1 5))
  else if lo = 1#5 ∧ up.extractLsb' 0 1 = 0#1 then some (.msub g (up.extractLsb' 11 5) (up.extractLsb' 6 5) (up.extractLsb' 1 5))
  else if lo = 2#5 ∧ up.extractLsb' 0 1 = 0#1 then some (.shadd1 g (up.extractLsb' 11 5) (up.extractLsb' 6 5) (up.extractLsb' 1 5))
  else if lo = 3#5 ∧ up.extractLsb' 0 1 = 0#1 then some (.shadd2 g (up.extractLsb' 11 5) (up.extractLsb' 6 5) (up.extractLsb' 1 5))
  else if lo = 4#5 ∧ up.extractLsb' 0 1 = 0#1 then some (.shadd3 g (up.extractLsb' 11 5) (up.extractLsb' 6 5) (up.extractLsb' 1 5))
  else if lo = 5#5 ∧ up.extractLsb' 0 1 = 0#1 then some (.shadd4 g (up.extractLsb' 11 5) (up.extractLsb' 6 5) (up.extractLsb' 1 5))
  else none

/-- Major 0x08 (R52). -/
def decodeMaj08 (g : BitVec 3) (lo : BitVec 5) (up : BitVec 16) : Option Instr :=
  if up.extractLsb' 12 4 = 0#4 then some (.movi g (up.extractLsb' 0 12) lo)
  else if up.extractLsb' 12 4 = 1#4 then some (.addi g (up.extractLsb' 0 12) lo)
  else if up.extractLsb' 12 4 = 2#4 then some (.andi g (up.extractLsb' 0 12) lo)
  else if up.extractLsb' 12 4 = 3#4 then some (.ori g (up.extractLsb' 0 12) lo)
  else if up.extractLsb' 12 4 = 4#4 then some (.xori g (up.extractLsb' 0 12) lo)
  else if up.extractLsb' 12 4 = 5#4 then some (.shli g (up.extractLsb' 0 12) lo)
  else if up.extractLsb' 12 4 = 6#4 then some (.shri g (up.extractLsb' 0 12) lo)
  else if up.extractLsb' 12 4 = 7#4 then some (.srai g (up.extractLsb' 0 12) lo)
  else if up.extractLsb' 12 4 = 8#4 then some (.muli g (up.extractLsb' 0 12) lo)
  else if up.extractLsb' 12 4 = 9#4 then some (.movh g (up.extractLsb' 0 12) lo)
  else none

/-- Major 0x09 (R105). -/
def decodeMaj09 (g : BitVec 3) (lo : BitVec 5) (up : BitVec 16) : Option Instr :=
  if lo.extractLsb' 3 2 = 0#2 then (ICmpCc.ofCode (up.extractLsb' 12 2).toNat).bind fun c => some (.icmpi g (up.extractLsb' 14 2) c (up.extractLsb' 0 12) (lo.extractLsb' 0 3))
  else none

/-- Major 0x10 (R104). -/
def decodeMaj10 (g : BitVec 3) (lo : BitVec 5) (up : BitVec 16) : Option Instr :=
  if up.extractLsb' 14 2 = 0#2 ∧ up.extractLsb' 0 1 = 0#1 then (CmpCc.ofCode lo.toNat).bind fun c => some (.cmp g (up.extractLsb' 11 3) (up.extractLsb' 6 5) (up.extractLsb' 1 5) c)
  else none

/-- Major 0x11 (R106). -/
def decodeMaj11 (g : BitVec 3) (lo : BitVec 5) (up : BitVec 16) : Option Instr :=
  if lo = 0#5 ∧ up.extractLsb' 14 2 = 0#2 ∧ up.extractLsb' 9 2 = 0#2 ∧ up.extractLsb' 4 2 = 0#2 ∧ up.extractLsb' 0 1 = 0#1 then some (.pand g (up.extractLsb' 11 3) (up.extractLsb' 6 3) (up.extractLsb' 1 3))
  else if lo = 1#5 ∧ up.extractLsb' 14 2 = 0#2 ∧ up.extractLsb' 9 2 = 0#2 ∧ up.extractLsb' 4 2 = 0#2 ∧ up.extractLsb' 0 1 = 0#1 then some (.por g (up.extractLsb' 11 3) (up.extractLsb' 6 3) (up.extractLsb' 1 3))
  else if lo = 2#5 ∧ up.extractLsb' 14 2 = 0#2 ∧ up.extractLsb' 9 2 = 0#2 ∧ up.extractLsb' 4 2 = 0#2 ∧ up.extractLsb' 0 1 = 0#1 then some (.pxor g (up.extractLsb' 11 3) (up.extractLsb' 6 3) (up.extractLsb' 1 3))
  else if lo = 3#5 ∧ up.extractLsb' 14 2 = 0#2 ∧ up.extractLsb' 9 2 = 0#2 ∧ up.extractLsb' 4 2 = 0#2 ∧ up.extractLsb' 0 1 = 0#1 then some (.pandn g (up.extractLsb' 11 3) (up.extractLsb' 6 3) (up.extractLsb' 1 3))
  else if lo = 4#5 ∧ up.extractLsb' 14 2 = 0#2 ∧ up.extractLsb' 9 2 = 0#2 ∧ up.extractLsb' 4 2 = 0#2 ∧ up.extractLsb' 0 1 = 0#1 then some (.porn g (up.extractLsb' 11 3) (up.extractLsb' 6 3) (up.extractLsb' 1 3))
  else if lo = 5#5 ∧ up.extractLsb' 14 2 = 0#2 ∧ up.extractLsb' 9 2 = 0#2 ∧ up.extractLsb' 4 2 = 0#2 ∧ up.extractLsb' 0 1 = 0#1 then some (.pnand g (up.extractLsb' 11 3) (up.extractLsb' 6 3) (up.extractLsb' 1 3))
  else if lo = 6#5 ∧ up.extractLsb' 14 2 = 0#2 ∧ up.extractLsb' 9 2 = 0#2 ∧ up.extractLsb' 4 2 = 0#2 ∧ up.extractLsb' 0 1 = 0#1 then some (.pnor g (up.extractLsb' 11 3) (up.extractLsb' 6 3) (up.extractLsb' 1 3))
  else if lo = 7#5 ∧ up.extractLsb' 14 2 = 0#2 ∧ up.extractLsb' 9 2 = 0#2 ∧ up.extractLsb' 4 2 = 0#2 ∧ up.extractLsb' 0 1 = 0#1 then some (.pxnor g (up.extractLsb' 11 3) (up.extractLsb' 6 3) (up.extractLsb' 1 3))
  else none

/-- Major 0x12 (R107). -/
def decodeMaj12 (g : BitVec 3) (lo : BitVec 5) (up : BitVec 16) : Option Instr :=
  if lo.extractLsb' 3 2 = 0#2 ∧ up.extractLsb' 0 1 = 0#1 then some (.sel g (up.extractLsb' 11 5) (up.extractLsb' 6 5) (up.extractLsb' 1 5) (lo.extractLsb' 0 3))
  else if lo.extractLsb' 3 2 = 1#2 ∧ up.extractLsb' 0 11 = 0#11 then some (.cset g (up.extractLsb' 11 5) (lo.extractLsb' 0 3))
  else if lo.extractLsb' 3 2 = 2#2 ∧ up.extractLsb' 0 6 = 0#6 then some (.selz g (up.extractLsb' 11 5) (up.extractLsb' 6 5) (lo.extractLsb' 0 3))
  else none

/-- Major 0x13 (R111). -/
def decodeMaj13 (g : BitVec 3) (lo : BitVec 5) (up : BitVec 16) : Option Instr :=
  if up.extractLsb' 14 2 = 0#2 ∧ up.extractLsb' 0 1 = 0#1 then (FCmpCc.ofCode lo.toNat).bind fun c => some (.fcmp g (up.extractLsb' 11 3) (up.extractLsb' 6 5) (up.extractLsb' 1 5) c)
  else none

/-- Major 0x14 (R109). -/
def decodeMaj14 (g : BitVec 3) (lo : BitVec 5) (up : BitVec 16) : Option Instr :=
  if lo.extractLsb' 0 2 = 0#2 ∧ up.extractLsb' 0 1 = 0#1 then (RMode.ofCode (lo.extractLsb' 2 3).toNat).bind fun m => some (.fadd g (up.extractLsb' 11 5) (up.extractLsb' 6 5) (up.extractLsb' 1 5) m)
  else if lo.extractLsb' 0 2 = 1#2 ∧ up.extractLsb' 0 1 = 0#1 then (RMode.ofCode (lo.extractLsb' 2 3).toNat).bind fun m => some (.fsub g (up.extractLsb' 11 5) (up.extractLsb' 6 5) (up.extractLsb' 1 5) m)
  else if lo.extractLsb' 0 2 = 2#2 ∧ up.extractLsb' 0 1 = 0#1 then (RMode.ofCode (lo.extractLsb' 2 3).toNat).bind fun m => some (.fmul g (up.extractLsb' 11 5) (up.extractLsb' 6 5) (up.extractLsb' 1 5) m)
  else if lo.extractLsb' 0 2 = 3#2 ∧ up.extractLsb' 0 1 = 0#1 then (RMode.ofCode (lo.extractLsb' 2 3).toNat).bind fun m => some (.fdiv g (up.extractLsb' 11 5) (up.extractLsb' 6 5) (up.extractLsb' 1 5) m)
  else none

/-- Major 0x15 (R109). -/
def decodeMaj15 (g : BitVec 3) (lo : BitVec 5) (up : BitVec 16) : Option Instr :=
  if lo.extractLsb' 0 2 = 0#2 ∧ up.extractLsb' 0 1 = 0#1 then (RMode.ofCode (lo.extractLsb' 2 3).toNat).bind fun m => some (.fma g (up.extractLsb' 11 5) (up.extractLsb' 6 5) (up.extractLsb' 1 5) m)
  else if lo.extractLsb' 0 2 = 1#2 ∧ up.extractLsb' 0 1 = 0#1 then (RMode.ofCode (lo.extractLsb' 2 3).toNat).bind fun m => some (.fms g (up.extractLsb' 11 5) (up.extractLsb' 6 5) (up.extractLsb' 1 5) m)
  else if lo.extractLsb' 0 2 = 2#2 ∧ up.extractLsb' 0 6 = 0#6 then (RMode.ofCode (lo.extractLsb' 2 3).toNat).bind fun m => some (.fsqrt g (up.extractLsb' 11 5) (up.extractLsb' 6 5) m)
  else if lo.extractLsb' 0 2 = 3#2 ∧ up.extractLsb' 0 6 = 0#6 then (RMode.ofCode (lo.extractLsb' 2 3).toNat).bind fun m => some (.fcvtIF g (up.extractLsb' 11 5) (up.extractLsb' 6 5) m)
  else none

/-- Major 0x16 (R110). -/
def decodeMaj16 (g : BitVec 3) (lo : BitVec 5) (up : BitVec 16) : Option Instr :=
  if lo = 0#5 ∧ up.extractLsb' 0 1 = 0#1 then some (.fmin g (up.extractLsb' 11 5) (up.extractLsb' 6 5) (up.extractLsb' 1 5))
  else if lo = 1#5 ∧ up.extractLsb' 0 1 = 0#1 then some (.fmax g (up.extractLsb' 11 5) (up.extractLsb' 6 5) (up.extractLsb' 1 5))
  else if lo = 2#5 ∧ up.extractLsb' 0 6 = 0#6 then some (.fneg g (up.extractLsb' 11 5) (up.extractLsb' 6 5))
  else if lo = 3#5 ∧ up.extractLsb' 0 6 = 0#6 then some (.fabs g (up.extractLsb' 11 5) (up.extractLsb' 6 5))
  else if lo = 4#5 ∧ up.extractLsb' 0 1 = 0#1 then some (.fcpys g (up.extractLsb' 11 5) (up.extractLsb' 6 5) (up.extractLsb' 1 5))
  else if lo = 5#5 ∧ up.extractLsb' 0 6 = 0#6 then some (.fclass g (up.extractLsb' 11 5) (up.extractLsb' 6 5))
  else if lo.extractLsb' 3 2 = 1#2 ∧ up.extractLsb' 0 6 = 0#6 then (RMode.ofCode (lo.extractLsb' 0 3).toNat).bind fun m => some (.fcvtFI g (up.extractLsb' 11 5) (up.extractLsb' 6 5) m)
  else if lo.extractLsb' 3 2 = 2#2 ∧ up.extractLsb' 0 6 = 0#6 then (RMode.ofCode (lo.extractLsb' 0 3).toNat).bind fun m => some (.fcvtFU g (up.extractLsb' 11 5) (up.extractLsb' 6 5) m)
  else if lo.extractLsb' 3 2 = 3#2 ∧ up.extractLsb' 0 6 = 0#6 then (RMode.ofCode (lo.extractLsb' 0 3).toNat).bind fun m => some (.fcvtUF g (up.extractLsb' 11 5) (up.extractLsb' 6 5) m)
  else none

/-- Major 0x18 (R112). -/
def decodeMaj18 (g : BitVec 3) (lo : BitVec 5) (up : BitVec 16) : Option Instr :=
  if lo.extractLsb' 0 4 = 0#4 then some (.bL g (up.extractLsb' 0 16) (lo.extractLsb' 4 1))
  else if lo.extractLsb' 0 4 = 1#4 then some (.callL g (up.extractLsb' 0 16) (lo.extractLsb' 4 1))
  else none

/-- Major 0x19 (R113). -/
def decodeMaj19 (g : BitVec 3) (lo : BitVec 5) (up : BitVec 16) : Option Instr :=
  if lo.extractLsb' 0 4 = 0#4 ∧ up.extractLsb' 0 11 = 0#11 then some (.jrL g (up.extractLsb' 11 5) (lo.extractLsb' 4 1))
  else if lo.extractLsb' 0 4 = 1#4 ∧ up.extractLsb' 0 11 = 0#11 then some (.callr g (up.extractLsb' 11 5) (lo.extractLsb' 4 1))
  else none

/-- Major 0x1A (R115). -/
def decodeMaj1A (g : BitVec 3) (lo : BitVec 5) (up : BitVec 16) : Option Instr :=
  if lo = 0#5 ∧ g = 0#3 then some (.loop (up.extractLsb' 14 2) (up.extractLsb' 9 5) (up.extractLsb' 0 9))
  else if lo = 1#5 ∧ up.extractLsb' 0 14 = 0#14 ∧ g = 0#3 then some (.lexit (up.extractLsb' 14 2))
  else none

/-- Major 0x20 (R53). -/
def decodeMaj20 (g : BitVec 3) (lo : BitVec 5) (up : BitVec 16) : Option Instr :=
  some (.ldB g (up.extractLsb' 12 4) (up.extractLsb' 0 12) lo)

/-- Major 0x21 (R53). -/
def decodeMaj21 (g : BitVec 3) (lo : BitVec 5) (up : BitVec 16) : Option Instr :=
  some (.ldBu g (up.extractLsb' 12 4) (up.extractLsb' 0 12) lo)

/-- Major 0x22 (R53). -/
def decodeMaj22 (g : BitVec 3) (lo : BitVec 5) (up : BitVec 16) : Option Instr :=
  some (.ldH g (up.extractLsb' 12 4) (up.extractLsb' 0 12) lo)

/-- Major 0x23 (R53). -/
def decodeMaj23 (g : BitVec 3) (lo : BitVec 5) (up : BitVec 16) : Option Instr :=
  some (.ldHu g (up.extractLsb' 12 4) (up.extractLsb' 0 12) lo)

/-- Major 0x24 (R53). -/
def decodeMaj24 (g : BitVec 3) (lo : BitVec 5) (up : BitVec 16) : Option Instr :=
  some (.ldW g (up.extractLsb' 12 4) (up.extractLsb' 0 12) lo)

/-- Major 0x25 (R53). -/
def decodeMaj25 (g : BitVec 3) (lo : BitVec 5) (up : BitVec 16) : Option Instr :=
  some (.ldWu g (up.extractLsb' 12 4) (up.extractLsb' 0 12) lo)

/-- Major 0x26 (R53). -/
def decodeMaj26 (g : BitVec 3) (lo : BitVec 5) (up : BitVec 16) : Option Instr :=
  some (.ldD g (up.extractLsb' 12 4) (up.extractLsb' 0 12) lo)

/-- Major 0x27 (R235). -/
def decodeMaj27 (g : BitVec 3) (lo : BitVec 5) (up : BitVec 16) : Option Instr :=
  some (.ldxD g (up.extractLsb' 12 4) (up.extractLsb' 0 12) lo)

/-- Major 0x28 (R53). -/
def decodeMaj28 (g : BitVec 3) (lo : BitVec 5) (up : BitVec 16) : Option Instr :=
  some (.stB g (up.extractLsb' 12 4) (up.extractLsb' 0 12) lo)

/-- Major 0x29 (R53). -/
def decodeMaj29 (g : BitVec 3) (lo : BitVec 5) (up : BitVec 16) : Option Instr :=
  some (.stH g (up.extractLsb' 12 4) (up.extractLsb' 0 12) lo)

/-- Major 0x2A (R53). -/
def decodeMaj2A (g : BitVec 3) (lo : BitVec 5) (up : BitVec 16) : Option Instr :=
  some (.stW g (up.extractLsb' 12 4) (up.extractLsb' 0 12) lo)

/-- Major 0x2B (R53). -/
def decodeMaj2B (g : BitVec 3) (lo : BitVec 5) (up : BitVec 16) : Option Instr :=
  some (.stD g (up.extractLsb' 12 4) (up.extractLsb' 0 12) lo)

/-- Major 0x2C (R236). -/
def decodeMaj2C (g : BitVec 3) (lo : BitVec 5) (up : BitVec 16) : Option Instr :=
  if lo.extractLsb' 1 4 = 0#4 then some (.pref g (up.extractLsb' 12 4) (up.extractLsb' 0 12) (lo.extractLsb' 0 1))
  else none

/-- Major 0x2D (R244, R246). -/
noncomputable def decodeMaj2D (g : BitVec 3) (lo : BitVec 5) (up : BitVec 16) : Option Instr :=
  if lo.extractLsb' 1 4 = 0#4 ∧ up.extractLsb' 0 1 = 0#1 then some (.atomAdd g (up.extractLsb' 11 5) (up.extractLsb' 6 5) (up.extractLsb' 1 5) (lo.extractLsb' 0 1))
  else if lo.extractLsb' 1 4 = 1#4 ∧ up.extractLsb' 0 1 = 0#1 then some (.atomMin g (up.extractLsb' 11 5) (up.extractLsb' 6 5) (up.extractLsb' 1 5) (lo.extractLsb' 0 1))
  else if lo.extractLsb' 1 4 = 2#4 ∧ up.extractLsb' 0 1 = 0#1 then some (.atomMax g (up.extractLsb' 11 5) (up.extractLsb' 6 5) (up.extractLsb' 1 5) (lo.extractLsb' 0 1))
  else if lo.extractLsb' 1 4 = 3#4 ∧ up.extractLsb' 0 1 = 0#1 then some (.atomAnd g (up.extractLsb' 11 5) (up.extractLsb' 6 5) (up.extractLsb' 1 5) (lo.extractLsb' 0 1))
  else if lo.extractLsb' 1 4 = 4#4 ∧ up.extractLsb' 0 1 = 0#1 then some (.atomOr g (up.extractLsb' 11 5) (up.extractLsb' 6 5) (up.extractLsb' 1 5) (lo.extractLsb' 0 1))
  else if lo.extractLsb' 1 4 = 5#4 ∧ up.extractLsb' 0 1 = 0#1 then some (.atomXor g (up.extractLsb' 11 5) (up.extractLsb' 6 5) (up.extractLsb' 1 5) (lo.extractLsb' 0 1))
  else if lo.extractLsb' 1 4 = 6#4 ∧ up.extractLsb' 0 1 = 0#1 then some (.atomXchg g (up.extractLsb' 11 5) (up.extractLsb' 6 5) (up.extractLsb' 1 5) (lo.extractLsb' 0 1))
  else if lo.extractLsb' 1 4 = 7#4 ∧ up.extractLsb' 0 1 = 0#1 then some (.atomCas g (up.extractLsb' 11 5) (up.extractLsb' 6 5) (up.extractLsb' 1 5) (lo.extractLsb' 0 1))
  else if lo = 16#5 ∧ up.extractLsb' 0 1 = 0#1 then some (.atomFaddF32 g (up.extractLsb' 11 5) (up.extractLsb' 6 5) (up.extractLsb' 1 5))
  else if lo = 17#5 ∧ up.extractLsb' 11 5 = 0#5 ∧ up.extractLsb' 0 1 = 0#1 then some (.redAddW g (up.extractLsb' 6 5) (up.extractLsb' 1 5))
  else if lo = 18#5 ∧ up.extractLsb' 11 5 = 0#5 ∧ up.extractLsb' 0 1 = 0#1 then some (.redAddD g (up.extractLsb' 6 5) (up.extractLsb' 1 5))
  else if lo = 19#5 ∧ up.extractLsb' 11 5 = 0#5 ∧ up.extractLsb' 0 1 = 0#1 then some (.redMinW g (up.extractLsb' 6 5) (up.extractLsb' 1 5))
  else if lo = 20#5 ∧ up.extractLsb' 11 5 = 0#5 ∧ up.extractLsb' 0 1 = 0#1 then some (.redMinD g (up.extractLsb' 6 5) (up.extractLsb' 1 5))
  else if lo = 21#5 ∧ up.extractLsb' 11 5 = 0#5 ∧ up.extractLsb' 0 1 = 0#1 then some (.redMaxW g (up.extractLsb' 6 5) (up.extractLsb' 1 5))
  else if lo = 22#5 ∧ up.extractLsb' 11 5 = 0#5 ∧ up.extractLsb' 0 1 = 0#1 then some (.redMaxD g (up.extractLsb' 6 5) (up.extractLsb' 1 5))
  else if lo = 23#5 ∧ up.extractLsb' 11 5 = 0#5 ∧ up.extractLsb' 0 1 = 0#1 then some (.redAndW g (up.extractLsb' 6 5) (up.extractLsb' 1 5))
  else if lo = 24#5 ∧ up.extractLsb' 11 5 = 0#5 ∧ up.extractLsb' 0 1 = 0#1 then some (.redAndD g (up.extractLsb' 6 5) (up.extractLsb' 1 5))
  else if lo = 25#5 ∧ up.extractLsb' 11 5 = 0#5 ∧ up.extractLsb' 0 1 = 0#1 then some (.redOrW g (up.extractLsb' 6 5) (up.extractLsb' 1 5))
  else if lo = 26#5 ∧ up.extractLsb' 11 5 = 0#5 ∧ up.extractLsb' 0 1 = 0#1 then some (.redOrD g (up.extractLsb' 6 5) (up.extractLsb' 1 5))
  else if lo = 27#5 ∧ up.extractLsb' 11 5 = 0#5 ∧ up.extractLsb' 0 1 = 0#1 then some (.redXorW g (up.extractLsb' 6 5) (up.extractLsb' 1 5))
  else if lo = 28#5 ∧ up.extractLsb' 11 5 = 0#5 ∧ up.extractLsb' 0 1 = 0#1 then some (.redXorD g (up.extractLsb' 6 5) (up.extractLsb' 1 5))
  else if lo = 29#5 ∧ up.extractLsb' 11 5 = 0#5 ∧ up.extractLsb' 0 1 = 0#1 then some (.redAddF32 g (up.extractLsb' 6 5) (up.extractLsb' 1 5))
  else none

/-- Major 0x2E (R239, R240, R242). -/
noncomputable def decodeMaj2E (g : BitVec 3) (lo : BitVec 5) (up : BitVec 16) : Option Instr :=
  if lo.extractLsb' 1 4 = 0#4 ∧ up.extractLsb' 5 1 = 0#1 ∧ up.extractLsb' 0 1 = 0#1 then (Scope.ofCode (up.extractLsb' 1 3).toNat).bind fun s => some (.lda g (up.extractLsb' 11 5) (up.extractLsb' 6 5) (up.extractLsb' 4 1) s (lo.extractLsb' 0 1))
  else if lo.extractLsb' 1 4 = 1#4 ∧ up.extractLsb' 15 1 = 0#1 ∧ up.extractLsb' 0 1 = 0#1 then (Scope.ofCode (up.extractLsb' 11 3).toNat).bind fun s => some (.stl g (up.extractLsb' 14 1) s (up.extractLsb' 6 5) (up.extractLsb' 1 5) (lo.extractLsb' 0 1))
  else if lo.extractLsb' 2 3 = 1#3 ∧ up.extractLsb' 11 5 = 0#5 ∧ up.extractLsb' 0 1 = 0#1 then some (.str g (up.extractLsb' 6 5) (up.extractLsb' 1 5) (lo.extractLsb' 0 2))
  else none

/-- Major 0x2F (R249, R251, R252, R253). -/
noncomputable def decodeMaj2F (g : BitVec 3) (lo : BitVec 5) (up : BitVec 16) : Option Instr :=
  if lo = 0#5 ∧ up.extractLsb' 0 6 = 0#6 then some (.ldfe g (up.extractLsb' 11 5) (up.extractLsb' 6 5))
  else if lo = 1#5 ∧ up.extractLsb' 0 6 = 0#6 then some (.ldff g (up.extractLsb' 11 5) (up.extractLsb' 6 5))
  else if lo = 2#5 ∧ up.extractLsb' 11 5 = 0#5 ∧ up.extractLsb' 0 1 = 0#1 then some (.stfl g (up.extractLsb' 6 5) (up.extractLsb' 1 5))
  else if lo = 3#5 ∧ up.extractLsb' 11 5 = 0#5 ∧ up.extractLsb' 0 6 = 0#6 then some (.feclr g (up.extractLsb' 6 5))
  else if lo = 4#5 ∧ up.extractLsb' 14 2 = 0#2 ∧ up.extractLsb' 0 6 = 0#6 then some (.lock g (up.extractLsb' 11 3) (up.extractLsb' 6 5))
  else if lo = 5#5 ∧ up.extractLsb' 11 5 = 0#5 ∧ up.extractLsb' 0 6 = 0#6 then some (.unlock g (up.extractLsb' 6 5))
  else if lo = 6#5 ∧ up.extractLsb' 14 2 = 0#2 ∧ up.extractLsb' 0 6 = 0#6 then some (.pinL g (up.extractLsb' 11 3) (up.extractLsb' 6 5))
  else if lo = 7#5 ∧ up.extractLsb' 11 5 = 0#5 ∧ up.extractLsb' 0 6 = 0#6 then some (.unpinL g (up.extractLsb' 6 5))
  else if lo = 8#5 ∧ up.extractLsb' 14 2 = 0#2 ∧ up.extractLsb' 0 6 = 0#6 then some (.plockL g (up.extractLsb' 11 3) (up.extractLsb' 6 5))
  else if lo = 9#5 ∧ up.extractLsb' 11 5 = 0#5 ∧ up.extractLsb' 0 6 = 0#6 then some (.punlockL g (up.extractLsb' 6 5))
  else none

/-- Major 0x30 (R284). -/
noncomputable def decodeMaj30 (g : BitVec 3) (lo : BitVec 5) (up : BitVec 16) : Option Instr :=
  if lo = 0#5 ∧ up.extractLsb' 12 4 = 0#4 then (Scope.ofCode (up.extractLsb' 0 3).toNat).bind fun s => some (.fenceAcq g (up.extractLsb' 11 1) (up.extractLsb' 3 8) s)
  else if lo = 0#5 ∧ up.extractLsb' 12 4 = 1#4 then (Scope.ofCode (up.extractLsb' 0 3).toNat).bind fun s => some (.fenceRel g (up.extractLsb' 11 1) (up.extractLsb' 3 8) s)
  else if lo = 0#5 ∧ up.extractLsb' 12 4 = 2#4 then (Scope.ofCode (up.extractLsb' 0 3).toNat).bind fun s => some (.fenceAr g (up.extractLsb' 11 1) (up.extractLsb' 3 8) s)
  else none

/-- Major 0x31 (R256, R258). -/
noncomputable def decodeMaj31 (g : BitVec 3) (lo : BitVec 5) (up : BitVec 16) : Option Instr :=
  if lo = 0#5 ∧ up.extractLsb' 11 5 = 0#5 ∧ up.extractLsb' 2 4 = 0#4 then some (.monArm g (up.extractLsb' 6 5) (up.extractLsb' 0 2))
  else if lo = 1#5 ∧ up.extractLsb' 2 14 = 0#14 then some (.monDisarm g (up.extractLsb' 0 2))
  else if lo = 2#5 ∧ up.extractLsb' 0 6 = 0#6 then some (.monWait g (up.extractLsb' 11 5) (up.extractLsb' 6 5))
  else none

/-- Major 0x38 (R304, R305, R306, R309). -/
noncomputable def decodeMaj38 (g : BitVec 3) (lo : BitVec 5) (up : BitVec 16) : Option Instr :=
  if lo = 0#5 ∧ up.extractLsb' 14 2 = 0#2 ∧ up.extractLsb' 1 5 = 0#5 then some (.taskSpawn g (up.extractLsb' 11 3) (up.extractLsb' 6 5) (up.extractLsb' 0 1))
  else if lo = 1#5 ∧ up = 0#16 then some (.taskNext g)
  else if lo = 2#5 ∧ up = 0#16 then some (.taskDone g)
  else if lo = 3#5 ∧ up.extractLsb' 11 5 = 0#5 ∧ up.extractLsb' 0 6 = 0#6 then some (.taskYield g (up.extractLsb' 6 5))
  else if lo = 4#5 ∧ up.extractLsb' 0 6 = 0#6 then some (.cancel g (up.extractLsb' 11 5) (up.extractLsb' 6 5))
  else if lo = 5#5 ∧ up.extractLsb' 3 8 = 0#8 then some (.taskInfo g (up.extractLsb' 11 5) (up.extractLsb' 0 3))
  else none

/-- Major 0x39 (R314, R316). -/
noncomputable def decodeMaj39 (g : BitVec 3) (lo : BitVec 5) (up : BitVec 16) : Option Instr :=
  if lo = 0#5 ∧ up.extractLsb' 14 2 = 0#2 ∧ up.extractLsb' 1 5 = 0#5 then some (.gjoin g (up.extractLsb' 11 3) (up.extractLsb' 6 5) (up.extractLsb' 0 1))
  else if lo = 1#5 ∧ up.extractLsb' 11 5 = 0#5 ∧ up.extractLsb' 0 6 = 0#6 then some (.gleave g (up.extractLsb' 6 5))
  else if lo = 2#5 ∧ up.extractLsb' 14 2 = 0#2 ∧ up.extractLsb' 0 6 = 0#6 then some (.bar g (up.extractLsb' 11 3) (up.extractLsb' 6 5))
  else if lo = 3#5 ∧ up.extractLsb' 0 6 = 0#6 then some (.barArr g (up.extractLsb' 11 5) (up.extractLsb' 6 5))
  else if lo = 4#5 ∧ up.extractLsb' 14 2 = 0#2 ∧ up.extractLsb' 0 6 = 0#6 then some (.barWait g (up.extractLsb' 11 3) (up.extractLsb' 6 5))
  else none

/-- Major 0x40 (R138). -/
def decodeMaj40 (g : BitVec 3) (lo : BitVec 5) (up : BitVec 16) : Option Instr :=
  if lo = 0#5 ∧ up.extractLsb' 3 1 = 0#1 then (RMode.ofCode (up.extractLsb' 0 3).toNat).bind fun m => some (.vaddF g (up.extractLsb' 12 4) (up.extractLsb' 8 4) (up.extractLsb' 4 4) m)
  else if lo = 1#5 ∧ up.extractLsb' 3 1 = 0#1 then (RMode.ofCode (up.extractLsb' 0 3).toNat).bind fun m => some (.vsubF g (up.extractLsb' 12 4) (up.extractLsb' 8 4) (up.extractLsb' 4 4) m)
  else if lo = 2#5 ∧ up.extractLsb' 3 1 = 0#1 then (RMode.ofCode (up.extractLsb' 0 3).toNat).bind fun m => some (.vmulF g (up.extractLsb' 12 4) (up.extractLsb' 8 4) (up.extractLsb' 4 4) m)
  else if lo = 3#5 ∧ up.extractLsb' 3 1 = 0#1 then (RMode.ofCode (up.extractLsb' 0 3).toNat).bind fun m => some (.vdivF g (up.extractLsb' 12 4) (up.extractLsb' 8 4) (up.extractLsb' 4 4) m)
  else if lo = 4#5 ∧ up.extractLsb' 0 4 = 0#4 then some (.vminF g (up.extractLsb' 12 4) (up.extractLsb' 8 4) (up.extractLsb' 4 4))
  else if lo = 5#5 ∧ up.extractLsb' 0 4 = 0#4 then some (.vmaxF g (up.extractLsb' 12 4) (up.extractLsb' 8 4) (up.extractLsb' 4 4))
  else if lo = 6#5 ∧ up.extractLsb' 3 1 = 0#1 then (RMode.ofCode (up.extractLsb' 0 3).toNat).bind fun m => some (.vfmaF g (up.extractLsb' 12 4) (up.extractLsb' 8 4) (up.extractLsb' 4 4) m)
  else if lo = 7#5 ∧ up.extractLsb' 3 1 = 0#1 then (RMode.ofCode (up.extractLsb' 0 3).toNat).bind fun m => some (.vfmsF g (up.extractLsb' 12 4) (up.extractLsb' 8 4) (up.extractLsb' 4 4) m)
  else none

/-- Major 0x41 (R138, R84). -/
def decodeMaj41 (g : BitVec 3) (lo : BitVec 5) (up : BitVec 16) : Option Instr :=
  if lo = 0#5 ∧ up.extractLsb' 3 5 = 0#5 then (RMode.ofCode (up.extractLsb' 0 3).toNat).bind fun m => some (.vsqrt g (up.extractLsb' 12 4) (up.extractLsb' 8 4) m)
  else if lo = 1#5 ∧ up.extractLsb' 3 5 = 0#5 then (RMode.ofCode (up.extractLsb' 0 3).toNat).bind fun m => some (.vrcp g (up.extractLsb' 12 4) (up.extractLsb' 8 4) m)
  else if lo = 2#5 ∧ up.extractLsb' 3 5 = 0#5 then (RMode.ofCode (up.extractLsb' 0 3).toNat).bind fun m => some (.vrsq g (up.extractLsb' 12 4) (up.extractLsb' 8 4) m)
  else if lo = 3#5 ∧ up.extractLsb' 3 5 = 0#5 then (RMode.ofCode (up.extractLsb' 0 3).toNat).bind fun m => some (.vexp2 g (up.extractLsb' 12 4) (up.extractLsb' 8 4) m)
  else if lo = 4#5 ∧ up.extractLsb' 3 5 = 0#5 then (RMode.ofCode (up.extractLsb' 0 3).toNat).bind fun m => some (.vlog2 g (up.extractLsb' 12 4) (up.extractLsb' 8 4) m)
  else if lo = 5#5 ∧ up.extractLsb' 0 8 = 0#8 then some (.vnegF g (up.extractLsb' 12 4) (up.extractLsb' 8 4))
  else if lo = 6#5 ∧ up.extractLsb' 0 8 = 0#8 then some (.vabsF g (up.extractLsb' 12 4) (up.extractLsb' 8 4))
  else if lo = 7#5 ∧ up.extractLsb' 0 4 = 0#4 then some (.vcpysF g (up.extractLsb' 12 4) (up.extractLsb' 8 4) (up.extractLsb' 4 4))
  else if lo = 8#5 ∧ up.extractLsb' 0 8 = 0#8 then some (.vclassF g (up.extractLsb' 12 4) (up.extractLsb' 8 4))
  else if lo = 9#5 ∧ up.extractLsb' 3 5 = 0#5 then (RMode.ofCode (up.extractLsb' 0 3).toNat).bind fun m => some (.vrndF g (up.extractLsb' 12 4) (up.extractLsb' 8 4) m)
  else none

/-- Major 0x42 (R139). -/
def decodeMaj42 (g : BitVec 3) (lo : BitVec 5) (up : BitVec 16) : Option Instr :=
  if lo = 0#5 ∧ up.extractLsb' 0 4 = 0#4 then some (.vaddI g (up.extractLsb' 12 4) (up.extractLsb' 8 4) (up.extractLsb' 4 4))
  else if lo = 1#5 ∧ up.extractLsb' 0 4 = 0#4 then some (.vsubI g (up.extractLsb' 12 4) (up.extractLsb' 8 4) (up.extractLsb' 4 4))
  else if lo = 2#5 ∧ up.extractLsb' 0 4 = 0#4 then some (.vmulI g (up.extractLsb' 12 4) (up.extractLsb' 8 4) (up.extractLsb' 4 4))
  else if lo = 3#5 ∧ up.extractLsb' 0 4 = 0#4 then some (.vmulhI g (up.extractLsb' 12 4) (up.extractLsb' 8 4) (up.extractLsb' 4 4))
  else if lo = 4#5 ∧ up.extractLsb' 0 4 = 0#4 then some (.vmulhU g (up.extractLsb' 12 4) (up.extractLsb' 8 4) (up.extractLsb' 4 4))
  else if lo = 5#5 ∧ up.extractLsb' 0 4 = 0#4 then some (.vminI g (up.extractLsb' 12 4) (up.extractLsb' 8 4) (up.extractLsb' 4 4))
  else if lo = 6#5 ∧ up.extractLsb' 0 4 = 0#4 then some (.vminU g (up.extractLsb' 12 4) (up.extractLsb' 8 4) (up.extractLsb' 4 4))
  else if lo = 7#5 ∧ up.extractLsb' 0 4 = 0#4 then some (.vmaxI g (up.extractLsb' 12 4) (up.extractLsb' 8 4) (up.extractLsb' 4 4))
  else if lo = 8#5 ∧ up.extractLsb' 0 4 = 0#4 then some (.vmaxU g (up.extractLsb' 12 4) (up.extractLsb' 8 4) (up.extractLsb' 4 4))
  else if lo = 9#5 ∧ up.extractLsb' 0 4 = 0#4 then some (.vaddsI g (up.extractLsb' 12 4) (up.extractLsb' 8 4) (up.extractLsb' 4 4))
  else if lo = 10#5 ∧ up.extractLsb' 0 4 = 0#4 then some (.vsubsI g (up.extractLsb' 12 4) (up.extractLsb' 8 4) (up.extractLsb' 4 4))
  else if lo = 11#5 ∧ up.extractLsb' 0 4 = 0#4 then some (.vaddsU g (up.extractLsb' 12 4) (up.extractLsb' 8 4) (up.extractLsb' 4 4))
  else if lo = 12#5 ∧ up.extractLsb' 0 4 = 0#4 then some (.vsubsU g (up.extractLsb' 12 4) (up.extractLsb' 8 4) (up.extractLsb' 4 4))
  else if lo = 13#5 ∧ up.extractLsb' 0 8 = 0#8 then some (.vabsI g (up.extractLsb' 12 4) (up.extractLsb' 8 4))
  else if lo = 14#5 ∧ up.extractLsb' 0 8 = 0#8 then some (.vnegI g (up.extractLsb' 12 4) (up.extractLsb' 8 4))
  else if lo = 15#5 ∧ up.extractLsb' 0 4 = 0#4 then some (.vmaddI g (up.extractLsb' 12 4) (up.extractLsb' 8 4) (up.extractLsb' 4 4))
  else none

/-- Major 0x43 (R139). -/
def decodeMaj43 (g : BitVec 3) (lo : BitVec 5) (up : BitVec 16) : Option Instr :=
  if lo = 0#5 ∧ up.extractLsb' 0 4 = 0#4 then some (.vand g (up.extractLsb' 12 4) (up.extractLsb' 8 4) (up.extractLsb' 4 4))
  else if lo = 1#5 ∧ up.extractLsb' 0 4 = 0#4 then some (.vor g (up.extractLsb' 12 4) (up.extractLsb' 8 4) (up.extractLsb' 4 4))
  else if lo = 2#5 ∧ up.extractLsb' 0 4 = 0#4 then some (.vxor g (up.extractLsb' 12 4) (up.extractLsb' 8 4) (up.extractLsb' 4 4))
  else if lo = 3#5 ∧ up.extractLsb' 0 4 = 0#4 then some (.vandn g (up.extractLsb' 12 4) (up.extractLsb' 8 4) (up.extractLsb' 4 4))
  else if lo = 4#5 ∧ up.extractLsb' 0 8 = 0#8 then some (.vnot g (up.extractLsb' 12 4) (up.extractLsb' 8 4))
  else if lo = 5#5 ∧ up.extractLsb' 0 4 = 0#4 then some (.vshl g (up.extractLsb' 12 4) (up.extractLsb' 8 4) (up.extractLsb' 4 4))
  else if lo = 6#5 ∧ up.extractLsb' 0 4 = 0#4 then some (.vshr g (up.extractLsb' 12 4) (up.extractLsb' 8 4) (up.extractLsb' 4 4))
  else if lo = 7#5 ∧ up.extractLsb' 0 4 = 0#4 then some (.vsra g (up.extractLsb' 12 4) (up.extractLsb' 8 4) (up.extractLsb' 4 4))
  else if lo = 8#5 ∧ up.extractLsb' 5 3 = 0#3 then some (.vshli g (up.extractLsb' 12 4) (up.extractLsb' 8 4) (up.extractLsb' 0 5))
  else if lo = 9#5 ∧ up.extractLsb' 5 3 = 0#3 then some (.vshri g (up.extractLsb' 12 4) (up.extractLsb' 8 4) (up.extractLsb' 0 5))
  else if lo = 10#5 ∧ up.extractLsb' 5 3 = 0#3 then some (.vsrai g (up.extractLsb' 12 4) (up.extractLsb' 8 4) (up.extractLsb' 0 5))
  else if lo = 11#5 ∧ up.extractLsb' 0 8 = 0#8 then some (.vpopc g (up.extractLsb' 12 4) (up.extractLsb' 8 4))
  else if lo = 12#5 ∧ up.extractLsb' 0 8 = 0#8 then some (.vclz g (up.extractLsb' 12 4) (up.extractLsb' 8 4))
  else none

/-- Major 0x44 (R140). -/
def decodeMaj44 (g : BitVec 3) (lo : BitVec 5) (up : BitVec 16) : Option Instr :=
  if lo = 0#5 ∧ up.extractLsb' 0 4 = 0#4 then some (.vfcmpEq g (up.extractLsb' 12 4) (up.extractLsb' 8 4) (up.extractLsb' 4 4))
  else if lo = 1#5 ∧ up.extractLsb' 0 4 = 0#4 then some (.vfcmpLt g (up.extractLsb' 12 4) (up.extractLsb' 8 4) (up.extractLsb' 4 4))
  else if lo = 2#5 ∧ up.extractLsb' 0 4 = 0#4 then some (.vfcmpLe g (up.extractLsb' 12 4) (up.extractLsb' 8 4) (up.extractLsb' 4 4))
  else if lo = 3#5 ∧ up.extractLsb' 0 4 = 0#4 then some (.vfcmpUn g (up.extractLsb' 12 4) (up.extractLsb' 8 4) (up.extractLsb' 4 4))
  else if lo = 4#5 ∧ up.extractLsb' 0 4 = 0#4 then some (.vfcmpNe g (up.extractLsb' 12 4) (up.extractLsb' 8 4) (up.extractLsb' 4 4))
  else if lo = 5#5 ∧ up.extractLsb' 0 4 = 0#4 then some (.vcmpEq g (up.extractLsb' 12 4) (up.extractLsb' 8 4) (up.extractLsb' 4 4))
  else if lo = 6#5 ∧ up.extractLsb' 0 4 = 0#4 then some (.vcmpNe g (up.extractLsb' 12 4) (up.extractLsb' 8 4) (up.extractLsb' 4 4))
  else if lo = 7#5 ∧ up.extractLsb' 0 4 = 0#4 then some (.vcmpLt g (up.extractLsb' 12 4) (up.extractLsb' 8 4) (up.extractLsb' 4 4))
  else if lo = 8#5 ∧ up.extractLsb' 0 4 = 0#4 then some (.vcmpLe g (up.extractLsb' 12 4) (up.extractLsb' 8 4) (up.extractLsb' 4 4))
  else if lo = 9#5 ∧ up.extractLsb' 0 4 = 0#4 then some (.vcmpLtu g (up.extractLsb' 12 4) (up.extractLsb' 8 4) (up.extractLsb' 4 4))
  else if lo = 10#5 ∧ up.extractLsb' 0 4 = 0#4 then some (.vcmpLeu g (up.extractLsb' 12 4) (up.extractLsb' 8 4) (up.extractLsb' 4 4))
  else none

/-- Major 0x45 (R141). -/
def decodeMaj45 (g : BitVec 3) (lo : BitVec 5) (up : BitVec 16) : Option Instr :=
  if lo = 0#5 then some (.vsel g (up.extractLsb' 12 4) (up.extractLsb' 8 4) (up.extractLsb' 4 4) (up.extractLsb' 0 4))
  else if lo = 1#5 ∧ up.extractLsb' 15 1 = 0#1 ∧ up.extractLsb' 0 8 = 0#8 then some (.vany g (up.extractLsb' 12 3) (up.extractLsb' 8 4))
  else if lo = 2#5 ∧ up.extractLsb' 15 1 = 0#1 ∧ up.extractLsb' 0 8 = 0#8 then some (.vall g (up.extractLsb' 12 3) (up.extractLsb' 8 4))
  else none

/-- Major 0x46 (R143). -/
def decodeMaj46 (g : BitVec 3) (lo : BitVec 5) (up : BitVec 16) : Option Instr :=
  if lo = 0#5 ∧ up.extractLsb' 3 5 = 0#5 then (RMode.ofCode (up.extractLsb' 0 3).toNat).bind fun m => some (.vcvtFI g (up.extractLsb' 12 4) (up.extractLsb' 8 4) m)
  else if lo = 1#5 ∧ up.extractLsb' 3 5 = 0#5 then (RMode.ofCode (up.extractLsb' 0 3).toNat).bind fun m => some (.vcvtFU g (up.extractLsb' 12 4) (up.extractLsb' 8 4) m)
  else if lo = 2#5 ∧ up.extractLsb' 3 5 = 0#5 then (RMode.ofCode (up.extractLsb' 0 3).toNat).bind fun m => some (.vcvtIF g (up.extractLsb' 12 4) (up.extractLsb' 8 4) m)
  else if lo = 3#5 ∧ up.extractLsb' 3 5 = 0#5 then (RMode.ofCode (up.extractLsb' 0 3).toNat).bind fun m => some (.vcvtUF g (up.extractLsb' 12 4) (up.extractLsb' 8 4) m)
  else if lo = 4#5 ∧ up.extractLsb' 3 1 = 0#1 then (RMode.ofCode (up.extractLsb' 0 3).toNat).bind fun m => some (.vpackF16 g (up.extractLsb' 12 4) (up.extractLsb' 8 4) (up.extractLsb' 4 4) m)
  else if lo = 5#5 ∧ up.extractLsb' 3 1 = 0#1 then (RMode.ofCode (up.extractLsb' 0 3).toNat).bind fun m => some (.vpackBf16 g (up.extractLsb' 12 4) (up.extractLsb' 8 4) (up.extractLsb' 4 4) m)
  else if lo = 6#5 ∧ up.extractLsb' 3 1 = 0#1 then (RMode.ofCode (up.extractLsb' 0 3).toNat).bind fun m => some (.vpackE4m3Lo g (up.extractLsb' 12 4) (up.extractLsb' 8 4) (up.extractLsb' 4 4) m)
  else if lo = 7#5 ∧ up.extractLsb' 3 1 = 0#1 then (RMode.ofCode (up.extractLsb' 0 3).toNat).bind fun m => some (.vpackE4m3Hi g (up.extractLsb' 12 4) (up.extractLsb' 8 4) (up.extractLsb' 4 4) m)
  else if lo = 8#5 ∧ up.extractLsb' 3 1 = 0#1 then (RMode.ofCode (up.extractLsb' 0 3).toNat).bind fun m => some (.vpackE5m2Lo g (up.extractLsb' 12 4) (up.extractLsb' 8 4) (up.extractLsb' 4 4) m)
  else if lo = 9#5 ∧ up.extractLsb' 3 1 = 0#1 then (RMode.ofCode (up.extractLsb' 0 3).toNat).bind fun m => some (.vpackE5m2Hi g (up.extractLsb' 12 4) (up.extractLsb' 8 4) (up.extractLsb' 4 4) m)
  else if lo = 10#5 ∧ up.extractLsb' 0 4 = 0#4 then some (.vpackI16 g (up.extractLsb' 12 4) (up.extractLsb' 8 4) (up.extractLsb' 4 4))
  else if lo = 11#5 ∧ up.extractLsb' 0 4 = 0#4 then some (.vpackI8Lo g (up.extractLsb' 12 4) (up.extractLsb' 8 4) (up.extractLsb' 4 4))
  else if lo = 12#5 ∧ up.extractLsb' 0 4 = 0#4 then some (.vpackI8Hi g (up.extractLsb' 12 4) (up.extractLsb' 8 4) (up.extractLsb' 4 4))
  else if lo = 13#5 ∧ up.extractLsb' 1 7 = 0#7 then some (.vunpkF16 g (up.extractLsb' 12 4) (up.extractLsb' 8 4) (up.extractLsb' 0 1))
  else if lo = 14#5 ∧ up.extractLsb' 1 7 = 0#7 then some (.vunpkBf16 g (up.extractLsb' 12 4) (up.extractLsb' 8 4) (up.extractLsb' 0 1))
  else if lo = 15#5 ∧ up.extractLsb' 2 6 = 0#6 then some (.vunpkE4m3 g (up.extractLsb' 12 4) (up.extractLsb' 8 4) (up.extractLsb' 0 2))
  else if lo = 16#5 ∧ up.extractLsb' 2 6 = 0#6 then some (.vunpkE5m2 g (up.extractLsb' 12 4) (up.extractLsb' 8 4) (up.extractLsb' 0 2))
  else if lo = 17#5 ∧ up.extractLsb' 6 2 = 0#2 ∧ up.extractLsb' 2 2 = 0#2 then some (.vunpkTc8 g (up.extractLsb' 12 4) (up.extractLsb' 8 4) (up.extractLsb' 4 2) (up.extractLsb' 0 2))
  else if lo = 18#5 ∧ up.extractLsb' 1 7 = 0#7 then some (.vunpkI16 g (up.extractLsb' 12 4) (up.extractLsb' 8 4) (up.extractLsb' 0 1))
  else if lo = 19#5 ∧ up.extractLsb' 2 6 = 0#6 then some (.vunpkI8 g (up.extractLsb' 12 4) (up.extractLsb' 8 4) (up.extractLsb' 0 2))
  else none

/-- Major 0x47 (R144, R145, R146). -/
noncomputable def decodeMaj47 (g : BitVec 3) (lo : BitVec 5) (up : BitVec 16) : Option Instr :=
  if lo = 0#5 ∧ up.extractLsb' 3 5 = 0#5 then (RMode.ofCode (up.extractLsb' 0 3).toNat).bind fun m => some (.vredAddF g (up.extractLsb' 12 4) (up.extractLsb' 8 4) m)
  else if lo = 1#5 ∧ up.extractLsb' 0 8 = 0#8 then some (.vredMinF g (up.extractLsb' 12 4) (up.extractLsb' 8 4))
  else if lo = 2#5 ∧ up.extractLsb' 0 8 = 0#8 then some (.vredMaxF g (up.extractLsb' 12 4) (up.extractLsb' 8 4))
  else if lo = 3#5 ∧ up.extractLsb' 0 8 = 0#8 then some (.vredAddI g (up.extractLsb' 12 4) (up.extractLsb' 8 4))
  else if lo = 4#5 ∧ up.extractLsb' 0 8 = 0#8 then some (.vredMinI g (up.extractLsb' 12 4) (up.extractLsb' 8 4))
  else if lo = 5#5 ∧ up.extractLsb' 0 8 = 0#8 then some (.vredMaxI g (up.extractLsb' 12 4) (up.extractLsb' 8 4))
  else if lo = 6#5 ∧ up.extractLsb' 0 8 = 0#8 then some (.vredMinU g (up.extractLsb' 12 4) (up.extractLsb' 8 4))
  else if lo = 7#5 ∧ up.extractLsb' 0 8 = 0#8 then some (.vredMaxU g (up.extractLsb' 12 4) (up.extractLsb' 8 4))
  else if lo = 8#5 ∧ up.extractLsb' 3 5 = 0#5 then (RMode.ofCode (up.extractLsb' 0 3).toNat).bind fun m => some (.vscanAddF g (up.extractLsb' 12 4) (up.extractLsb' 8 4) m)
  else if lo = 9#5 ∧ up.extractLsb' 0 8 = 0#8 then some (.vscanAddI g (up.extractLsb' 12 4) (up.extractLsb' 8 4))
  else none

/-- Major 0x48 (R142). -/
noncomputable def decodeMaj48 (g : BitVec 3) (lo : BitVec 5) (up : BitVec 16) : Option Instr :=
  if lo = 0#5 ∧ up.extractLsb' 0 8 = 0#8 then some (.vmov g (up.extractLsb' 12 4) (up.extractLsb' 8 4))
  else if lo = 1#5 ∧ up.extractLsb' 0 12 = 0#12 then some (.viota g (up.extractLsb' 12 4))
  else none

/-- Major 0x50 (R153, R155). -/
noncomputable def decodeMaj50 (g : BitVec 3) (lo : BitVec 5) (up : BitVec 16) : Option Instr :=
  if lo = 0#5 ∧ up.extractLsb' 8 4 = 0#4 ∧ up.extractLsb' 0 3 = 0#3 then some (.vld g (up.extractLsb' 12 4) (up.extractLsb' 3 5))
  else if lo = 1#5 ∧ up.extractLsb' 8 4 = 0#4 ∧ up.extractLsb' 0 3 = 0#3 then some (.vldL g (up.extractLsb' 12 4) (up.extractLsb' 3 5))
  else if lo = 2#5 ∧ up.extractLsb' 8 4 = 0#4 ∧ up.extractLsb' 0 3 = 0#3 then some (.vldx g (up.extractLsb' 12 4) (up.extractLsb' 3 5))
  else if lo = 3#5 ∧ up.extractLsb' 8 4 = 0#4 then some (.vlds g (up.extractLsb' 12 4) (up.extractLsb' 3 5) (up.extractLsb' 0 3))
  else if lo = 4#5 ∧ up.extractLsb' 8 4 = 0#4 then some (.vldsL g (up.extractLsb' 12 4) (up.extractLsb' 3 5) (up.extractLsb' 0 3))
  else if lo = 5#5 ∧ up.extractLsb' 0 3 = 0#3 then some (.vgth g (up.extractLsb' 12 4) (up.extractLsb' 8 4) (up.extractLsb' 3 5))
  else if lo = 6#5 ∧ up.extractLsb' 0 3 = 0#3 then some (.vgthL g (up.extractLsb' 12 4) (up.extractLsb' 8 4) (up.extractLsb' 3 5))
  else none

/-- Major 0x51 (R153, R156). -/
noncomputable def decodeMaj51 (g : BitVec 3) (lo : BitVec 5) (up : BitVec 16) : Option Instr :=
  if lo = 0#5 ∧ up.extractLsb' 12 4 = 0#4 ∧ up.extractLsb' 0 3 = 0#3 then some (.vst g (up.extractLsb' 8 4) (up.extractLsb' 3 5))
  else if lo = 1#5 ∧ up.extractLsb' 12 4 = 0#4 ∧ up.extractLsb' 0 3 = 0#3 then some (.vstL g (up.extractLsb' 8 4) (up.extractLsb' 3 5))
  else if lo = 2#5 ∧ up.extractLsb' 12 4 = 0#4 then some (.vsts g (up.extractLsb' 8 4) (up.extractLsb' 3 5) (up.extractLsb' 0 3))
  else if lo = 3#5 ∧ up.extractLsb' 12 4 = 0#4 then some (.vstsL g (up.extractLsb' 8 4) (up.extractLsb' 3 5) (up.extractLsb' 0 3))
  else if lo = 4#5 ∧ up.extractLsb' 0 3 = 0#3 then some (.vsct g (up.extractLsb' 12 4) (up.extractLsb' 8 4) (up.extractLsb' 3 5))
  else if lo = 5#5 ∧ up.extractLsb' 0 3 = 0#3 then some (.vsctL g (up.extractLsb' 12 4) (up.extractLsb' 8 4) (up.extractLsb' 3 5))
  else if lo = 6#5 ∧ up.extractLsb' 0 3 = 0#3 then some (.vstm g (up.extractLsb' 12 4) (up.extractLsb' 8 4) (up.extractLsb' 3 5))
  else if lo = 7#5 ∧ up.extractLsb' 0 3 = 0#3 then some (.vstmL g (up.extractLsb' 12 4) (up.extractLsb' 8 4) (up.extractLsb' 3 5))
  else none

/-- Major 0x52 (R147). -/
noncomputable def decodeMaj52 (g : BitVec 3) (lo : BitVec 5) (up : BitVec 16) : Option Instr :=
  if lo = 0#5 ∧ up.extractLsb' 0 4 = 0#4 then some (.vperm g (up.extractLsb' 12 4) (up.extractLsb' 8 4) (up.extractLsb' 4 4))
  else if lo = 1#5 ∧ up.extractLsb' 6 2 = 0#2 then some (.vrot g (up.extractLsb' 12 4) (up.extractLsb' 8 4) (up.extractLsb' 0 6))
  else if lo = 2#5 ∧ up.extractLsb' 6 2 = 0#2 then some (.vbcst g (up.extractLsb' 12 4) (up.extractLsb' 8 4) (up.extractLsb' 0 6))
  else if lo = 3#5 ∧ up.extractLsb' 0 4 = 0#4 then some (.vzipLo g (up.extractLsb' 12 4) (up.extractLsb' 8 4) (up.extractLsb' 4 4))
  else if lo = 4#5 ∧ up.extractLsb' 0 4 = 0#4 then some (.vzipHi g (up.extractLsb' 12 4) (up.extractLsb' 8 4) (up.extractLsb' 4 4))
  else if lo = 5#5 ∧ up.extractLsb' 0 4 = 0#4 then some (.vuzpEv g (up.extractLsb' 12 4) (up.extractLsb' 8 4) (up.extractLsb' 4 4))
  else if lo = 6#5 ∧ up.extractLsb' 0 4 = 0#4 then some (.vuzpOd g (up.extractLsb' 12 4) (up.extractLsb' 8 4) (up.extractLsb' 4 4))
  else none

/-- Major 0x53 (R148). -/
noncomputable def decodeMaj53 (g : BitVec 3) (lo : BitVec 5) (up : BitVec 16) : Option Instr :=
  if lo = 0#5 ∧ up.extractLsb' 7 1 = 0#1 ∧ up.extractLsb' 0 4 = 0#4 then some (.vrng g (up.extractLsb' 12 4) (up.extractLsb' 8 4) (up.extractLsb' 4 3))
  else if lo = 1#5 ∧ up.extractLsb' 7 1 = 0#1 ∧ up.extractLsb' 0 4 = 0#4 then some (.vrngU g (up.extractLsb' 12 4) (up.extractLsb' 8 4) (up.extractLsb' 4 3))
  else none

/-- Major 0x54 (R149). -/
noncomputable def decodeMaj54 (g : BitVec 3) (lo : BitVec 5) (up : BitVec 16) : Option Instr :=
  if lo = 0#5 ∧ up.extractLsb' 4 4 = 0#4 then some (.vfromt g (up.extractLsb' 12 4) (up.extractLsb' 8 4) (up.extractLsb' 0 4))
  else if lo = 1#5 ∧ up.extractLsb' 4 4 = 0#4 then some (.vtot g (up.extractLsb' 12 4) (up.extractLsb' 8 4) (up.extractLsb' 0 4))
  else if lo = 2#5 ∧ up.extractLsb' 0 1 = 0#1 then some (.vext g (up.extractLsb' 11 5) (up.extractLsb' 7 4) (up.extractLsb' 1 6))
  else if lo = 3#5 ∧ up.extractLsb' 0 1 = 0#1 then some (.vins g (up.extractLsb' 12 4) (up.extractLsb' 7 5) (up.extractLsb' 1 6))
  else if lo = 4#5 ∧ up.extractLsb' 0 7 = 0#7 then some (.vbcs g (up.extractLsb' 12 4) (up.extractLsb' 7 5))
  else none

/-- Major 0x58 (R177, R178, R179). -/
noncomputable def decodeMaj58 (g : BitVec 3) (lo : BitVec 5) (up : BitVec 16) : Option Instr :=
  if lo = 0#5 ∧ up.extractLsb' 0 3 = 0#3 then some (.tld g (up.extractLsb' 12 4) (up.extractLsb' 8 4) (up.extractLsb' 3 5))
  else if lo = 1#5 ∧ up.extractLsb' 0 3 = 0#3 then some (.tldT g (up.extractLsb' 12 4) (up.extractLsb' 8 4) (up.extractLsb' 3 5))
  else if lo = 2#5 ∧ up.extractLsb' 0 3 = 0#3 then some (.tldP6 g (up.extractLsb' 12 4) (up.extractLsb' 8 4) (up.extractLsb' 3 5))
  else none

/-- Major 0x59 (R180). -/
noncomputable def decodeMaj59 (g : BitVec 3) (lo : BitVec 5) (up : BitVec 16) : Option Instr :=
  if lo = 0#5 ∧ up.extractLsb' 0 3 = 0#3 then some (.tst g (up.extractLsb' 12 4) (up.extractLsb' 8 4) (up.extractLsb' 3 5))
  else none

/-- Major 0x5C (R182). -/
noncomputable def decodeMaj5C (g : BitVec 3) (lo : BitVec 5) (up : BitVec 16) : Option Instr :=
  if lo = 0#5 ∧ up.extractLsb' 0 8 = 0#8 then some (.tmov g (up.extractLsb' 12 4) (up.extractLsb' 8 4))
  else if lo = 1#5 ∧ up.extractLsb' 0 12 = 0#12 then some (.tzero g (up.extractLsb' 12 4))
  else none

/-- Major 0x5D (R184). -/
noncomputable def decodeMaj5D (g : BitVec 3) (lo : BitVec 5) (up : BitVec 16) : Option Instr :=
  (TileFmt.ofCode (up.extractLsb' 4 4).toNat).bind fun s => (TileFmt.ofCode lo.toNat).bind fun f => some (.tcvt g (up.extractLsb' 12 4) (up.extractLsb' 8 4) s (up.extractLsb' 2 2) (up.extractLsb' 0 2) f)

/-- Major 0x5E (R185). -/
noncomputable def decodeMaj5E (g : BitVec 3) (lo : BitVec 5) (up : BitVec 16) : Option Instr :=
  if up.extractLsb' 6 2 = 0#2 ∧ up.extractLsb' 3 1 = 0#1 then (RMode.ofCode (up.extractLsb' 0 3).toNat).bind fun m => (TileFmt.ofCode lo.toNat).bind fun f => some (.tred g (up.extractLsb' 12 4) (up.extractLsb' 8 4) (up.extractLsb' 4 2) m f)
  else none

/-- Major 0x68 (R187). -/
noncomputable def decodeMaj68 (g : BitVec 3) (lo : BitVec 5) (up : BitVec 16) : Option Instr :=
  if up.extractLsb' 14 2 = 0#2 ∧ up.extractLsb' 3 1 = 0#1 then (RMode.ofCode (up.extractLsb' 0 3).toNat).bind fun m => (MmaPair.ofCode lo.toNat).bind fun p => some (.mma g (up.extractLsb' 12 2) (up.extractLsb' 8 4) (up.extractLsb' 4 4) m p)
  else none

/-- Major 0x69 (R188). -/
noncomputable def decodeMaj69 (g : BitVec 3) (lo : BitVec 5) (up : BitVec 16) : Option Instr :=
  if up.extractLsb' 14 2 = 0#2 then (MmaPair.ofCode lo.toNat).bind fun p => some (.mmaSp g (up.extractLsb' 12 2) (up.extractLsb' 8 4) (up.extractLsb' 4 4) (up.extractLsb' 0 4) p)
  else none

/-- Major 0x6A (R189). -/
noncomputable def decodeMaj6A (g : BitVec 3) (lo : BitVec 5) (up : BitVec 16) : Option Instr :=
  if up.extractLsb' 14 2 = 0#2 then (TcPair.ofCode lo.toNat).bind fun p => some (.mmaTc g (up.extractLsb' 12 2) (up.extractLsb' 8 4) (up.extractLsb' 4 4) (up.extractLsb' 2 2) (up.extractLsb' 0 2) p)
  else none

/-- Major 0x6B (R190, R191). -/
noncomputable def decodeMaj6B (g : BitVec 3) (lo : BitVec 5) (up : BitVec 16) : Option Instr :=
  if lo = 0#5 ∧ up.extractLsb' 14 2 = 0#2 ∧ up.extractLsb' 0 12 = 0#12 then some (.czero g (up.extractLsb' 12 2))
  else if lo = 1#5 ∧ up.extractLsb' 14 2 = 0#2 ∧ up.extractLsb' 10 2 = 0#2 ∧ up.extractLsb' 0 8 = 0#8 then some (.cmov g (up.extractLsb' 12 2) (up.extractLsb' 8 2))
  else if lo = 2#5 ∧ up.extractLsb' 14 2 = 0#2 ∧ up.extractLsb' 0 8 = 0#8 then some (.cld g (up.extractLsb' 12 2) (up.extractLsb' 8 4))
  else if lo = 3#5 ∧ up.extractLsb' 14 2 = 0#2 ∧ up.extractLsb' 0 8 = 0#8 then some (.cst g (up.extractLsb' 12 2) (up.extractLsb' 8 4))
  else none

/-- Major 0x6C (R192, R193). -/
noncomputable def decodeMaj6C (g : BitVec 3) (lo : BitVec 5) (up : BitVec 16) : Option Instr :=
  if lo = 0#5 ∧ up.extractLsb' 10 2 = 0#2 ∧ up.extractLsb' 3 1 = 0#1 then (RMode.ofCode (up.extractLsb' 0 3).toNat).bind fun m => some (.ccvtE4m3 g (up.extractLsb' 12 4) (up.extractLsb' 8 2) (up.extractLsb' 4 4) m)
  else if lo = 1#5 ∧ up.extractLsb' 10 2 = 0#2 ∧ up.extractLsb' 3 1 = 0#1 then (RMode.ofCode (up.extractLsb' 0 3).toNat).bind fun m => some (.ccvtE5m2 g (up.extractLsb' 12 4) (up.extractLsb' 8 2) (up.extractLsb' 4 4) m)
  else if lo = 2#5 ∧ up.extractLsb' 10 2 = 0#2 ∧ up.extractLsb' 3 1 = 0#1 then (RMode.ofCode (up.extractLsb' 0 3).toNat).bind fun m => some (.ccvtF16 g (up.extractLsb' 12 4) (up.extractLsb' 8 2) (up.extractLsb' 4 4) m)
  else if lo = 3#5 ∧ up.extractLsb' 10 2 = 0#2 ∧ up.extractLsb' 3 1 = 0#1 then (RMode.ofCode (up.extractLsb' 0 3).toNat).bind fun m => some (.ccvtBf16 g (up.extractLsb' 12 4) (up.extractLsb' 8 2) (up.extractLsb' 4 4) m)
  else if lo = 4#5 ∧ up.extractLsb' 10 2 = 0#2 ∧ up.extractLsb' 3 1 = 0#1 then (RMode.ofCode (up.extractLsb' 0 3).toNat).bind fun m => some (.ccvtF32 g (up.extractLsb' 12 4) (up.extractLsb' 8 2) (up.extractLsb' 4 4) m)
  else if lo = 5#5 ∧ up.extractLsb' 10 2 = 0#2 ∧ up.extractLsb' 3 1 = 0#1 then (RMode.ofCode (up.extractLsb' 0 3).toNat).bind fun m => some (.ccvtF4 g (up.extractLsb' 12 4) (up.extractLsb' 8 2) (up.extractLsb' 4 4) m)
  else if lo = 6#5 ∧ up.extractLsb' 14 2 = 0#2 ∧ up.extractLsb' 10 2 = 0#2 ∧ up.extractLsb' 3 1 = 0#1 then (RMode.ofCode (up.extractLsb' 0 3).toNat).bind fun m => some (.csclR g (up.extractLsb' 12 2) (up.extractLsb' 8 2) (up.extractLsb' 4 4) m)
  else if lo = 7#5 ∧ up.extractLsb' 14 2 = 0#2 ∧ up.extractLsb' 10 2 = 0#2 ∧ up.extractLsb' 3 1 = 0#1 then (RMode.ofCode (up.extractLsb' 0 3).toNat).bind fun m => some (.csclC g (up.extractLsb' 12 2) (up.extractLsb' 8 2) (up.extractLsb' 4 4) m)
  else none

/-- Major 0x70 (R124). -/
def decodeMaj70 (g : BitVec 3) (lo : BitVec 5) (up : BitVec 16) : Option Instr :=
  if lo = 0#5 ∧ up.extractLsb' 8 4 = 0#4 ∧ up.extractLsb' 0 3 = 0#3 then some (.hld g (up.extractLsb' 12 4) (up.extractLsb' 3 5))
  else if lo = 1#5 ∧ up.extractLsb' 8 4 = 0#4 ∧ up.extractLsb' 0 3 = 0#3 then some (.hldL g (up.extractLsb' 12 4) (up.extractLsb' 3 5))
  else if lo = 2#5 ∧ up.extractLsb' 12 4 = 0#4 ∧ up.extractLsb' 0 3 = 0#3 then some (.hst g (up.extractLsb' 8 4) (up.extractLsb' 3 5))
  else if lo = 3#5 ∧ up.extractLsb' 12 4 = 0#4 ∧ up.extractLsb' 0 3 = 0#3 then some (.hstL g (up.extractLsb' 8 4) (up.extractLsb' 3 5))
  else if lo = 4#5 then some (.hsetd g (up.extractLsb' 12 4) (up.extractLsb' 8 4) (up.extractLsb' 3 5) (up.extractLsb' 0 3))
  else if lo = 5#5 ∧ up.extractLsb' 0 3 = 0#3 then some (.hoff g (up.extractLsb' 12 4) (up.extractLsb' 8 4) (up.extractLsb' 3 5))
  else none

/-- Major 0x71 (R127). -/
def decodeMaj71 (g : BitVec 3) (lo : BitVec 5) (up : BitVec 16) : Option Instr :=
  if lo = 0#5 ∧ up.extractLsb' 14 2 = 0#2 ∧ up.extractLsb' 0 6 = 0#6 then some (.xset g (up.extractLsb' 11 3) (up.extractLsb' 6 5))
  else if lo = 1#5 ∧ up.extractLsb' 9 2 = 0#2 ∧ up.extractLsb' 0 6 = 0#6 then some (.xget g (up.extractLsb' 11 5) (up.extractLsb' 6 3))
  else none

/-- Major 0x72 (R263, R266). -/
noncomputable def decodeMaj72 (g : BitVec 3) (lo : BitVec 5) (up : BitVec 16) : Option Instr :=
  if lo = 0#5 ∧ up.extractLsb' 0 3 = 0#3 then some (.copyG2l g (up.extractLsb' 12 4) (up.extractLsb' 8 4) (up.extractLsb' 3 5))
  else if lo = 1#5 ∧ up.extractLsb' 0 3 = 0#3 then some (.copyL2g g (up.extractLsb' 12 4) (up.extractLsb' 8 4) (up.extractLsb' 3 5))
  else if lo = 2#5 then some (.copyG2lB g (up.extractLsb' 12 4) (up.extractLsb' 8 4) (up.extractLsb' 3 5) (up.extractLsb' 0 3))
  else if lo = 3#5 then some (.copyL2gB g (up.extractLsb' 12 4) (up.extractLsb' 8 4) (up.extractLsb' 3 5) (up.extractLsb' 0 3))
  else if lo = 4#5 ∧ up.extractLsb' 8 8 = 0#8 ∧ up.extractLsb' 0 3 = 0#3 then some (.copyResume g (up.extractLsb' 3 5))
  else if lo = 5#5 ∧ up.extractLsb' 8 8 = 0#8 ∧ up.extractLsb' 0 3 = 0#3 then some (.copyCancel g (up.extractLsb' 3 5))
  else if lo = 6#5 ∧ up.extractLsb' 8 8 = 0#8 ∧ up.extractLsb' 0 3 = 0#3 then some (.copyChk g (up.extractLsb' 3 5))
  else none

/-- Major 0x74 (R194). -/
noncomputable def decodeMaj74 (g : BitVec 3) (lo : BitVec 5) (up : BitVec 16) : Option Instr :=
  if lo = 0#5 ∧ up.extractLsb' 14 2 = 0#2 ∧ up.extractLsb' 8 4 = 0#4 ∧ up.extractLsb' 0 3 = 0#3 then some (.cbkLd g (up.extractLsb' 12 2) (up.extractLsb' 3 5))
  else if lo = 1#5 ∧ up.extractLsb' 14 2 = 0#2 ∧ up.extractLsb' 8 4 = 0#4 ∧ up.extractLsb' 0 3 = 0#3 then some (.cbkLdL g (up.extractLsb' 12 2) (up.extractLsb' 3 5))
  else none

/-- Major 0x75 (R150, R151). -/
noncomputable def decodeMaj75 (g : BitVec 3) (lo : BitVec 5) (up : BitVec 16) : Option Instr :=
  if lo = 0#5 ∧ up.extractLsb' 2 2 = 0#2 then some (.cbkEncLo g (up.extractLsb' 12 4) (up.extractLsb' 8 4) (up.extractLsb' 4 4) (up.extractLsb' 0 2))
  else if lo = 1#5 ∧ up.extractLsb' 2 2 = 0#2 then some (.cbkEncHi g (up.extractLsb' 12 4) (up.extractLsb' 8 4) (up.extractLsb' 4 4) (up.extractLsb' 0 2))
  else if lo = 2#5 ∧ up.extractLsb' 3 1 = 0#1 then (RMode.ofCode (up.extractLsb' 0 3).toNat).bind fun m => some (.vencF4 g (up.extractLsb' 12 4) (up.extractLsb' 8 4) (up.extractLsb' 4 4) m)
  else if lo = 3#5 ∧ up.extractLsb' 1 7 = 0#7 then some (.vdecF4 g (up.extractLsb' 12 4) (up.extractLsb' 8 4) (up.extractLsb' 0 1))
  else none

/-- Major 0x78 (R379). -/
noncomputable def decodeMaj78 (g : BitVec 3) (lo : BitVec 5) (up : BitVec 16) : Option Instr :=
  if lo = 0#5 ∧ up.extractLsb' 0 6 = 0#6 then some (.steCfg g (up.extractLsb' 11 5) (up.extractLsb' 6 5))
  else if lo = 1#5 ∧ up.extractLsb' 0 6 = 0#6 then some (.steIns g (up.extractLsb' 11 5) (up.extractLsb' 6 5))
  else if lo = 2#5 ∧ up.extractLsb' 0 6 = 0#6 then some (.steUpd g (up.extractLsb' 11 5) (up.extractLsb' 6 5))
  else if lo = 3#5 then some (.steDraw g (up.extractLsb' 11 5) (up.extractLsb' 6 5) (up.extractLsb' 0 6))
  else if lo = 4#5 ∧ up.extractLsb' 6 5 = 0#5 then some (.steSum g (up.extractLsb' 11 5) (up.extractLsb' 0 6))
  else none

/-- Major 0x7C (R130, R131). -/
def decodeMaj7C (g : BitVec 3) (lo : BitVec 5) (up : BitVec 16) : Option Instr :=
  if up.extractLsb' 12 4 = 0#4 then (SysReg.ofCode (up.extractLsb' 0 12).toNat).bind fun r => some (.sysr g r lo)
  else if up.extractLsb' 12 4 = 1#4 then (SysReg.ofCode (up.extractLsb' 0 12).toNat).bind fun r => some (.sysw g r lo)
  else if up.extractLsb' 12 4 = 2#4 then (SysReg.ofCode (up.extractLsb' 0 12).toNat).bind fun r => some (.sysx g r lo)
  else none

/-- Major 0x7D (R208). -/
noncomputable def decodeMaj7D (g : BitVec 3) (lo : BitVec 5) (up : BitVec 16) : Option Instr :=
  if lo = 0#5 ∧ up = 0#16 ∧ g = 0#3 then some .eret
  else if lo = 1#5 ∧ up = 0#16 ∧ g = 0#3 then some .eretStep
  else if lo = 2#5 ∧ up.extractLsb' 6 10 = 0#10 then some (.brk g (up.extractLsb' 0 6))
  else if lo = 3#5 ∧ up.extractLsb' 7 4 = 14#4 ∧ up.extractLsb' 0 6 = 0#6 then some (.rdus g (up.extractLsb' 11 5) (up.extractLsb' 6 1))
  else if lo = 4#5 ∧ up.extractLsb' 12 4 = 14#4 ∧ up.extractLsb' 0 6 = 0#6 then some (.wrus g (up.extractLsb' 11 1) (up.extractLsb' 6 5))
  else if lo = 5#5 ∧ up.extractLsb' 1 10 = 0#10 then some (.rdtime g (up.extractLsb' 11 5) (up.extractLsb' 0 1))
  else none

/-- Major 0x7E (R395, R396, R399, R402, R406). -/
noncomputable def decodeMaj7E (g : BitVec 3) (lo : BitVec 5) (up : BitVec 16) : Option Instr :=
  if lo = 0#5 ∧ up.extractLsb' 14 2 = 0#2 ∧ up.extractLsb' 5 1 = 0#1 then some (.rangeTag g (up.extractLsb' 11 3) (up.extractLsb' 6 5) (up.extractLsb' 0 5))
  else if lo = 1#5 ∧ up.extractLsb' 14 2 = 0#2 ∧ up.extractLsb' 4 7 = 0#7 then some (.rangeTagH g (up.extractLsb' 11 3) (up.extractLsb' 0 4))
  else if lo = 2#5 ∧ up.extractLsb' 14 2 = 0#2 ∧ up.extractLsb' 0 11 = 0#11 then some (.rangeClr g (up.extractLsb' 11 3))
  else if lo = 3#5 ∧ up.extractLsb' 9 2 = 0#2 ∧ up.extractLsb' 2 4 = 0#4 then some (.rangeRd g (up.extractLsb' 11 5) (up.extractLsb' 6 3) (up.extractLsb' 0 2))
  else if lo = 4#5 ∧ up.extractLsb' 0 6 = 0#6 then some (.nestClaim g (up.extractLsb' 11 5) (up.extractLsb' 6 5))
  else if lo = 5#5 ∧ up.extractLsb' 0 6 = 0#6 then some (.perfRd g (up.extractLsb' 11 5) (up.extractLsb' 6 5))
  else none

/-- A brick's fields read by its major (R40, R50). -/
noncomputable def decodeMajor (maj : Nat) (g : BitVec 3) (lo : BitVec 5) (up : BitVec 16) : Option Instr :=
  if maj = 0x00 then decodeMaj00 g lo up
  else if maj = 0x01 then decodeMaj01 g lo up
  else if maj = 0x02 then decodeMaj02 g lo up
  else if maj = 0x03 then decodeMaj03 g lo up
  else if maj = 0x04 then decodeMaj04 g lo up
  else if maj = 0x05 then decodeMaj05 g lo up
  else if maj = 0x08 then decodeMaj08 g lo up
  else if maj = 0x09 then decodeMaj09 g lo up
  else if maj = 0x10 then decodeMaj10 g lo up
  else if maj = 0x11 then decodeMaj11 g lo up
  else if maj = 0x12 then decodeMaj12 g lo up
  else if maj = 0x13 then decodeMaj13 g lo up
  else if maj = 0x14 then decodeMaj14 g lo up
  else if maj = 0x15 then decodeMaj15 g lo up
  else if maj = 0x16 then decodeMaj16 g lo up
  else if maj = 0x18 then decodeMaj18 g lo up
  else if maj = 0x19 then decodeMaj19 g lo up
  else if maj = 0x1A then decodeMaj1A g lo up
  else if maj = 0x20 then decodeMaj20 g lo up
  else if maj = 0x21 then decodeMaj21 g lo up
  else if maj = 0x22 then decodeMaj22 g lo up
  else if maj = 0x23 then decodeMaj23 g lo up
  else if maj = 0x24 then decodeMaj24 g lo up
  else if maj = 0x25 then decodeMaj25 g lo up
  else if maj = 0x26 then decodeMaj26 g lo up
  else if maj = 0x27 then decodeMaj27 g lo up
  else if maj = 0x28 then decodeMaj28 g lo up
  else if maj = 0x29 then decodeMaj29 g lo up
  else if maj = 0x2A then decodeMaj2A g lo up
  else if maj = 0x2B then decodeMaj2B g lo up
  else if maj = 0x2C then decodeMaj2C g lo up
  else if maj = 0x2D then decodeMaj2D g lo up
  else if maj = 0x2E then decodeMaj2E g lo up
  else if maj = 0x2F then decodeMaj2F g lo up
  else if maj = 0x30 then decodeMaj30 g lo up
  else if maj = 0x31 then decodeMaj31 g lo up
  else if maj = 0x38 then decodeMaj38 g lo up
  else if maj = 0x39 then decodeMaj39 g lo up
  else if maj = 0x40 then decodeMaj40 g lo up
  else if maj = 0x41 then decodeMaj41 g lo up
  else if maj = 0x42 then decodeMaj42 g lo up
  else if maj = 0x43 then decodeMaj43 g lo up
  else if maj = 0x44 then decodeMaj44 g lo up
  else if maj = 0x45 then decodeMaj45 g lo up
  else if maj = 0x46 then decodeMaj46 g lo up
  else if maj = 0x47 then decodeMaj47 g lo up
  else if maj = 0x48 then decodeMaj48 g lo up
  else if maj = 0x50 then decodeMaj50 g lo up
  else if maj = 0x51 then decodeMaj51 g lo up
  else if maj = 0x52 then decodeMaj52 g lo up
  else if maj = 0x53 then decodeMaj53 g lo up
  else if maj = 0x54 then decodeMaj54 g lo up
  else if maj = 0x58 then decodeMaj58 g lo up
  else if maj = 0x59 then decodeMaj59 g lo up
  else if maj = 0x5C then decodeMaj5C g lo up
  else if maj = 0x5D then decodeMaj5D g lo up
  else if maj = 0x5E then decodeMaj5E g lo up
  else if maj = 0x68 then decodeMaj68 g lo up
  else if maj = 0x69 then decodeMaj69 g lo up
  else if maj = 0x6A then decodeMaj6A g lo up
  else if maj = 0x6B then decodeMaj6B g lo up
  else if maj = 0x6C then decodeMaj6C g lo up
  else if maj = 0x70 then decodeMaj70 g lo up
  else if maj = 0x71 then decodeMaj71 g lo up
  else if maj = 0x72 then decodeMaj72 g lo up
  else if maj = 0x74 then decodeMaj74 g lo up
  else if maj = 0x75 then decodeMaj75 g lo up
  else if maj = 0x78 then decodeMaj78 g lo up
  else if maj = 0x7C then decodeMaj7C g lo up
  else if maj = 0x7D then decodeMaj7D g lo up
  else if maj = 0x7E then decodeMaj7E g lo up
  else none

/-- The majors of R50 that are assigned. -/
def assignedMajor (maj : Nat) : Bool :=
  [0, 1, 2, 3, 4, 5, 8, 9, 16, 17, 18, 19, 20, 21, 22, 24, 25, 26, 32, 33, 34, 35, 36, 37, 38, 39, 40, 41, 42, 43, 44, 45, 46, 47, 48, 49, 56, 57, 64, 65, 66, 67, 68, 69, 70, 71, 72, 80, 81, 82, 83, 84, 88, 89, 92, 93, 94, 104, 105, 106, 107, 108, 112, 113, 114, 116, 117, 120, 124, 125, 126, 127].contains maj

/-- The format of a major is RI or M, so that a prefix before it forms a pair (R40, R47). -/
def extendsImm (maj : Nat) : Bool :=
  maj == 8 || maj == 9 || (0x20 ≤ maj && maj ≤ 0x2C)

/-- The major of a brick's first parcel. -/
def majorOf (p0 : BitVec 16) : Nat := (p0.extractLsb' 8 7).toNat

/-- Whether the word that begins with the parcel is a brick (R34). -/
def isBrick (p0 : BitVec 16) : Bool := p0.getLsbD 15

/-- The instruction if decode's range checks pass. -/
def checked (i : Instr) : Except Reject Instr :=
  if i.wf then .ok i else .error .outOfRange

/-- A bat, or the name of its rejection. -/
def decodeBatChecked (p : BitVec 16) : Except Reject Instr :=
  match decodeBat p with
  | some i => checked i
  | none => .error .reservedBat

/-- A brick, or the name of its rejection. The prefix, major 0x7F, has its own layout (R46). -/
noncomputable def decodeBrick (p0 p1 : BitVec 16) : Except Reject Instr :=
  let maj := majorOf p0
  if maj = 0x7F then
    if p0.extractLsb' 0 4 = 0#4 then .ok (.imx (p0.extractLsb' 4 4) p1) else .error .badFields
  else if assignedMajor maj then
    match decodeMajor maj (p0.extractLsb' 5 3) (p0.extractLsb' 0 5) p1 with
    | some i => checked i
    | none => .error .badFields
  else .error .reservedMajor

/-- The instruction that begins a list of parcels, with the parcels after it. -/
noncomputable def decode : List (BitVec 16) → Except Reject (Instr × List (BitVec 16))
  | [] => .error .short
  | p0 :: rest =>
    if isBrick p0 then
      match rest with
      | [] => .error .short
      | p1 :: rest' => (decodeBrick p0 p1).map fun i => (i, rest')
    else (decodeBatChecked p0).map fun i => (i, rest)

/-! ## Encoding -/


/-- The parcels of a brick: its first byte with bit 15 set and the major, the guard, and the fields of R40. -/
def brickOf (maj : BitVec 8) (g : BitVec 3) (lo : BitVec 5) (up : BitVec 16) : List (BitVec 16) := [maj ++ g ++ lo, up]

/-- The parcels of an encoded instruction, written from the formats of R40 (a step that is no word has none). -/
def encode : Instr → List (BitVec 16)
  | .batMov a b => [1#6 ++ a ++ b]
  | .batAdd a b => [2#6 ++ a ++ b]
  | .batSub a b => [3#6 ++ a ++ b]
  | .batAnd a b => [4#6 ++ a ++ b]
  | .batOr a b => [5#6 ++ a ++ b]
  | .batXor a b => [6#6 ++ a ++ b]
  | .batShl a b => [7#6 ++ a ++ b]
  | .batShr a b => [8#6 ++ a ++ b]
  | .batSra a b => [9#6 ++ a ++ b]
  | .batMul a b => [10#6 ++ a ++ b]
  | .batLdD a b => [11#6 ++ a ++ b]
  | .batStD a b => [12#6 ++ a ++ b]
  | .batJr b => [416#11 ++ b]
  | .batB o => [14#6 ++ o]
  | .batCall o => [15#6 ++ o]
  | .imx p q => [255#8 ++ p ++ 0#4, q]
  | .movi g i d => brickOf 136#8 g (d) (0#4 ++ i)
  | .addi g i d => brickOf 136#8 g (d) (1#4 ++ i)
  | .andi g i d => brickOf 136#8 g (d) (2#4 ++ i)
  | .ori g i d => brickOf 136#8 g (d) (3#4 ++ i)
  | .xori g i d => brickOf 136#8 g (d) (4#4 ++ i)
  | .shli g i d => brickOf 136#8 g (d) (5#4 ++ i)
  | .shri g i d => brickOf 136#8 g (d) (6#4 ++ i)
  | .srai g i d => brickOf 136#8 g (d) (7#4 ++ i)
  | .muli g i d => brickOf 136#8 g (d) (8#4 ++ i)
  | .movh g i d => brickOf 136#8 g (d) (9#4 ++ i)
  | .ldB g b i t => brickOf 160#8 g (t) (b ++ i)
  | .ldBu g b i t => brickOf 161#8 g (t) (b ++ i)
  | .ldH g b i t => brickOf 162#8 g (t) (b ++ i)
  | .ldHu g b i t => brickOf 163#8 g (t) (b ++ i)
  | .ldW g b i t => brickOf 164#8 g (t) (b ++ i)
  | .ldWu g b i t => brickOf 165#8 g (t) (b ++ i)
  | .ldD g b i t => brickOf 166#8 g (t) (b ++ i)
  | .ldxD g b i t => brickOf 167#8 g (t) (b ++ i)
  | .stB g b i t => brickOf 168#8 g (t) (b ++ i)
  | .stH g b i t => brickOf 169#8 g (t) (b ++ i)
  | .stW g b i t => brickOf 170#8 g (t) (b ++ i)
  | .stD g b i t => brickOf 171#8 g (t) (b ++ i)
  | .pref g b i l => brickOf 172#8 g (0#4 ++ l) (b ++ i)
  | .add g d a b => brickOf 128#8 g (0#5) (d ++ a ++ b ++ 0#1)
  | .sub g d a b => brickOf 128#8 g (1#5) (d ++ a ++ b ++ 0#1)
  | .mul g d a b => brickOf 128#8 g (2#5) (d ++ a ++ b ++ 0#1)
  | .mulh g d a b => brickOf 128#8 g (3#5) (d ++ a ++ b ++ 0#1)
  | .mulhu g d a b => brickOf 128#8 g (4#5) (d ++ a ++ b ++ 0#1)
  | .mulhm g d a b => brickOf 128#8 g (5#5) (d ++ a ++ b ++ 0#1)
  | .div g d a b => brickOf 128#8 g (6#5) (d ++ a ++ b ++ 0#1)
  | .divu g d a b => brickOf 128#8 g (7#5) (d ++ a ++ b ++ 0#1)
  | .rem g d a b => brickOf 128#8 g (8#5) (d ++ a ++ b ++ 0#1)
  | .remu g d a b => brickOf 128#8 g (9#5) (d ++ a ++ b ++ 0#1)
  | .min g d a b => brickOf 128#8 g (10#5) (d ++ a ++ b ++ 0#1)
  | .minu g d a b => brickOf 128#8 g (11#5) (d ++ a ++ b ++ 0#1)
  | .max g d a b => brickOf 128#8 g (12#5) (d ++ a ++ b ++ 0#1)
  | .maxu g d a b => brickOf 128#8 g (13#5) (d ++ a ++ b ++ 0#1)
  | .adds g d a b => brickOf 128#8 g (14#5) (d ++ a ++ b ++ 0#1)
  | .subs g d a b => brickOf 128#8 g (15#5) (d ++ a ++ b ++ 0#1)
  | .addsu g d a b => brickOf 128#8 g (16#5) (d ++ a ++ b ++ 0#1)
  | .subsu g d a b => brickOf 128#8 g (17#5) (d ++ a ++ b ++ 0#1)
  | .abs g d a => brickOf 128#8 g (18#5) (d ++ a ++ 0#6)
  | .neg g d a => brickOf 128#8 g (19#5) (d ++ a ++ 0#6)
  | .and g d a b => brickOf 129#8 g (0#5) (d ++ a ++ b ++ 0#1)
  | .or g d a b => brickOf 129#8 g (1#5) (d ++ a ++ b ++ 0#1)
  | .xor g d a b => brickOf 129#8 g (2#5) (d ++ a ++ b ++ 0#1)
  | .andn g d a b => brickOf 129#8 g (3#5) (d ++ a ++ b ++ 0#1)
  | .orn g d a b => brickOf 129#8 g (4#5) (d ++ a ++ b ++ 0#1)
  | .xnor g d a b => brickOf 129#8 g (5#5) (d ++ a ++ b ++ 0#1)
  | .shl g d a b => brickOf 129#8 g (6#5) (d ++ a ++ b ++ 0#1)
  | .shr g d a b => brickOf 129#8 g (7#5) (d ++ a ++ b ++ 0#1)
  | .sra g d a b => brickOf 129#8 g (8#5) (d ++ a ++ b ++ 0#1)
  | .rol g d a b => brickOf 129#8 g (9#5) (d ++ a ++ b ++ 0#1)
  | .ror g d a b => brickOf 129#8 g (10#5) (d ++ a ++ b ++ 0#1)
  | .clz g d a => brickOf 130#8 g (0#5) (d ++ a ++ 0#6)
  | .ctz g d a => brickOf 130#8 g (1#5) (d ++ a ++ 0#6)
  | .popc g d a => brickOf 130#8 g (2#5) (d ++ a ++ 0#6)
  | .brev g d a => brickOf 130#8 g (3#5) (d ++ a ++ 0#6)
  | .bswap g d a => brickOf 130#8 g (4#5) (d ++ a ++ 0#6)
  | .sxtB g d a => brickOf 130#8 g (5#5) (d ++ a ++ 0#6)
  | .sxtH g d a => brickOf 130#8 g (6#5) (d ++ a ++ 0#6)
  | .sxtW g d a => brickOf 130#8 g (7#5) (d ++ a ++ 0#6)
  | .zxtB g d a => brickOf 130#8 g (8#5) (d ++ a ++ 0#6)
  | .zxtH g d a => brickOf 130#8 g (9#5) (d ++ a ++ 0#6)
  | .zxtW g d a => brickOf 130#8 g (10#5) (d ++ a ++ 0#6)
  | .bfx g d a b => brickOf 130#8 g (11#5) (d ++ a ++ b ++ 0#1)
  | .bfxu g d a b => brickOf 130#8 g (12#5) (d ++ a ++ b ++ 0#1)
  | .bfi g d a b => brickOf 130#8 g (13#5) (d ++ a ++ b ++ 0#1)
  | .addW g d a b => brickOf 131#8 g (0#5) (d ++ a ++ b ++ 0#1)
  | .subW g d a b => brickOf 131#8 g (1#5) (d ++ a ++ b ++ 0#1)
  | .mulW g d a b => brickOf 131#8 g (2#5) (d ++ a ++ b ++ 0#1)
  | .divW g d a b => brickOf 131#8 g (3#5) (d ++ a ++ b ++ 0#1)
  | .divuW g d a b => brickOf 131#8 g (4#5) (d ++ a ++ b ++ 0#1)
  | .remW g d a b => brickOf 131#8 g (5#5) (d ++ a ++ b ++ 0#1)
  | .remuW g d a b => brickOf 131#8 g (6#5) (d ++ a ++ b ++ 0#1)
  | .shlW g d a b => brickOf 131#8 g (7#5) (d ++ a ++ b ++ 0#1)
  | .shrW g d a b => brickOf 131#8 g (8#5) (d ++ a ++ b ++ 0#1)
  | .sraW g d a b => brickOf 131#8 g (9#5) (d ++ a ++ b ++ 0#1)
  | .rdi g d a => brickOf 132#8 g (0#5) (d ++ 0#3 ++ a ++ 0#6)
  | .rdlc g d a => brickOf 132#8 g (1#5) (d ++ 0#3 ++ a ++ 0#6)
  | .wri g d a => brickOf 132#8 g (2#5) (0#3 ++ d ++ a ++ 0#6)
  | .wrlc g d a => brickOf 132#8 g (3#5) (0#3 ++ d ++ a ++ 0#6)
  | .rdlb g d a => brickOf 132#8 g (4#5) (d ++ 0#3 ++ a ++ 0#6)
  | .wrlb g d a => brickOf 132#8 g (5#5) (0#3 ++ d ++ a ++ 0#6)
  | .rdp g d => brickOf 132#8 g (6#5) (d ++ 0#11)
  | .wrp g a => brickOf 132#8 g (7#5) (0#5 ++ a ++ 0#6)
  | .rdpc g d => brickOf 132#8 g (8#5) (d ++ 0#11)
  | .madd g d a b => brickOf 133#8 g (0#5) (d ++ a ++ b ++ 0#1)
  | .msub g d a b => brickOf 133#8 g (1#5) (d ++ a ++ b ++ 0#1)
  | .shadd1 g d a b => brickOf 133#8 g (2#5) (d ++ a ++ b ++ 0#1)
  | .shadd2 g d a b => brickOf 133#8 g (3#5) (d ++ a ++ b ++ 0#1)
  | .shadd3 g d a b => brickOf 133#8 g (4#5) (d ++ a ++ b ++ 0#1)
  | .shadd4 g d a b => brickOf 133#8 g (5#5) (d ++ a ++ b ++ 0#1)
  | .cmp g d a b c => brickOf 144#8 g ((BitVec.ofNat 5 c.code)) (0#2 ++ d ++ a ++ b ++ 0#1)
  | .icmpi g n c i d => brickOf 137#8 g (0#2 ++ d) (n ++ (BitVec.ofNat 2 c.code) ++ i)
  | .pand g d a b => brickOf 145#8 g (0#5) (0#2 ++ d ++ 0#2 ++ a ++ 0#2 ++ b ++ 0#1)
  | .por g d a b => brickOf 145#8 g (1#5) (0#2 ++ d ++ 0#2 ++ a ++ 0#2 ++ b ++ 0#1)
  | .pxor g d a b => brickOf 145#8 g (2#5) (0#2 ++ d ++ 0#2 ++ a ++ 0#2 ++ b ++ 0#1)
  | .pandn g d a b => brickOf 145#8 g (3#5) (0#2 ++ d ++ 0#2 ++ a ++ 0#2 ++ b ++ 0#1)
  | .porn g d a b => brickOf 145#8 g (4#5) (0#2 ++ d ++ 0#2 ++ a ++ 0#2 ++ b ++ 0#1)
  | .pnand g d a b => brickOf 145#8 g (5#5) (0#2 ++ d ++ 0#2 ++ a ++ 0#2 ++ b ++ 0#1)
  | .pnor g d a b => brickOf 145#8 g (6#5) (0#2 ++ d ++ 0#2 ++ a ++ 0#2 ++ b ++ 0#1)
  | .pxnor g d a b => brickOf 145#8 g (7#5) (0#2 ++ d ++ 0#2 ++ a ++ 0#2 ++ b ++ 0#1)
  | .sel g d a b c => brickOf 146#8 g (0#2 ++ c) (d ++ a ++ b ++ 0#1)
  | .cset g d c => brickOf 146#8 g (1#2 ++ c) (d ++ 0#11)
  | .selz g d a c => brickOf 146#8 g (2#2 ++ c) (d ++ a ++ 0#6)
  | .fcmp g d a b c => brickOf 147#8 g ((BitVec.ofNat 5 c.code)) (0#2 ++ d ++ a ++ b ++ 0#1)
  | .fadd g d a b m => brickOf 148#8 g ((BitVec.ofNat 3 m.code) ++ 0#2) (d ++ a ++ b ++ 0#1)
  | .fsub g d a b m => brickOf 148#8 g ((BitVec.ofNat 3 m.code) ++ 1#2) (d ++ a ++ b ++ 0#1)
  | .fmul g d a b m => brickOf 148#8 g ((BitVec.ofNat 3 m.code) ++ 2#2) (d ++ a ++ b ++ 0#1)
  | .fdiv g d a b m => brickOf 148#8 g ((BitVec.ofNat 3 m.code) ++ 3#2) (d ++ a ++ b ++ 0#1)
  | .fma g d a b m => brickOf 149#8 g ((BitVec.ofNat 3 m.code) ++ 0#2) (d ++ a ++ b ++ 0#1)
  | .fms g d a b m => brickOf 149#8 g ((BitVec.ofNat 3 m.code) ++ 1#2) (d ++ a ++ b ++ 0#1)
  | .fsqrt g d a m => brickOf 149#8 g ((BitVec.ofNat 3 m.code) ++ 2#2) (d ++ a ++ 0#6)
  | .fcvtIF g d a m => brickOf 149#8 g ((BitVec.ofNat 3 m.code) ++ 3#2) (d ++ a ++ 0#6)
  | .fmin g d a b => brickOf 150#8 g (0#5) (d ++ a ++ b ++ 0#1)
  | .fmax g d a b => brickOf 150#8 g (1#5) (d ++ a ++ b ++ 0#1)
  | .fneg g d a => brickOf 150#8 g (2#5) (d ++ a ++ 0#6)
  | .fabs g d a => brickOf 150#8 g (3#5) (d ++ a ++ 0#6)
  | .fcpys g d a b => brickOf 150#8 g (4#5) (d ++ a ++ b ++ 0#1)
  | .fclass g d a => brickOf 150#8 g (5#5) (d ++ a ++ 0#6)
  | .fcvtFI g d a m => brickOf 150#8 g (1#2 ++ (BitVec.ofNat 3 m.code)) (d ++ a ++ 0#6)
  | .fcvtFU g d a m => brickOf 150#8 g (2#2 ++ (BitVec.ofNat 3 m.code)) (d ++ a ++ 0#6)
  | .fcvtUF g d a m => brickOf 150#8 g (3#2 ++ (BitVec.ofNat 3 m.code)) (d ++ a ++ 0#6)
  | .bL g o n => brickOf 152#8 g (n ++ 0#4) (o)
  | .callL g o n => brickOf 152#8 g (n ++ 1#4) (o)
  | .jrL g a n => brickOf 153#8 g (n ++ 0#4) (a ++ 0#11)
  | .callr g a n => brickOf 153#8 g (n ++ 1#4) (a ++ 0#11)
  | .loop n a l => [39424#16, n ++ a ++ l]
  | .lexit n => [39425#16, n ++ 0#14]
  | .hld g d s => brickOf 240#8 g (0#5) (d ++ 0#4 ++ s ++ 0#3)
  | .hldL g d s => brickOf 240#8 g (1#5) (d ++ 0#4 ++ s ++ 0#3)
  | .hst g a s => brickOf 240#8 g (2#5) (0#4 ++ a ++ s ++ 0#3)
  | .hstL g a s => brickOf 240#8 g (3#5) (0#4 ++ a ++ s ++ 0#3)
  | .hsetd g d k s x => brickOf 240#8 g (4#5) (d ++ k ++ s ++ x)
  | .hoff g d k s => brickOf 240#8 g (5#5) (d ++ k ++ s ++ 0#3)
  | .xset g d a => brickOf 241#8 g (0#5) (0#2 ++ d ++ a ++ 0#6)
  | .xget g d a => brickOf 241#8 g (1#5) (d ++ 0#2 ++ a ++ 0#6)
  | .sysr g r d => brickOf 252#8 g (d) (0#4 ++ (BitVec.ofNat 12 r.code))
  | .sysw g r d => brickOf 252#8 g (d) (1#4 ++ (BitVec.ofNat 12 r.code))
  | .sysx g r d => brickOf 252#8 g (d) (2#4 ++ (BitVec.ofNat 12 r.code))
  | .vaddF g d a b m => brickOf 192#8 g (0#5) (d ++ a ++ b ++ 0#1 ++ (BitVec.ofNat 3 m.code))
  | .vsubF g d a b m => brickOf 192#8 g (1#5) (d ++ a ++ b ++ 0#1 ++ (BitVec.ofNat 3 m.code))
  | .vmulF g d a b m => brickOf 192#8 g (2#5) (d ++ a ++ b ++ 0#1 ++ (BitVec.ofNat 3 m.code))
  | .vdivF g d a b m => brickOf 192#8 g (3#5) (d ++ a ++ b ++ 0#1 ++ (BitVec.ofNat 3 m.code))
  | .vminF g d a b => brickOf 192#8 g (4#5) (d ++ a ++ b ++ 0#4)
  | .vmaxF g d a b => brickOf 192#8 g (5#5) (d ++ a ++ b ++ 0#4)
  | .vfmaF g d a b m => brickOf 192#8 g (6#5) (d ++ a ++ b ++ 0#1 ++ (BitVec.ofNat 3 m.code))
  | .vfmsF g d a b m => brickOf 192#8 g (7#5) (d ++ a ++ b ++ 0#1 ++ (BitVec.ofNat 3 m.code))
  | .vsqrt g d a m => brickOf 193#8 g (0#5) (d ++ a ++ 0#5 ++ (BitVec.ofNat 3 m.code))
  | .vrcp g d a m => brickOf 193#8 g (1#5) (d ++ a ++ 0#5 ++ (BitVec.ofNat 3 m.code))
  | .vrsq g d a m => brickOf 193#8 g (2#5) (d ++ a ++ 0#5 ++ (BitVec.ofNat 3 m.code))
  | .vexp2 g d a m => brickOf 193#8 g (3#5) (d ++ a ++ 0#5 ++ (BitVec.ofNat 3 m.code))
  | .vlog2 g d a m => brickOf 193#8 g (4#5) (d ++ a ++ 0#5 ++ (BitVec.ofNat 3 m.code))
  | .vnegF g d a => brickOf 193#8 g (5#5) (d ++ a ++ 0#8)
  | .vabsF g d a => brickOf 193#8 g (6#5) (d ++ a ++ 0#8)
  | .vcpysF g d a b => brickOf 193#8 g (7#5) (d ++ a ++ b ++ 0#4)
  | .vclassF g d a => brickOf 193#8 g (8#5) (d ++ a ++ 0#8)
  | .vrndF g d a m => brickOf 193#8 g (9#5) (d ++ a ++ 0#5 ++ (BitVec.ofNat 3 m.code))
  | .vaddI g d a b => brickOf 194#8 g (0#5) (d ++ a ++ b ++ 0#4)
  | .vsubI g d a b => brickOf 194#8 g (1#5) (d ++ a ++ b ++ 0#4)
  | .vmulI g d a b => brickOf 194#8 g (2#5) (d ++ a ++ b ++ 0#4)
  | .vmulhI g d a b => brickOf 194#8 g (3#5) (d ++ a ++ b ++ 0#4)
  | .vmulhU g d a b => brickOf 194#8 g (4#5) (d ++ a ++ b ++ 0#4)
  | .vminI g d a b => brickOf 194#8 g (5#5) (d ++ a ++ b ++ 0#4)
  | .vminU g d a b => brickOf 194#8 g (6#5) (d ++ a ++ b ++ 0#4)
  | .vmaxI g d a b => brickOf 194#8 g (7#5) (d ++ a ++ b ++ 0#4)
  | .vmaxU g d a b => brickOf 194#8 g (8#5) (d ++ a ++ b ++ 0#4)
  | .vaddsI g d a b => brickOf 194#8 g (9#5) (d ++ a ++ b ++ 0#4)
  | .vsubsI g d a b => brickOf 194#8 g (10#5) (d ++ a ++ b ++ 0#4)
  | .vaddsU g d a b => brickOf 194#8 g (11#5) (d ++ a ++ b ++ 0#4)
  | .vsubsU g d a b => brickOf 194#8 g (12#5) (d ++ a ++ b ++ 0#4)
  | .vabsI g d a => brickOf 194#8 g (13#5) (d ++ a ++ 0#8)
  | .vnegI g d a => brickOf 194#8 g (14#5) (d ++ a ++ 0#8)
  | .vmaddI g d a b => brickOf 194#8 g (15#5) (d ++ a ++ b ++ 0#4)
  | .vand g d a b => brickOf 195#8 g (0#5) (d ++ a ++ b ++ 0#4)
  | .vor g d a b => brickOf 195#8 g (1#5) (d ++ a ++ b ++ 0#4)
  | .vxor g d a b => brickOf 195#8 g (2#5) (d ++ a ++ b ++ 0#4)
  | .vandn g d a b => brickOf 195#8 g (3#5) (d ++ a ++ b ++ 0#4)
  | .vnot g d a => brickOf 195#8 g (4#5) (d ++ a ++ 0#8)
  | .vshl g d a b => brickOf 195#8 g (5#5) (d ++ a ++ b ++ 0#4)
  | .vshr g d a b => brickOf 195#8 g (6#5) (d ++ a ++ b ++ 0#4)
  | .vsra g d a b => brickOf 195#8 g (7#5) (d ++ a ++ b ++ 0#4)
  | .vshli g d a k => brickOf 195#8 g (8#5) (d ++ a ++ 0#3 ++ k)
  | .vshri g d a k => brickOf 195#8 g (9#5) (d ++ a ++ 0#3 ++ k)
  | .vsrai g d a k => brickOf 195#8 g (10#5) (d ++ a ++ 0#3 ++ k)
  | .vpopc g d a => brickOf 195#8 g (11#5) (d ++ a ++ 0#8)
  | .vclz g d a => brickOf 195#8 g (12#5) (d ++ a ++ 0#8)
  | .vfcmpEq g d a b => brickOf 196#8 g (0#5) (d ++ a ++ b ++ 0#4)
  | .vfcmpLt g d a b => brickOf 196#8 g (1#5) (d ++ a ++ b ++ 0#4)
  | .vfcmpLe g d a b => brickOf 196#8 g (2#5) (d ++ a ++ b ++ 0#4)
  | .vfcmpUn g d a b => brickOf 196#8 g (3#5) (d ++ a ++ b ++ 0#4)
  | .vfcmpNe g d a b => brickOf 196#8 g (4#5) (d ++ a ++ b ++ 0#4)
  | .vcmpEq g d a b => brickOf 196#8 g (5#5) (d ++ a ++ b ++ 0#4)
  | .vcmpNe g d a b => brickOf 196#8 g (6#5) (d ++ a ++ b ++ 0#4)
  | .vcmpLt g d a b => brickOf 196#8 g (7#5) (d ++ a ++ b ++ 0#4)
  | .vcmpLe g d a b => brickOf 196#8 g (8#5) (d ++ a ++ b ++ 0#4)
  | .vcmpLtu g d a b => brickOf 196#8 g (9#5) (d ++ a ++ b ++ 0#4)
  | .vcmpLeu g d a b => brickOf 196#8 g (10#5) (d ++ a ++ b ++ 0#4)
  | .vsel g d a b c => brickOf 197#8 g (0#5) (d ++ a ++ b ++ c)
  | .vany g d a => brickOf 197#8 g (1#5) (0#1 ++ d ++ a ++ 0#8)
  | .vall g d a => brickOf 197#8 g (2#5) (0#1 ++ d ++ a ++ 0#8)
  | .vcvtFI g d a m => brickOf 198#8 g (0#5) (d ++ a ++ 0#5 ++ (BitVec.ofNat 3 m.code))
  | .vcvtFU g d a m => brickOf 198#8 g (1#5) (d ++ a ++ 0#5 ++ (BitVec.ofNat 3 m.code))
  | .vcvtIF g d a m => brickOf 198#8 g (2#5) (d ++ a ++ 0#5 ++ (BitVec.ofNat 3 m.code))
  | .vcvtUF g d a m => brickOf 198#8 g (3#5) (d ++ a ++ 0#5 ++ (BitVec.ofNat 3 m.code))
  | .vpackF16 g d a b m => brickOf 198#8 g (4#5) (d ++ a ++ b ++ 0#1 ++ (BitVec.ofNat 3 m.code))
  | .vpackBf16 g d a b m => brickOf 198#8 g (5#5) (d ++ a ++ b ++ 0#1 ++ (BitVec.ofNat 3 m.code))
  | .vpackE4m3Lo g d a b m => brickOf 198#8 g (6#5) (d ++ a ++ b ++ 0#1 ++ (BitVec.ofNat 3 m.code))
  | .vpackE4m3Hi g d a b m => brickOf 198#8 g (7#5) (d ++ a ++ b ++ 0#1 ++ (BitVec.ofNat 3 m.code))
  | .vpackE5m2Lo g d a b m => brickOf 198#8 g (8#5) (d ++ a ++ b ++ 0#1 ++ (BitVec.ofNat 3 m.code))
  | .vpackE5m2Hi g d a b m => brickOf 198#8 g (9#5) (d ++ a ++ b ++ 0#1 ++ (BitVec.ofNat 3 m.code))
  | .vpackI16 g d a b => brickOf 198#8 g (10#5) (d ++ a ++ b ++ 0#4)
  | .vpackI8Lo g d a b => brickOf 198#8 g (11#5) (d ++ a ++ b ++ 0#4)
  | .vpackI8Hi g d a b => brickOf 198#8 g (12#5) (d ++ a ++ b ++ 0#4)
  | .vunpkF16 g d a p => brickOf 198#8 g (13#5) (d ++ a ++ 0#7 ++ p)
  | .vunpkBf16 g d a p => brickOf 198#8 g (14#5) (d ++ a ++ 0#7 ++ p)
  | .vunpkE4m3 g d a p => brickOf 198#8 g (15#5) (d ++ a ++ 0#6 ++ p)
  | .vunpkE5m2 g d a p => brickOf 198#8 g (16#5) (d ++ a ++ 0#6 ++ p)
  | .vunpkTc8 g d a k p => brickOf 198#8 g (17#5) (d ++ a ++ 0#2 ++ k ++ 0#2 ++ p)
  | .vunpkI16 g d a p => brickOf 198#8 g (18#5) (d ++ a ++ 0#7 ++ p)
  | .vunpkI8 g d a p => brickOf 198#8 g (19#5) (d ++ a ++ 0#6 ++ p)
  | .vredAddF g d a m => brickOf 199#8 g (0#5) (d ++ a ++ 0#5 ++ (BitVec.ofNat 3 m.code))
  | .vredMinF g d a => brickOf 199#8 g (1#5) (d ++ a ++ 0#8)
  | .vredMaxF g d a => brickOf 199#8 g (2#5) (d ++ a ++ 0#8)
  | .vredAddI g d a => brickOf 199#8 g (3#5) (d ++ a ++ 0#8)
  | .vredMinI g d a => brickOf 199#8 g (4#5) (d ++ a ++ 0#8)
  | .vredMaxI g d a => brickOf 199#8 g (5#5) (d ++ a ++ 0#8)
  | .vredMinU g d a => brickOf 199#8 g (6#5) (d ++ a ++ 0#8)
  | .vredMaxU g d a => brickOf 199#8 g (7#5) (d ++ a ++ 0#8)
  | .vscanAddF g d a m => brickOf 199#8 g (8#5) (d ++ a ++ 0#5 ++ (BitVec.ofNat 3 m.code))
  | .vscanAddI g d a => brickOf 199#8 g (9#5) (d ++ a ++ 0#8)
  | .vmov g d a => brickOf 200#8 g (0#5) (d ++ a ++ 0#8)
  | .viota g d => brickOf 200#8 g (1#5) (d ++ 0#12)
  | .vld g d s => brickOf 208#8 g (0#5) (d ++ 0#4 ++ s ++ 0#3)
  | .vldL g d s => brickOf 208#8 g (1#5) (d ++ 0#4 ++ s ++ 0#3)
  | .vldx g d s => brickOf 208#8 g (2#5) (d ++ 0#4 ++ s ++ 0#3)
  | .vlds g d s x => brickOf 208#8 g (3#5) (d ++ 0#4 ++ s ++ x)
  | .vldsL g d s x => brickOf 208#8 g (4#5) (d ++ 0#4 ++ s ++ x)
  | .vgth g d a s => brickOf 208#8 g (5#5) (d ++ a ++ s ++ 0#3)
  | .vgthL g d a s => brickOf 208#8 g (6#5) (d ++ a ++ s ++ 0#3)
  | .vst g a s => brickOf 209#8 g (0#5) (0#4 ++ a ++ s ++ 0#3)
  | .vstL g a s => brickOf 209#8 g (1#5) (0#4 ++ a ++ s ++ 0#3)
  | .vsts g a s x => brickOf 209#8 g (2#5) (0#4 ++ a ++ s ++ x)
  | .vstsL g a s x => brickOf 209#8 g (3#5) (0#4 ++ a ++ s ++ x)
  | .vsct g i a s => brickOf 209#8 g (4#5) (i ++ a ++ s ++ 0#3)
  | .vsctL g i a s => brickOf 209#8 g (5#5) (i ++ a ++ s ++ 0#3)
  | .vstm g m a s => brickOf 209#8 g (6#5) (m ++ a ++ s ++ 0#3)
  | .vstmL g m a s => brickOf 209#8 g (7#5) (m ++ a ++ s ++ 0#3)
  | .vperm g d a b => brickOf 210#8 g (0#5) (d ++ a ++ b ++ 0#4)
  | .vrot g d a k => brickOf 210#8 g (1#5) (d ++ a ++ 0#2 ++ k)
  | .vbcst g d a k => brickOf 210#8 g (2#5) (d ++ a ++ 0#2 ++ k)
  | .vzipLo g d a b => brickOf 210#8 g (3#5) (d ++ a ++ b ++ 0#4)
  | .vzipHi g d a b => brickOf 210#8 g (4#5) (d ++ a ++ b ++ 0#4)
  | .vuzpEv g d a b => brickOf 210#8 g (5#5) (d ++ a ++ b ++ 0#4)
  | .vuzpOd g d a b => brickOf 210#8 g (6#5) (d ++ a ++ b ++ 0#4)
  | .vrng g d a k => brickOf 211#8 g (0#5) (d ++ a ++ 0#1 ++ k ++ 0#4)
  | .vrngU g d a k => brickOf 211#8 g (1#5) (d ++ a ++ 0#1 ++ k ++ 0#4)
  | .vfromt g d a q => brickOf 212#8 g (0#5) (d ++ a ++ 0#4 ++ q)
  | .vtot g d a q => brickOf 212#8 g (1#5) (d ++ a ++ 0#4 ++ q)
  | .vext g d a k => brickOf 212#8 g (2#5) (d ++ a ++ k ++ 0#1)
  | .vins g d a k => brickOf 212#8 g (3#5) (d ++ a ++ k ++ 0#1)
  | .vbcs g d a => brickOf 212#8 g (4#5) (d ++ a ++ 0#7)
  | .cbkEncLo g d a b k => brickOf 245#8 g (0#5) (d ++ a ++ b ++ 0#2 ++ k)
  | .cbkEncHi g d a b k => brickOf 245#8 g (1#5) (d ++ a ++ b ++ 0#2 ++ k)
  | .vencF4 g d a b m => brickOf 245#8 g (2#5) (d ++ a ++ b ++ 0#1 ++ (BitVec.ofNat 3 m.code))
  | .vdecF4 g d a p => brickOf 245#8 g (3#5) (d ++ a ++ 0#7 ++ p)
  | .tld g d a s => brickOf 216#8 g (0#5) (d ++ a ++ s ++ 0#3)
  | .tldT g d a s => brickOf 216#8 g (1#5) (d ++ a ++ s ++ 0#3)
  | .tldP6 g d a s => brickOf 216#8 g (2#5) (d ++ a ++ s ++ 0#3)
  | .tst g t a s => brickOf 217#8 g (0#5) (t ++ a ++ s ++ 0#3)
  | .tmov g d a => brickOf 220#8 g (0#5) (d ++ a ++ 0#8)
  | .tzero g d => brickOf 220#8 g (1#5) (d ++ 0#12)
  | .tcvt g d a s p k f => brickOf 221#8 g ((BitVec.ofNat 5 f.code)) (d ++ a ++ (BitVec.ofNat 4 s.code) ++ p ++ k)
  | .tred g d a k m f => brickOf 222#8 g ((BitVec.ofNat 5 f.code)) (d ++ a ++ 0#2 ++ k ++ 0#1 ++ (BitVec.ofNat 3 m.code))
  | .mma g d a b m p => brickOf 232#8 g ((BitVec.ofNat 5 p.code)) (0#2 ++ d ++ a ++ b ++ 0#1 ++ (BitVec.ofNat 3 m.code))
  | .mmaSp g d a b t p => brickOf 233#8 g ((BitVec.ofNat 5 p.code)) (0#2 ++ d ++ a ++ b ++ t)
  | .mmaTc g d a b y x p => brickOf 234#8 g ((BitVec.ofNat 5 p.code)) (0#2 ++ d ++ a ++ b ++ y ++ x)
  | .czero g d => brickOf 235#8 g (0#5) (0#2 ++ d ++ 0#12)
  | .cmov g d a => brickOf 235#8 g (1#5) (0#2 ++ d ++ 0#2 ++ a ++ 0#8)
  | .cld g d a => brickOf 235#8 g (2#5) (0#2 ++ d ++ a ++ 0#8)
  | .cst g d a => brickOf 235#8 g (3#5) (0#2 ++ d ++ a ++ 0#8)
  | .ccvtE4m3 g d a p m => brickOf 236#8 g (0#5) (d ++ 0#2 ++ a ++ p ++ 0#1 ++ (BitVec.ofNat 3 m.code))
  | .ccvtE5m2 g d a p m => brickOf 236#8 g (1#5) (d ++ 0#2 ++ a ++ p ++ 0#1 ++ (BitVec.ofNat 3 m.code))
  | .ccvtF16 g d a p m => brickOf 236#8 g (2#5) (d ++ 0#2 ++ a ++ p ++ 0#1 ++ (BitVec.ofNat 3 m.code))
  | .ccvtBf16 g d a p m => brickOf 236#8 g (3#5) (d ++ 0#2 ++ a ++ p ++ 0#1 ++ (BitVec.ofNat 3 m.code))
  | .ccvtF32 g d a p m => brickOf 236#8 g (4#5) (d ++ 0#2 ++ a ++ p ++ 0#1 ++ (BitVec.ofNat 3 m.code))
  | .ccvtF4 g d a p m => brickOf 236#8 g (5#5) (d ++ 0#2 ++ a ++ p ++ 0#1 ++ (BitVec.ofNat 3 m.code))
  | .csclR g d a v m => brickOf 236#8 g (6#5) (0#2 ++ d ++ 0#2 ++ a ++ v ++ 0#1 ++ (BitVec.ofNat 3 m.code))
  | .csclC g d a v m => brickOf 236#8 g (7#5) (0#2 ++ d ++ 0#2 ++ a ++ v ++ 0#1 ++ (BitVec.ofNat 3 m.code))
  | .cbkLd g d s => brickOf 244#8 g (0#5) (0#2 ++ d ++ 0#4 ++ s ++ 0#3)
  | .cbkLdL g d s => brickOf 244#8 g (1#5) (0#2 ++ d ++ 0#4 ++ s ++ 0#3)
  | .eret => [64768#16, 0#16]
  | .eretStep => [64769#16, 0#16]
  | .brk g k => brickOf 253#8 g (2#5) (0#10 ++ k)
  | .rdus g d a => brickOf 253#8 g (3#5) (d ++ 14#4 ++ a ++ 0#6)
  | .wrus g d a => brickOf 253#8 g (4#5) (14#4 ++ d ++ a ++ 0#6)
  | .rdtime g d k => brickOf 253#8 g (5#5) (d ++ 0#10 ++ k)
  | .lda g d a r s z => brickOf 174#8 g (0#4 ++ z) (d ++ a ++ 0#1 ++ r ++ (BitVec.ofNat 3 s.code) ++ 0#1)
  | .stl g r s a b z => brickOf 174#8 g (1#4 ++ z) (0#1 ++ r ++ (BitVec.ofNat 3 s.code) ++ a ++ b ++ 0#1)
  | .str g a b z => brickOf 174#8 g (1#3 ++ z) (0#5 ++ a ++ b ++ 0#1)
  | .atomAdd g d a b z => brickOf 173#8 g (0#4 ++ z) (d ++ a ++ b ++ 0#1)
  | .atomMin g d a b z => brickOf 173#8 g (1#4 ++ z) (d ++ a ++ b ++ 0#1)
  | .atomMax g d a b z => brickOf 173#8 g (2#4 ++ z) (d ++ a ++ b ++ 0#1)
  | .atomAnd g d a b z => brickOf 173#8 g (3#4 ++ z) (d ++ a ++ b ++ 0#1)
  | .atomOr g d a b z => brickOf 173#8 g (4#4 ++ z) (d ++ a ++ b ++ 0#1)
  | .atomXor g d a b z => brickOf 173#8 g (5#4 ++ z) (d ++ a ++ b ++ 0#1)
  | .atomXchg g d a b z => brickOf 173#8 g (6#4 ++ z) (d ++ a ++ b ++ 0#1)
  | .atomCas g d a b z => brickOf 173#8 g (7#4 ++ z) (d ++ a ++ b ++ 0#1)
  | .atomFaddF32 g d a b => brickOf 173#8 g (16#5) (d ++ a ++ b ++ 0#1)
  | .redAddW g a b => brickOf 173#8 g (17#5) (0#5 ++ a ++ b ++ 0#1)
  | .redAddD g a b => brickOf 173#8 g (18#5) (0#5 ++ a ++ b ++ 0#1)
  | .redMinW g a b => brickOf 173#8 g (19#5) (0#5 ++ a ++ b ++ 0#1)
  | .redMinD g a b => brickOf 173#8 g (20#5) (0#5 ++ a ++ b ++ 0#1)
  | .redMaxW g a b => brickOf 173#8 g (21#5) (0#5 ++ a ++ b ++ 0#1)
  | .redMaxD g a b => brickOf 173#8 g (22#5) (0#5 ++ a ++ b ++ 0#1)
  | .redAndW g a b => brickOf 173#8 g (23#5) (0#5 ++ a ++ b ++ 0#1)
  | .redAndD g a b => brickOf 173#8 g (24#5) (0#5 ++ a ++ b ++ 0#1)
  | .redOrW g a b => brickOf 173#8 g (25#5) (0#5 ++ a ++ b ++ 0#1)
  | .redOrD g a b => brickOf 173#8 g (26#5) (0#5 ++ a ++ b ++ 0#1)
  | .redXorW g a b => brickOf 173#8 g (27#5) (0#5 ++ a ++ b ++ 0#1)
  | .redXorD g a b => brickOf 173#8 g (28#5) (0#5 ++ a ++ b ++ 0#1)
  | .redAddF32 g a b => brickOf 173#8 g (29#5) (0#5 ++ a ++ b ++ 0#1)
  | .ldfe g d a => brickOf 175#8 g (0#5) (d ++ a ++ 0#6)
  | .ldff g d a => brickOf 175#8 g (1#5) (d ++ a ++ 0#6)
  | .stfl g a b => brickOf 175#8 g (2#5) (0#5 ++ a ++ b ++ 0#1)
  | .feclr g a => brickOf 175#8 g (3#5) (0#5 ++ a ++ 0#6)
  | .lock g d a => brickOf 175#8 g (4#5) (0#2 ++ d ++ a ++ 0#6)
  | .unlock g a => brickOf 175#8 g (5#5) (0#5 ++ a ++ 0#6)
  | .pinL g d a => brickOf 175#8 g (6#5) (0#2 ++ d ++ a ++ 0#6)
  | .unpinL g a => brickOf 175#8 g (7#5) (0#5 ++ a ++ 0#6)
  | .plockL g d a => brickOf 175#8 g (8#5) (0#2 ++ d ++ a ++ 0#6)
  | .punlockL g a => brickOf 175#8 g (9#5) (0#5 ++ a ++ 0#6)
  | .fenceAcq g r m s => brickOf 176#8 g (0#5) (0#4 ++ r ++ m ++ (BitVec.ofNat 3 s.code))
  | .fenceRel g r m s => brickOf 176#8 g (0#5) (1#4 ++ r ++ m ++ (BitVec.ofNat 3 s.code))
  | .fenceAr g r m s => brickOf 176#8 g (0#5) (2#4 ++ r ++ m ++ (BitVec.ofNat 3 s.code))
  | .monArm g a k => brickOf 177#8 g (0#5) (0#5 ++ a ++ 0#4 ++ k)
  | .monDisarm g k => brickOf 177#8 g (1#5) (0#14 ++ k)
  | .monWait g d a => brickOf 177#8 g (2#5) (d ++ a ++ 0#6)
  | .copyG2l g d a s => brickOf 242#8 g (0#5) (d ++ a ++ s ++ 0#3)
  | .copyL2g g d a s => brickOf 242#8 g (1#5) (d ++ a ++ s ++ 0#3)
  | .copyG2lB g d a s k => brickOf 242#8 g (2#5) (d ++ a ++ s ++ k)
  | .copyL2gB g d a s k => brickOf 242#8 g (3#5) (d ++ a ++ s ++ k)
  | .copyResume g s => brickOf 242#8 g (4#5) (0#8 ++ s ++ 0#3)
  | .copyCancel g s => brickOf 242#8 g (5#5) (0#8 ++ s ++ 0#3)
  | .copyChk g s => brickOf 242#8 g (6#5) (0#8 ++ s ++ 0#3)
  | .taskSpawn g d a x => brickOf 184#8 g (0#5) (0#2 ++ d ++ a ++ 0#5 ++ x)
  | .taskNext g => brickOf 184#8 g (1#5) (0#16)
  | .taskDone g => brickOf 184#8 g (2#5) (0#16)
  | .taskYield g a => brickOf 184#8 g (3#5) (0#5 ++ a ++ 0#6)
  | .cancel g d a => brickOf 184#8 g (4#5) (d ++ a ++ 0#6)
  | .taskInfo g d k => brickOf 184#8 g (5#5) (d ++ 0#8 ++ k)
  | .gjoin g d a t => brickOf 185#8 g (0#5) (0#2 ++ d ++ a ++ 0#5 ++ t)
  | .gleave g a => brickOf 185#8 g (1#5) (0#5 ++ a ++ 0#6)
  | .bar g d a => brickOf 185#8 g (2#5) (0#2 ++ d ++ a ++ 0#6)
  | .barArr g d a => brickOf 185#8 g (3#5) (d ++ a ++ 0#6)
  | .barWait g d a => brickOf 185#8 g (4#5) (0#2 ++ d ++ a ++ 0#6)
  | .steCfg g d a => brickOf 248#8 g (0#5) (d ++ a ++ 0#6)
  | .steIns g d a => brickOf 248#8 g (1#5) (d ++ a ++ 0#6)
  | .steUpd g d a => brickOf 248#8 g (2#5) (d ++ a ++ 0#6)
  | .steDraw g d a b => brickOf 248#8 g (3#5) (d ++ a ++ b)
  | .steSum g d q => brickOf 248#8 g (4#5) (d ++ 0#5 ++ q)
  | .rangeTag g d a b => brickOf 254#8 g (0#5) (0#2 ++ d ++ a ++ 0#1 ++ b)
  | .rangeTagH g d k => brickOf 254#8 g (1#5) (0#2 ++ d ++ 0#7 ++ k)
  | .rangeClr g d => brickOf 254#8 g (2#5) (0#2 ++ d ++ 0#11)
  | .rangeRd g d a k => brickOf 254#8 g (3#5) (d ++ 0#2 ++ a ++ 0#4 ++ k)
  | .nestClaim g d a => brickOf 254#8 g (4#5) (d ++ a ++ 0#6)
  | .perfRd g d a => brickOf 254#8 g (5#5) (d ++ a ++ 0#6)
  | .entryIssue _ _ => []
  | .engineCompletion _ _ => []
  | .trbRetire _ => []
  | .storeQueuePerform _ => []
  | .trapEntry _ => []
  | .eventTaken _ => []
  | .uncorrectableError _ => []
  | .scratchpadRefill _ _ => []
  | .pageWalk _ _ => []
  | .rdreq _ => []
  | .rddata _ => []
  | .write _ => []
  | .wrack _ => []
  | .atom _ => []
  | .atrep _ => []
  | .strPacket _ => []
  | .feop _ => []
  | .ferep _ => []
  | .mon _ => []
  | .barmsg _ => []
  | .stecmd _ => []
  | .sterep _ => []
  | .steCfgCreate _ => []
  | .steCfgBuild _ => []
  | .steCfgSet _ => []
  | .steCfgRelease _ => []
  | .steInsExec _ => []
  | .steUpdExec _ => []
  | .steDrawExec _ => []
  | .steSumExec _ => []
  | .copyTransfer _ _ _ => []
  | .copyComplete _ _ => []
  | .launchWrite _ _ _ => []
  | .launchNop _ _ => []
  | .launchTasks _ _ => []
  | .launchStart _ _ => []
  | .launchServe _ _ => []
  | .launchCancel _ _ => []
  | .start _ => []
  | .taskDelivery _ => []
  | .taskmsg _ => []
  | .spillRefill _ => []
  | .hostEventWrite _ _ => []
  | .ctxcreate _ => []
  | .ctxset _ => []
  | .invtlb _ => []
  | .migrate _ => []
  | .migrationDrainComplete _ => []
  | .migrationInstall _ => []
  | .pegForward _ => []
  | .marker _ => []
  | .repart _ => []
  | .switchout _ => []
  | .resume _ => []
  | .clrfault _ => []
  | .ctxdestroy _ => []
  | .sethome _ => []
  | .setqueue _ => []
  | .setspill _ => []
  | .streamset _ => []
  | .outputPortSlot _ => []
  | .meshFlitReceive _ _ => []
  | .mortarFlitReceive _ _ => []
  | .controlFlit _ _ => []
  | .replayTimeout _ => []
  | .marginAlarm _ _ => []
  | .retrainComplete _ => []
  | .poison _ => []
  | .mgmt _ => []
  | .snoop _ => []
  | .reassemblyWatchdog _ => []
  | .replyTimerExpiry _ => []
  | .atomRepeatTimeout _ _ => []
  | .timerDeadline _ => []
  | .waitLimitExpiry _ => []
  | .monWaitDeadline _ => []
  | .timeCalibration => []
  | .timeStep _ _ => []
  | .regulatorAdmit _ _ _ => []
  | .regulatorWrite _ _ _ => []
  | .powerAlarm _ => []
  | .alarmClear _ => []
  | .clockStepDown => []
  | .clockStepUp => []
  | .coldReset => []
  | .reboot _ => []
  | .rollbackCommit _ => []
  | .hostPortFreezeClear _ => []
  | .steFreezeClear _ _ => []
  | .copyEngineFreezeClear _ _ => []
  | .hostWindowWrite _ _ => []
  | .hostWrite _ _ _ => []
  | .hostRead _ _ _ => []
  | .illegalWord => []
  | .oscillatorTick _ => []
  | .coreClockCycle _ => []
  | .commandedRetrain _ => []

/-- A 16-bit parcel from its two bytes as they lie in memory, the low byte first (R34). -/
def parcelOfBytes (lo hi : Byte) : BitVec 16 := hi ++ lo

/-- The two bytes of a parcel as they lie in memory. -/
def bytesOfParcel (p : BitVec 16) : List Byte := [p.extractLsb' 0 8, p.extractLsb' 8 8]

/-- The parcels of a byte list; an odd last byte is dropped. -/
def parcelsOfBytes : List Byte → List (BitVec 16)
  | lo :: hi :: rest => parcelOfBytes lo hi :: parcelsOfBytes rest
  | _ => []

/-- The bytes in memory of an instruction given by the table's numbering of its bits:
bit 0 is the least significant bit of the first parcel. The bits above `nbits` are zero, up to two parcels. -/
def tableBytes (nbits w : Nat) : List Byte :=
  let v := BitVec.ofNat 32 (w % 2 ^ nbits)
  bytesOfParcel (v.extractLsb' 0 16) ++ bytesOfParcel (v.extractLsb' 16 16)

/-- The instruction that the decoder reads from a word of the opcode table. -/
noncomputable def decodeTableWord (nbits w : Nat) : Option Instr :=
  match decode (parcelsOfBytes (tableBytes nbits w)) with
  | .ok (i, _) => some i
  | .error _ => none

end Sys2Proof
end

