-- ==== Sys2Proof/Machine/Fetch.lean ====
section
/-! DEFINITION. Instruction fetch (R34 to R36, R54, R233): parcels through the L1I of the core. -/

namespace Sys2Proof.Machine

/-- Why a parcel did not arrive, or not yet. -/
inductive FetchFault where
  /-- PAGE or PROT at the address of the parcel. -/
  | cause (c : Cause) (ea : Word)
  /-- A poisoned sector: the stream stops (R233). -/
  | poison (place : Nat)
  /-- The link, or a regulator, holds the fetch or its walk (R336, R412). -/
  | later (w : Wait)
  deriving DecidableEq, Repr

/-- The fault with another fault address: that of the word whose parcel it met (R47). -/
def FetchFault.named (f : FetchFault) (a : Word) : FetchFault :=
  match f with
  | .cause c _ => .cause c a
  | f => f

namespace State

/-- Lines of the L1I: 32 KiB (R31). -/
def l1iLines : Nat := 256

/-- A line comes into a core's L1I; in a full one it replaces a line, free which (log 66). -/
def fillL1i (s : State) (c line : Nat) (l : Line) : State :=
  let k := s.core c
  if k.l1i.length < l1iLines then s.setCore c { k with l1i := SMap.set k.l1i line l }
  else
    let (t, n) := s.freshFree
    let victim := (k.l1i.map (·.1)).getD (Config.anyOf n % k.l1i.length) 0
    t.setCore c { k with l1i := SMap.set (k.l1i.filter fun e => e.1 != victim) line l }

/-- The line as the die's L2 gives it to a fetch, which makes no guest copy: R230 names loads alone. -/
def l2Fetch (s : State) (c line ctx va : Nat) : State × Line :=
  match (if s.mayGuest (dieOfCore c) line then SMap.find (s.die (dieOfCore c)).guest line else none) with
  | some l => (s, l)
  | none => s.homeLine line ctx va (.core c)

/-- The line of an instruction address as the core's L1I gives it, filled on a miss from L2 (R54). -/
def l1iLine (s : State) (c line ctx va : Nat) : State × Line :=
  match SMap.find (s.core c).l1i line with
  | some l => (s, l)
  | none =>
    let (t, l) := s.l2Fetch c line ctx va
    (t.fillL1i c line { l with ctx := ctx, va := va }, l)

/-- A fetch that waits for the link to a place (R336). -/
def fetchAway (s : State) (place : Nat) : FetchFault :=
  .later (.link (s.now s.myDie) [meshY s.myCore, s.siteRow (s.siteOf place)] (BitVec.ofNat 64 place))

/-- Whether a fetch of a line needs none of the link (R13): the L1I, the die or a guest copy has it. -/
def fetchReaches (s : State) (line : Nat) : Bool :=
  (SMap.find (s.core s.myCore).l1i line).isSome || s.reaches (.core s.myCore) (s.siteOf line) ||
    (s.mayGuest s.myDie line && (SMap.find (s.die s.myDie).guest line).isSome)

/-- One parcel at an address of the running stream. -/
def fetchParcel (s : State) (a : Word) : State × Except FetchFault (BitVec 16) :=
  if neverFetched a then (s, .error (.cause .page a))
  else if !s.walkReaches s.myCore s.myCtxId a.toNat then
    (s, .error (s.fetchAway (s.walkGap s.myCore s.myCtxId a.toNat)))
  else match s.translate a.toNat .fetch with
    | .ok place _ =>
      let line := place / 128 * 128
      if !s.fetchReaches line then (s, .error (s.fetchAway place))
      else
        let u := s.walkIn s.myCore s.myCtxId a.toNat place
        let (t, l) := u.l1iLine s.myCore line s.myCtxId (a.toNat / 128 * 128)
        if (SMap.find (s.core s.myCore).l1i line).isNone ∧ t.heldBack t.cur then (t, .error (.later .fills))
        else match l.bad (place % 128) 2 with
        | some j => (t, .error (.poison (line + 32 * j)))
        | none => (t, .ok (BitVec.ofNat 16 (leNat (l.bytes (place % 128) 2))))
    | .prot => (s, .error (.cause .prot a))
    | .page => (s, .error (.cause .page a))
    | .malformed level e =>
      (s.toHost 0 3 (BitVec.ofNat 64 (e + level * 2 ^ 56 + s.myCtxId * 2 ^ 58)) s.myDie, .error (.cause .page a))
    | .poisoned k => (s, .error (.poison k))

/-- The parcels of the word at an address: one for a bat, two for a brick. Each parcel comes from the L1I's line of its
own address: the model lets a brick that straddles two lines take one parcel from an older line than the other, as R281
lets the two halves of a straddling access differ; R54's own sentence on such a brick can be read against it (log 71). -/
def fetchWord (s : State) (a : Word) : State × Except FetchFault (List (BitVec 16)) :=
  match s.fetchParcel a with
  | (t, .error f) => (t, .error f)
  | (t, .ok p) =>
    if isBrick p then
      match t.fetchParcel (a + 2#64) with
      | (u, .error f) => (u, .error f)
      | (u, .ok q) => (u, .ok [p, q])
    else (t, .ok [p])

/-- What a fetch fault does to the running stream, whose word begins at its pc (R36, R233). -/
def fetchFailed (s : State) : FetchFault → State
  | .cause c ea => s.raise c ea
  | .poison place => s.raise .uncorr (BitVec.ofNat 64 (s.sectorAddress place))
  | .later w => s.holdFor w

end State

end Sys2Proof.Machine
end

