-- ==== Sys2Proof/Machine/Copies.lean ====
section
/-! DEFINITION. Asynchronous copies (R259 to R267): acceptance, transfer, completion, faults and tokens. -/

namespace Sys2Proof.Machine

/-! ## Tokens (R261, R262) -/

/-- A register by its bank number: 32 and 33 are SB28 and SB29. -/
def Stream.writeBank (t : Stream) (reg : Nat) (w : Word) : Stream :=
  if reg = 32 then { t with sb28 := w }
  else if reg = 33 then { t with sb29 := w }
  else if h : reg < 32 then { t with s := t.s.set reg w } else t

namespace State

/-- A token or reply written to the register that still awaits it; otherwise it has no visible effect. The registers that
a squash would bring back take it in the same way. What reads it has every younger access behind the copy's writes
(R272). -/
def writePending (s : State) (q id : Nat) (w : Word) : State :=
  let t := s.stream q
  let here (t : Stream) : Stream := match t.pending.find? fun e => e.id = id with
    | none => t
    | some e => { t.writeBank e.reg w with pending := t.pending.filter fun f => f.id ≠ id }
  (s.forgetAhead q).setStream q { here t with
    trb := t.trb.map fun e => { e with before := (here (({} : Stream).putRegs e.before)).regs } }

/-- The running stream's register `n` awaits the token or reply `id`. -/
def awaitReg (s : State) (n : BitVec 5) (id : Nat) : State :=
  let t := s.me
  if n = 0#5 then s
  else s.setMe { t with pending := (t.pending.filter fun e => e.reg ≠ t.bankOf n) ++ [⟨t.bankOf n, id⟩] }

end State

def tokenWord (rec : Nat) (side : Bool) (status : BitVec 8) (progress : Nat) : Word :=
  BitVec.ofNat 64 (rec * 2 ^ 44 + side.toNat * 2 ^ 40 + status.toNat * 2 ^ 32 + progress % 2 ^ 25)

/-! ## Elements in the destination's order (R263) -/

/-- Elements that one unit of a copy moves: an F4 byte holds two, a P6 word 21. -/
def unitElems : ElemFmt → Nat
  | .f4 => 2
  | .p6 => 21
  | _ => 1
def unitBytes : ElemFmt → Nat
  | .f4 => 1
  | .p6 => 16
  | f => f.bytes

/-- The extents in units. -/
def unitExtents (h : Handle) (f : ElemFmt) : List Nat :=
  match h.extents with
  | [] => []
  | e :: l => e / unitElems f :: l

def unitTotal (h : Handle) (f : ElemFmt) : Nat := (unitExtents h f).foldl (· * ·) 1

/-- Coordinates of a number in a mixed radix, the first digit fastest. -/
def digits : List Nat → Nat → List Nat
  | [], _ => []
  | e :: l, u => u % e :: digits l (u / e)

/-- The coordinates of the first element of unit `u`. -/
def unitCoords (h : Handle) (f : ElemFmt) (u : Nat) : List Int :=
  match digits (unitExtents h f) u with
  | [] => []
  | x :: l => (x * unitElems f : Nat) :: l.map fun (y : Nat) => (y : Int)

/-- The range of a handle's elements in the spaces of R168; addresses below 0 are no bytes of a space. -/
def handleRange (core : Nat) (h : Handle) : Nat × Nat × Nat :=
  let b := h.bounding
  ((if h.space then 1 + core else 0), b.1.toNat, b.2.toNat - b.1.toNat)

namespace CopyRec

def fmt (r : CopyRec) : ElemFmt := (Handle.fmt r.dst).getD .int8
def total (r : CopyRec) : Nat := unitTotal r.dst r.fmt
def progress (r : CopyRec) : Nat := r.done * unitBytes r.fmt
def ranges (r : CopyRec) (core : Nat) : List (Nat × Nat × Nat) := [handleRange core r.src, handleRange core r.dst]

/-- The global addresses that unit `u` of a copy touches, and whether each is the destination's. -/
def touches (r : CopyRec) (u : Nat) : List (Bool × Nat) :=
  let co := unitCoords r.dst r.fmt u
  let read (i : Nat) : List (Bool × Int) := match Handle.access r.src (match co with
      | [] => []
      | a :: l => (a + i) :: l) with
    | .elem _ (a : Int) => if Handle.space r.src then [] else [(false, a)]
    | _ => []
  let written := if Handle.space r.dst then [] else [(true, Handle.elemAddr r.dst co)]
  ((((List.range (unitElems r.fmt)).map read).flatten ++ written).filter fun e => decide (0 ≤ e.2)).map fun e =>
    (e.1, e.2.toNat)

/-- The aligned 64-byte blocks wholly within the range of the destination into which unit `u` of a copy writes. -/
def blocks (r : CopyRec) (u : Nat) : List Nat :=
  let rg := handleRange 0 r.dst
  let a := (Handle.elemAddr r.dst (unitCoords r.dst r.fmt u)).toNat
  [a / 64, (a + unitBytes r.fmt - 1) / 64].eraseDups.filter fun b =>
    decide (rg.2.1 ≤ 64 * b) && decide (64 * b + 64 ≤ rg.2.1 + rg.2.2)

/-- A copy may stand at unit `u` between two steps: no 64-byte block that it writes as one is written in part (R281). -/
def cutAt (r : CopyRec) (u : Nat) : Bool :=
  let behind := ((List.range u).map r.blocks).flatten
  (List.range r.total).all fun v => decide (v < u) || (r.blocks v).all fun b => !behind.contains b

/-- The units of a copy that move as one: those up to the next place where it may stand. -/
def together (r : CopyRec) : List Nat :=
  let l := (List.range r.total).drop r.done
  l.take 1 ++ (l.drop 1).takeWhile fun u => !r.cutAt u

/-- The element of a copy at its progress, on one of its sides. -/
def addrAt (r : CopyRec) (side : Bool) : Word :=
  BitVec.ofInt 64 (Handle.elemAddr (if side then r.dst else r.src) (unitCoords r.dst r.fmt r.done))

end CopyRec

/-- Where an access of a copy fails: the status, and the report that a malformed table entry calls for. -/
structure CopyFault where
  status : BitVec 8
  side : Bool
  addr : Word
  report : Option Nat

namespace State

/-- The place of an address that a copy of core `c` and context `x` touches; copies translate at user level (R350). -/
def copyPlace (s : State) (c x : Nat) (side isLocal : Bool) (a : Int) (acc : Acc) : Except CopyFault Nat :=
  let fail (status : BitVec 8) (report : Option Nat) : Except CopyFault Nat :=
    .error ⟨status, side, BitVec.ofInt 64 a, report⟩
  if a < 0 ∨ (if isLocal then (2 ^ 20 : Int) else 2 ^ 48) ≤ a then fail 4 none
  else if isLocal then (if s.localBacked c a.toNat then .ok (localPlace c a.toNat) else fail 4 none)
  else match s.translateAs c x false a.toNat acc with
    | .ok place fe => if fe then fail 5 none else .ok place
    | .page => fail 4 none
    | .prot => fail 5 none
    | .malformed level e => fail 4 (some (e + level * 2 ^ 56 + x * 2 ^ 58))
    | .poisoned _ => fail 15 none

/-- `n` bytes of a copy's source at address `a` and its place: those of a 64-byte block that the copy has read, or reads now,
as one where the block lies wholly within the source's range (R281); `seen` are those blocks. -/
def copySource (s : State) (c x : Nat) (h : Handle) (seen : SMap (List Byte)) (a place n : Nat) :
    State × SMap (List Byte) × Except Nat (List Byte) :=
  let rg := handleRange c h
  let b := a / 64
  let one : State × SMap (List Byte) × Except Nat (List Byte) :=
    let r := s.readPiece c x .l2 a place n (.copyEngine c)
    (r.1, seen, r.2)
  if rg.2.1 ≤ 64 * b ∧ 64 * b + 64 ≤ rg.2.1 + rg.2.2 ∧ a % 64 + n ≤ 64 then
    match SMap.find seen b with
    | some l => (s, seen, .ok ((l.drop (a % 64)).take n))
    | none => match s.readPiece c x .l2 (64 * b) (place - a % 64) 64 (.copyEngine c) with
      | (t, .ok l) => (t, SMap.set seen b l, .ok ((l.drop (a % 64)).take n))
      | _ => one
  else one

/-- One element of the source as a number (R263). -/
def copyElem (s : State) (c x : Nat) (h : Handle) (f : ElemFmt) (seen : SMap (List Byte)) (co : List Int) :
    State × SMap (List Byte) × Except CopyFault Nat :=
  match h.access co with
  | .pad => (s, seen, .ok h.pad)
  | .fault a => (s, seen, .error ⟨5, false, BitVec.ofInt 64 a, none⟩)
  | .elem co' a => match s.copyPlace c x false h.space a .load with
    | .error e => (s, seen, .error e)
    | .ok place => match s.copySource c x h seen a.toNat place (unitBytes f) with
      | (t, m, .error _) => (t, m, .error ⟨15, false, BitVec.ofInt 64 a, none⟩)
      | (t, m, .ok l) =>
        let v := leNat l
        let c0 := co'.headD 0
        (t, m, .ok (match f with
          | .f4 => v / 16 ^ (c0 % 2).toNat % 16
          | .p6 => v / 64 ^ (c0 % 21).toNat % 64
          | _ => v))

/-- What the elements of a unit give, up to the first that faults: how many came, their codes packed, the fault, and the blocks
of the source that have been read. -/
structure UnitRead where
  count : Nat
  value : Nat
  fault : Option CopyFault
  seen : SMap (List Byte)

/-- The elements of a unit from the one at `co` on, `n` of them, packed `w` bits each. -/
def copyElems (s : State) (c x : Nat) (h : Handle) (f : ElemFmt) (seen : SMap (List Byte)) (co : List Int) :
    Nat → State × UnitRead
  | 0 => (s, ⟨0, 0, none, seen⟩)
  | n + 1 =>
    match s.copyElem c x h f seen co with
    | (t, m, .error e) => (t, ⟨0, 0, some e, m⟩)
    | (t, m, .ok v) =>
      let co' := match co with
        | [] => []
        | a :: l => (a + 1) :: l
      let (u, r) := t.copyElems c x h f m co' n
      (u, { r with count := r.count + 1, value := v + 2 ^ f.width * r.value })

/-- One unit of a copy: its elements are read, then written at the destination's address, whose bounds are not applied
(R263). Elements before one that faults are delivered; the rest of their unit keeps its bits (R265). It gives the blocks of the
source that have been read. -/
def copyUnit (s : State) (c x : Nat) (r : CopyRec) (u : Nat) : State × Except CopyFault (SMap (List Byte)) :=
  let f := r.fmt
  let co := unitCoords r.dst f u
  let (t, e) := s.copyElems c x r.src f r.read co (unitElems f)
  let ended : Except CopyFault (SMap (List Byte)) := match e.fault with
    | some x => .error x
    | none => .ok e.seen
  if e.count = 0 then (t, ended)
  else match t.copyPlace c x true (Handle.space r.dst) (Handle.elemAddr r.dst co) .store with
    | .error e => (t, .error e)
    | .ok place =>
      let n := unitBytes f
      let kept := if e.fault.isSome then 2 ^ (f.width * e.count) * (t.natAt place n / 2 ^ (f.width * e.count)) else 0
      let cells := placed place (leBytes n (e.value + kept))
      ((t.homeWrite (dieOfCore c) (writerOfCopy c) cells (some x)).dropL1 c (linesOf cells), ended)

def copyRec (s : State) (c i : Nat) : Option CopyRec := SMap.find (s.core c).copies i
def setCopy (s : State) (c i : Nat) (r : CopyRec) : State :=
  let k := s.core c
  s.setCore c { k with copies := SMap.set k.copies i r }
def freeCopy (s : State) (c i : Nat) : State :=
  let k := s.core c
  s.setCore c { k with copies := SMap.erase k.copies i }

/-- The counts of a copy leave its stream's slots (R397). -/
def uncountCopy (s : State) (c : Nat) (r : CopyRec) : State :=
  let q := 4 * c + r.stream
  s.setStream q ((s.stream q).uncount r.counted)

/-- A copy stops at a fault: its record is kept and its token tells (R265). -/
def stopCopy (s : State) (c i : Nat) (r : CopyRec) (e : CopyFault) : State :=
  let s0 := match e.report with
    | some v => s.toHost 0 3 (BitVec.ofNat 64 v) (dieOfCore c)
    | none => s
  let s1 := (s0.setCopy c i { r with phase := .faulted e.status e.side e.addr, counted := [], read := [], waitsFrom := none }).uncountCopy c r
  s1.writePending (4 * c + r.stream) r.tokenId (tokenWord i e.side e.status r.progress)

/-- Elements at or after a fault that the engine had already written (R265): `n` units from `u` on. -/
def copyOverrun (s : State) (c x : Nat) (r : CopyRec) : Nat → Nat → State
  | _, 0 => s
  | u, n + 1 => (s.copyUnit c x r u).1.copyOverrun c x r (u + 1) n

/-- What the accesses of a unit need: whether their walks and they themselves reach the tables and the homes (R13). -/
def copyReaches (s : State) (c x : Nat) (r : CopyRec) (u : Nat) : Bool :=
  (r.touches u).all fun e => s.walkReaches c x e.2 &&
    match s.copyPlace c x e.1 false e.2 (if e.1 then .store else .load) with
    | .ok place => s.reaches (.core c) (s.siteOf place)
    | .error _ => true

/-- What the accesses of a unit start: the walks, and the fills that a regulated context pays for (R352, R413). -/
def copyStart (s : State) (c x : Nat) (r : CopyRec) (u : Nat) : State :=
  (r.touches u).foldl (fun t e => match t.copyPlace c x e.1 false e.2 (if e.1 then .store else .load) with
    | .ok place =>
      let t1 := t.walkIn c x e.2 place
      if t1.regulated x then t1.startFill x place 1 (fun line => !e.1 && t1.heldFor c .l2 line) e.1 else t1
    | .error _ => t) s

/-- Up to `n` units of the copy in record `i`. -/
def copyMove (s : State) (c x i : Nat) : Nat → State
  | 0 => s
  | n + 1 =>
    match s.copyRec c i with
    | none => s
    | some r =>
      if r.phase ≠ .active then s
      else match s.copyUnit c x r r.done with
        | (t, .error e) =>
          let (u, k) := t.freshFree
          let v := u.copyOverrun c x r (r.done + 1) (min (Config.copyOverrun k) (r.total - r.done - 1))
          v.stopCopy c i r e
        | (t, .ok seen) =>
          let r' := { r with done := r.done + 1, read := seen, waitsFrom := none }
          let t1 := t.addBank (dieOfCore c) x 47 (unitBytes r.fmt)
          if r'.done = r.total then (t1.setCopy c i { r' with phase := .delivered, counted := [], read := [] }).uncountCopy c r
          else (t1.setCopy c i r').copyMove c x i n

/-- Whether the local side of a copy lies in a page that another stream of the core holds (R253). -/
def copyHeld (s : State) (c : Nat) (r : CopyRec) : Bool := s.rangeHeld (4 * c + r.stream) (r.localRange c)

/-- The engine of a core that moves has stopped its copies (R217, step 2). -/
def copiesStopped (s : State) (c : Nat) : Bool := s.moves.any fun m => m.src == c && m.drained

/-- Whether a copy may transfer: the older stores that it waits for have performed (R263), and no sibling holds its page. -/
def copyReady (s : State) (c : Nat) (r : CopyRec) : Bool :=
  decide (r.phase = .active) && !s.copiesStopped c && !s.copyHeld c r &&
    !((s.stream (4 * c + r.stream)).storeQ.any fun e => r.after.contains e.seq)

/-- Whether it can: its requests reach their homes and what they need of the tables (R13, R336, R357). -/
def copyMayMove (s : State) (c : Nat) (r : CopyRec) : Bool :=
  s.copyReady c r && r.together.all (s.copyReaches c (((s.ownerOf c).map (·.1)).getD 0) r)

/-- Up to `n` pieces of a copy, each of the units that move as one, while their homes are in reach and no regulator of a stack
holds what they ask for (R412), and it has not come to where it `ends`. -/
def copyPieces (s : State) (c x i : Nat) (ends : CopyRec → Bool) : Nat → State
  | 0 => s
  | n + 1 =>
    match s.copyRec c i with
    | none => s
    | some r =>
      if s.copyMayMove c r && !ends r then
        let t := r.together.foldl (fun t u => t.copyStart c x r u) s
        if t.heldBack (4 * c) then t else (t.copyMove c x i r.together.length).copyPieces c x i ends n
      else s

/-- A transfer step of the copy engine, of `n` pieces; a frozen engine ends the copy with status 15 (R233, R263). The spec gives the side of
that token for a `COPY` word alone: that an accepted copy ends on side 0 too, at the source's element, is the model's choice
(log 76). Where no module carries its requests, their reply timer runs (R332, R336). -/
def copyStep (s : State) (c i n : Nat) : State :=
  match s.copyRec c i with
  | none => s
  | some r =>
    if r.phase = .active ∧ (s.core c).copyFrozen then s.stopCopy c i r ⟨15, false, r.addrAt false, none⟩
    else if s.copyMayMove c r then
      s.copyPieces c (((s.ownerOf c).map (·.1)).getD 0) i (fun _ => false) n
    else if s.copyReady c r && r.waitsFrom.isNone then
      s.setCopy c i { r with waitsFrom := some (s.now (dieOfCore c)) }
    else s

/-- The completion of a copy whose every write has performed (R264). -/
def copyFinish (s : State) (c i : Nat) : State :=
  match s.copyRec c i with
  | none => s
  | some r =>
    if r.phase = .delivered ∧ !s.copiesStopped c then
      let x := ((s.ownerOf c).map (·.1)).getD 0
      let k := s.core c
      let d := handleRange c r.dst
      let s1 := if (Handle.space r.dst) then s
        else (s.setCore c { k with l1d := k.l1d.filter fun e => !lineHit s (some [d.2]) x e.1 e.2 }).cancelFills c
          fun line ctx va => lineHit s (some [d.2]) x line ⟨ctx, va, 0, 0, []⟩
      let s2 := match r.binding with
        | some b => s1.deliverArrival x b false
        | none => s1
      (s2.freeCopy c i).writePending (4 * c + r.stream) r.tokenId (tokenWord 0 false 0 r.progress)
    else s

/-! ## The words (R259, R260, R262, R266) -/

/-- R260. -/
def copyValid (toLocal : Bool) (src dst : Handle) : Bool :=
  src.valid && dst.valid && src.space == !toLocal && dst.space == toLocal &&
  src.fmtCode == dst.fmtCode && src.ndim == dst.ndim &&
  (match dst.fmt with
    | some .f4 => dst.extent 0 % 2 == 0
    | some .p6 => dst.extent 0 % 21 == 0
    | _ => true) &&
  (match dst.fmt with
    | some f => decide (unitTotal dst f * unitBytes f ≤ 2 ^ 24)
    | none => false)

/-- The lowest free record, when the core and the stream may take one (R262). The spec does not say which free record a
copy takes; that it is the lowest is the model's choice (log 73). -/
def freeRecord (s : State) : Option Nat :=
  let l := (s.core s.myCore).copies
  if Config.copyRecordsPerStream ≤ (l.filter fun e => e.2.stream = s.cur % 4).length then none
  else (List.range Config.copyRecords).find? fun i => (SMap.find l i).isNone

/-- The stores of the running stream that a copy must wait for (R263). -/
def storesBefore (s : State) (h : Handle) : List Nat :=
  (s.me.storeQ.filter fun e => anyOverlap e.ranges [handleRange s.myCore h]).map (·.seq)

/-- A copy accepted into record `i`, and the register that takes its token. With a frozen engine it ends at once
(R233). -/
def acceptCopy (s : State) (i : Nat) (r : CopyRec) (st : BitVec 5) (b : Option Binding) : Effect :=
  let hits := s.me.tracking s.myCore (r.ranges s.myCore)
  if s.me.countFull hits then .hold .retry
  else
    let (s1, id) := s.freshId
    let r1 := { r with stream := s.cur % 4, seq := s.me.seqNext, phase := .active, tokenId := id, reg := st,
                       binding := b, counted := hits, after := s.storesBefore r.src }
    let s2 := ((s1.setMe (s1.me.count hits)).awaitReg st id).setCopy s.myCore i r1
    .done (if (s.core s.myCore).copyFrozen then
      s2.stopCopy s.myCore i r1 ⟨15, false, r1.addrAt false, none⟩
      else s2)

/-- `COPY.G2L`, `COPY.L2G` and their `.B` forms. -/
def copyForm (toLocal : Bool) (word : BitVec 32) (d a : BitVec 4) (st : BitVec 5) (group : Option (BitVec 8))
    (s : State) : Effect :=
  let src := s.handle a
  let dst := s.handle d
  if !copyValid toLocal src dst || group.any (fun k => !s.isMember k) then .trap .format 0
  else match s.freeRecord with
    | none => .hold .retry
    | some i =>
      if s.me.countFull (s.me.tracking s.myCore [handleRange s.myCore src, handleRange s.myCore dst]) then .hold .retry
      else
        let r : CopyRec := ⟨0, 0, word, toLocal, src, dst, 0, .active, 0, st, none, [], [], [], none⟩
        match group with
        | none => s.acceptCopy i r st none
        | some k =>
          let (t, b) := s.bindCopy s.myCtxId k s.myMember
          t.acceptCopy i r st (some b)

/-- The word of a copy in format ES (R40, R259). -/
def copyWord (g : BitVec 3) (minor : BitVec 5) (d a : BitVec 4) (st : BitVec 5) (x : BitVec 3) : BitVec 32 :=
  d ++ a ++ st ++ x ++ 0xF2#8 ++ g ++ minor

/-- The faulted record that a token names, as `COPY.RESUME` and `COPY.CANCEL` check it (R266). -/
def tokenRecord (s : State) (w : Word) : Option (Nat × CopyRec) :=
  let status := field w 32 8
  if status = 4 ∨ status = 5 ∨ status = 15 ∨ status = 32 then
    match s.copyRec s.myCore (field w 44 4) with
    | none => none
    | some r =>
      let faulted := match r.phase with
        | .faulted .. => true
        | _ => false
      if faulted && r.stream == s.cur % 4 && r.progress == field w 0 25 then some (field w 44 4, r) else none
  else none

end State

/-- `COPY.G2L` (R259 to R263). -/
def execCopyG2l (g : BitVec 3) (d : BitVec 4) (a : BitVec 4) (sc : BitVec 5) (s : State) : Out :=
  s.brick g fun s => s.copyForm true (State.copyWord g 0 d a sc 0) d a sc none

/-- `COPY.L2G` (R259 to R263). -/
def execCopyL2g (g : BitVec 3) (d : BitVec 4) (a : BitVec 4) (sc : BitVec 5) (s : State) : Out :=
  s.brick g fun s => s.copyForm false (State.copyWord g 1 d a sc 0) d a sc none

/-- `COPY.G2L.B` (R259 to R263, R315). -/
def execCopyG2lB (g : BitVec 3) (d : BitVec 4) (a : BitVec 4) (sc : BitVec 5) (k : BitVec 3) (s : State) : Out :=
  s.brick g fun s => s.copyForm true (State.copyWord g 2 d a sc k) d a sc (some (s.me.x[k.toNat].extractLsb' 0 8))

/-- `COPY.L2G.B` (R259 to R263, R315). -/
def execCopyL2gB (g : BitVec 3) (d : BitVec 4) (a : BitVec 4) (sc : BitVec 5) (k : BitVec 3) (s : State) : Out :=
  s.brick g fun s => s.copyForm false (State.copyWord g 3 d a sc k) d a sc (some (s.me.x[k.toNat].extractLsb' 0 8))

/-- `COPY.RESUME` (R266). -/
def execCopyResume (g : BitVec 3) (sc : BitVec 5) (s : State) : Out :=
  s.brick g fun s =>
    match s.tokenRecord (s.readS sc) with
    | none => .trap .format 0
    | some (i, r) => s.acceptCopy i r sc r.binding

/-- `COPY.CANCEL` (R266). -/
def execCopyCancel (g : BitVec 3) (sc : BitVec 5) (s : State) : Out :=
  s.brick g fun s =>
    match s.tokenRecord (s.readS sc) with
    | none => .trap .format 0
    | some (i, r) =>
      let t := s.freeCopy s.myCore i
      let u := match r.binding with
        | some b => t.deliverArrival t.myCtxId b true
        | none => t
      .done (u.writeS sc (tokenWord 0 (field (s.readS sc) 40 1 == 1) 33 r.progress))

/-- `COPY.CHK` (R266). -/
def execCopyChk (g : BitVec 3) (sc : BitVec 5) (s : State) : Out :=
  s.brick g fun s =>
    let w := s.readS sc
    let status := field w 32 8
    if status = 4 ∨ status = 5 ∨ status = 15 ∨ status = 32 then
      match s.copyRec s.myCore (field w 44 4) with
      | none => s.trapOpen .copyFault
      | some r => match r.phase with
        | .faulted _ _ a => .trap .copyFault a
        | .active => s.trapOpen .copyFault
        | .delivered => s.trapOpen .copyFault
    else .done s

end Sys2Proof.Machine
end

