-- ==== Sys2Proof/Machine/SysRegs.lean ====
section
/-! DEFINITION. System registers (R128 to R131, R210, R409, R410) and the instructions of major 0x7D (R207, R208). -/

namespace Sys2Proof.Machine

/-- Registers that user level may not reach (R128). -/
def privilegedReg : SysReg → Bool
  | .mesh | .epc | .ecause | .eaddr | .trapbase | .bp _ => true
  | .gen | .pitch | .srseed | .nftrap | .fewait | .status | .trate | .txofs | .tdead => false

namespace State

/-- `SYS.PITCH` of the running stream (R129). -/
def pitchReg (s : State) : Word :=
  let c := s.myCtx
  let j := s.myLogical
  BitVec.ofNat 64 (s.cur % 4 * 2 ^ 32 + j / c.w % 16 * 2 ^ 24 + j % c.w * 2 ^ 16 + c.h * 2 ^ 8 + c.w)

/-- `SYS.MESH` of a stream: the pitch origin and the mesh position of its core (R129). -/
def meshReg (s : State) (q : Nat) : Word :=
  let k := q / 4
  let c := s.ctx (((s.ownerOf k).map (·.1)).getD 0)
  BitVec.ofNat 64 (c.y0 * 2 ^ 32 + c.x0 * 2 ^ 24 + dieOfCore k * 2 ^ 16 + meshY k * 2 ^ 8 + meshX k)

/-- The value of a system register (R129, R210, R409). -/
def sysRead (s : State) : SysReg → Word
  | .gen => BitVec.ofNat 64 Config.generation
  | .pitch => s.pitchReg
  | .mesh => s.meshReg s.cur
  | .srseed => s.me.srseed
  | .nftrap => (BitVec.ofBool s.me.nftrap).setWidth 64
  | .fewait => s.me.fewait.setWidth 64
  | .status => (BitVec.ofBool s.board.narrow).setWidth 64
  | .epc => s.me.epc
  | .ecause => s.me.ecause.setWidth 64
  | .eaddr => s.me.eaddr
  | .trapbase => s.me.trapbase
  | .bp n => s.me.bp[n.toNat]
  | .trate => (s.die s.myDie).trate.setWidth 64
  | .txofs => (s.die s.myDie).txofs
  | .tdead => s.me.tdead

/-- A deadline written to `SYS.TDEAD`: one that has passed fires at once (R410). -/
def setDeadline (s : State) (q : Nat) (v : Word) : State :=
  if v ≠ 0 ∧ v.toNat ≤ s.now (dieOfCore (q / 4)) then
    (s.setStream q { s.stream q with tdead := 0 }).setPend q 1
  else s.setStream q { s.stream q with tdead := v }

/-- The state after a write of a register; none where the value is not one it takes (R8, R9). -/
def sysWrite (s : State) (v : Word) : SysReg → Option State
  | .srseed => some (s.setMe { s.me with srseed := v })
  | .nftrap => some (s.setMe { s.me with nftrap := v.getLsbD 0 })
  | .fewait => some (s.setMe { s.me with fewait := low32 v })
  | .epc => some (s.setMe { s.me with epc := maskEpc v })
  | .ecause => if field v 0 6 ≤ 18 then some (s.setMe { s.me with ecause := v.extractLsb' 0 6 }) else none
  | .eaddr => some (s.setMe { s.me with eaddr := v })
  | .trapbase => some (s.setMe { s.me with trapbase := v &&& 0x0000FFFFFFFFF000#64 })
  | .bp n => some (s.setMe { s.me with bp := s.me.bp.set n.toNat (v &&& 0x0000FFFFFFFFFFFF#64) })
  | .tdead => some (s.setDeadline s.cur v)
  | .gen | .pitch | .mesh | .status | .trate | .txofs => none

/-- A brick that reaches a system register: PRIV before the guard (R49, R128). -/
def sysBrick (s : State) (g : BitVec 3) (r : SysReg) (body : State → Effect) : Out :=
  if privilegedReg r then s.supervisorBrick g body else s.brick g body

end State

/-- `SYSR` (R130). -/
def execSysr (g : BitVec 3) (r : SysReg) (d : BitVec 5) (s : State) : Out :=
  s.sysBrick g r fun s => .done (s.writeS d (s.sysRead r))

/-- `SYSW` (R130). -/
def execSysw (g : BitVec 3) (r : SysReg) (d : BitVec 5) (s : State) : Out :=
  s.sysBrick g r fun s =>
    match s.sysWrite (s.readS d) r with
    | some t => .done t
    | none => .trap .illegal 0

/-- `SYSX` (R130). -/
def execSysx (g : BitVec 3) (r : SysReg) (d : BitVec 5) (s : State) : Out :=
  s.sysBrick g r fun s =>
    match s.sysWrite (s.readS d) r with
    | some t => .done (t.writeS d (s.sysRead r))
    | none => .trap .illegal 0

/-! ## Major 0x7D (R207, R208) -/

namespace State

/-- The end of the running stream's handler: the next fetch is at `SYS.EPC`, which is never odd nor beyond 2⁴⁸. -/
def eretTo (step : Bool) (s : State) : Effect := .keep (s.setMe (s.me.returnFromTrap step))

/-- The user register S28 or S29 that `k` names, whatever the level (R199). -/
def userReg (k : BitVec 1) : Nat := 28 + k.toNat

end State

/-- `ERET` (R208). -/
def execEret (s : State) : Out := s.supervisorBrick 0#3 (State.eretTo false)

/-- `ERET.STEP` (R208). -/
def execEretStep (s : State) : Out := s.supervisorBrick 0#3 (State.eretTo true)

/-- `BRK` (R208). -/
def execBrk (g : BitVec 3) (k : BitVec 6) (s : State) : Out :=
  s.brick g fun _ => .trap .brk (k.setWidth 64)

/-- `RDUS` (R208): it waits for a token still to be written to the user register. -/
def execRdus (g : BitVec 3) (d : BitVec 5) (a : BitVec 1) (s : State) : Out :=
  s.supervisorBrick g fun s =>
    if s.me.pending.any fun e => e.reg == State.userReg a then .hold (.operands [(.s, State.userReg a)])
    else .done (s.writeS d (s.me.s.toList.getD (State.userReg a) 0))

/-- `WRUS` (R208). -/
def execWrus (g : BitVec 3) (d : BitVec 1) (a : BitVec 5) (s : State) : Out :=
  s.supervisorBrick g fun s =>
    let t := s.me
    let r := State.userReg d
    .done (s.setMe { t with
      s := if h : r < 32 then t.s.set r (s.readS a) else t.s
      pending := t.pending.filter fun e => e.reg ≠ r })

/-- `RDTIME` (R208, R408). -/
def execRdtime (g : BitVec 3) (d : BitVec 5) (k : BitVec 1) (s : State) : Out :=
  s.setS g d fun s =>
    let t := BitVec.ofNat 64 (s.now s.myDie)
    if k = 0#1 then t else t + (s.die s.myDie).txofs

end Sys2Proof.Machine
end

