-- ==== Sys2Proof/Machine/Agents.lean ====
section
/-! DEFINITION. Steps of agents that are no words. -/

namespace Sys2Proof.Machine

/-- A step of an agent that exists; a step of one that does not is a fault (R11, R12). -/
def agent (found : Bool) (s : State) : Out := if found then .next s else .fault .noSuchAgent

/-- A step of a stream, a core or a die. -/
def ofStream (q : Nat) (s : State) : Out := agent (decide (q < Config.streamCount)) s
def ofCore (c : Nat) (s : State) : Out := agent (decide (c < Config.coreCount)) s
def ofDie (d : Nat) (s : State) : Out := agent (decide (d < 2)) s

/-! ## Order and reach of messages (R13, R321, R322, R336) -/

namespace State

/-- The class of a message (R321), the unit that sends it and the unit it goes to; none for the end of a packet, which its
destination notes itself (R337). -/
def msgLane (s : State) : Msg → Option (BitVec 2 × Site × Site)
  | .readReq c _ _ line _ => some (1, .core c, .slice (s.homeSlice line))
  | .readData c _ _ line _ _ _ => some (1, .slice (s.homeSlice line), .core c)
  | .barDone q _ _ _ d => some (1, .group d, .core (q / 4))
  | .barBroken q _ d => some (1, .group d, .core (q / 4))
  | .steCmd k c => some (1, .core (c.stream / 4), .ste k)
  | .steReply q _ _ k => some (1, .ste k, .core (q / 4))
  | .start c j _ _ _ _ d => some (1, .command d, .core ((s.ctx c).position j))
  | .marker _ c bulk p => some (if bulk then 0 else 1, .core p, .core c)
  | .taskGiven q k _ => some (1, .heap k.die, .core (q / 4))
  | .feReply q _ _ => match (s.stream q).wait with
    | .fe _ _ _ place _ => some (1, .slice (s.homeSlice place), .core (q / 4))
    | _ => none
  | .mgmt d _ _ => some (2, .command d, .command d)
  | .report d _ => some (2, .command d, .hostPort)
  | .poison _ => none

/-- Whether message `n` may arrive: no earlier message of its class between the same units is still on its way (R322), and
the link carries it where it crosses dies (R13, R320, R336). -/
def arrives (s : State) (n : Nat) : Bool :=
  match (s.net[n]?).bind s.msgLane with
  | none => true
  | some l => !((s.net.take n).any fun m => s.msgLane m == some l) && s.sends l.2.1 l.2.2

end State

/-- A message leaves the network. -/
def State.takeMsg (s : State) (n : Nat) : State := { s with net := s.net.eraseIdx n }

end Sys2Proof.Machine
end

