-- ==== Sys2Proof/Machine/Tasks.lean ====
section
/-! DEFINITION. Task heaps, takes and steals (R296 to R301), task starts and the task words (R302 to R308), and cancelling
(R309, R310). -/

namespace Sys2Proof.Machine

/-! ## Tasks in order (R298) -/

namespace Task

/-- The order by (key, seq). -/
def le (a b : Task) : Bool := a.key.ult b.key || (a.key == b.key && a.seq.ule b.seq)

def insertSorted (t : Task) : List Task → List Task
  | [] => [t]
  | u :: l => if t.le u then t :: u :: l else u :: insertSorted t l

def sort : List Task → List Task
  | [] => []
  | t :: l => insertSorted t (sort l)

/-- The first and the last of a list in the order. -/
def least : List Task → Option Task
  | [] => none
  | t :: l => match least l with
    | some u => some (if t.le u then t else u)
    | none => some t
def greatest : List Task → Option Task
  | [] => none
  | t :: l => match greatest l with
    | some u => some (if t.le u then u else t)
    | none => some t

/-- The word that `S6` takes at a task start (R303). -/
def info (t : Task) : Word :=
  BitVec.ofNat 64 (t.bound.toNat * 2 ^ 25 + t.hasGroup.toNat * 2 ^ 24 + t.group.toNat * 2 ^ 16 + t.tag.toNat)

end Task

/-! ## Entries in memory (R296, R299) -/

namespace Task

/-- The 64 bytes of an entry. -/
def bytes (t : Task) : List Byte :=
  leBytes 8 t.entry.toNat ++ leBytes 4 t.key.toNat ++ leBytes 2 t.tag.toNat ++ leBytes 1 t.group.toNat ++
    leBytes 1 (t.hasGroup.toNat + 2 * t.bound.toNat + 4 * t.die) ++
    (t.args.toList.map fun x => leBytes 8 x.toNat).flatten ++ leBytes 8 t.seq.toNat ++ leBytes 2 t.owner.toNat ++ leBytes 6 0

/-- The task that 64 bytes are an entry of. -/
def ofBytes (l : List Byte) : Task :=
  let at' (o n : Nat) : Nat := leNat ((l.drop o).take n)
  let w (o : Nat) : Word := BitVec.ofNat 64 (at' o 8)
  let f := at' 0xF 1
  { entry := w 0
    key := BitVec.ofNat 32 (at' 8 4)
    tag := BitVec.ofNat 16 (at' 0xC 2)
    group := BitVec.ofNat 8 (at' 0xE 1)
    hasGroup := f.testBit 0
    bound := f.testBit 1
    die := f / 4 % 2
    args := #v[w 0x10, w 0x18, w 0x20, w 0x28]
    seq := w 0x30
    owner := BitVec.ofNat 16 (at' 0x38 2) }

end Task

/-- Free entries of SRAM and spill together (R299). -/
def Die.freeEntries (d : Die) : Nat :=
  Config.heapEntries + (d.spillRegion.map (·.2)).getD 0 - (d.heap.length + d.spill.length)

/-- A spill entry that holds no task: the lowest. -/
def Die.freeSlot (d : Die) : Nat := ((List.range (d.spill.length + 1)).find? fun k => !d.spill.contains k).getD 0

namespace State

/-- The address of an entry of a die's spill region. -/
def spillAddr (s : State) (d slot : Nat) : Nat := ((s.die d).spillRegion.map (·.1)).getD 0 + 64 * slot

/-- The tasks of a die's spill region with their entries. -/
def spilled (s : State) (d : Nat) : List (Nat × Task) :=
  (s.die d).spill.map fun k => (k, Task.ofBytes (s.bytesAt (s.spillAddr d k) 64))

/-- Every queued task of a die, those in SRAM first. -/
def queued (s : State) (d : Nat) : List Task := (s.die d).heap ++ (s.spilled d).map (·.2)

/-- An entry of the spill region is written. -/
def writeSpill (s : State) (d slot : Nat) (t : Task) : State :=
  s.homeWrite d unitWriter (placed (s.spillAddr d slot) t.bytes)

/-- The queued tasks of a die that a test names leave it. -/
def removeTasks (s : State) (d : Nat) (gone : Task → Bool) : State :=
  let out := (s.spilled d).filter fun e => gone e.2
  let x := s.die d
  s.setDie d { x with
    heap := x.heap.filter fun t => !gone t
    spill := x.spill.filter fun k => !(out.any fun e => e.1 == k) }

/-- A change of the queued tasks of a die, where they lie. -/
def mapTasks (s : State) (d : Nat) (f : Task → Task) : State :=
  let x := s.die d
  (s.spilled d).foldl (fun t e => if f e.2 = e.2 then t else t.writeSpill d e.1 (f e.2))
    (s.setDie d { x with heap := x.heap.map f })

/-- A numbered task enters a heap; a full SRAM moves its last entry to spill (R299). -/
def placeEntry (s : State) (d : Nat) (t : Task) : State :=
  let x := s.die d
  let h := x.heap ++ [t]
  if h.length ≤ Config.heapEntries then s.setDie d { x with heap := h }
  else match Task.greatest h with
    | none => s
    | some u =>
      let k := x.freeSlot
      (s.setDie d { x with heap := h.filter fun v => v.seq ≠ u.seq, spill := x.spill ++ [k] }).writeSpill d k u

/-- Inserting a task under the next insertion number (R296). -/
def insertEntry (s : State) (d : Nat) (t : Task) : State :=
  let x := s.die d
  (s.setDie d { x with inserted := x.inserted + 1 }).placeEntry d { t with seq := x.inserted }

/-- The refill of a die's SRAM from spill, smallest first, up to the level of R299; `n` tasks at most. -/
def refillHeap (s : State) (d : Nat) : Nat → State
  | 0 => s
  | n + 1 =>
    if (s.die d).heap.length < Config.heapRefillBelow then
      match Task.least ((s.spilled d).map (·.2)) with
      | none => s
      | some u =>
        let x := (s.removeTasks d fun v => v.seq == u.seq).die d
        ((s.setDie d x).setDie d { x with heap := x.heap ++ [u] }).refillHeap d n
    else s

/-- How many more tasks of a context the heap of a die accepts (R299, R361): the quota counts the tasks of the context
on that die. -/
def heapRoom (s : State) (d c : Nat) : Nat :=
  min (s.die d).freeEntries ((s.ctx c).taskq - ((s.queued d).filter fun t => t.owner = (s.ctx c).owner).length)

/-- Whether a context holds a core on a die. -/
def holdsCoreOn (s : State) (c d : Nat) : Bool :=
  (List.range (s.ctx c).cores).any fun j => (s.ctx c).placed j && dieOfCore ((s.ctx c).position j) == d

/-- A task of context `c` is inserted on a die; it is bound there only if the context holds a core there (R297). -/
def insertTask (s : State) (c d : Nat) (t : Task) : State :=
  s.insertEntry d { t with die := d, bound := t.bound && s.holdsCoreOn c d }

/-- The tasks of a context that were bound to a die on which it holds no core any more become unbound (R297). -/
def unbind (s : State) (c : Nat) : State :=
  let free (d : Nat) (t : Task) : Task :=
    if t.owner = (s.ctx c).owner ∧ t.bound ∧ !s.holdsCoreOn c d then { t with bound := false } else t
  (s.mapTasks 0 (free 0)).mapTasks 1 (free 1)

/-- Whether a queued task is eligible for stream `q` (R297). -/
def eligible (s : State) (q : Nat) (t : Task) : Bool :=
  match s.ownerOf (q / 4) with
  | none => false
  | some (c, _) =>
    t.owner == (s.ctx c).owner && !(s.stream q).faultMark &&
      (!t.hasGroup || (s.stream q).groups.any fun m => m.group == t.group)

/-- The tasks of a die that are eligible for a stream, in the order of R298. -/
def eligibleOn (s : State) (d q : Nat) : List Task := Task.sort ((s.queued d).filter (s.eligible q))

/-- The tasks of `E` that a take may return: among the first 16, the smallest seq of each key. -/
def window (e : List Task) : List Task :=
  (e.take 16).foldl (fun l t => if l.any fun u => u.key = t.key then l else l ++ [t]) []

/-- The tasks of die `d` that a steal for stream `q` may remove: those eligible and not bound there (R301). -/
def stealable (s : State) (d q : Nat) : List Task :=
  (s.queued d).filter fun t =>
    s.eligible q t && !(t.bound && s.holdsCoreOn (((s.ownerOf (q / 4)).map (·.1)).getD 0) d)

/-- Whether a task of die `d` serves the request of stream `q` that is registered there: for a stream of the die any eligible
task, for one of the other die a task that may be stolen. -/
def serves (s : State) (d q : Nat) : Bool :=
  if dieOfCore (q / 4) = d then !(s.eligibleOn d q).isEmpty else !(s.stealable d q).isEmpty

/-- The task that a take returns (R298). With `E` wholly in SRAM and no other take or steal in flight it is the first;
otherwise the choice within the window is free (log 7). In flight is another request of the die that a task there serves: one
that finds no task only waits (log 7). -/
def chooseTask (s : State) (d q : Nat) : State × Option Task :=
  let e := s.eligibleOn d q
  let calm := !((s.spilled d).any fun e => s.eligible q e.2) && !((s.die d).takes.any fun p => p != q && s.serves d p)
  if calm then (s, e.head?)
  else
    let w := window e
    let (t, k) := s.freshFree
    (t, w[Config.takeChoice k % w.length]?)

/-- Withdrawing every armed monitor of a stream from the slices. -/
def dropMonitors (s : State) (q : Nat) : State :=
  { s with monEntries := s.monEntries.filter fun e => e.stream ≠ q }

end State

/-- The registers and fields that a task start of a stream writes (R303). -/
def Stream.loadTask (t : Stream) (k : Task) : Stream :=
  let args := ((((t.writeS 1#5 k.args[0]).writeS 2#5 k.args[1]).writeS 3#5 k.args[2]).writeS 4#5 k.args[3])
  let u := (args.writeS 5#5 (k.key.setWidth 64)).writeS 6#5 k.info
  { u with
    task := some k
    lc := Vector.replicate 4 0
    m := t.m.map fun r => { r with armed := false, fired := false }
    level := false
    step := false
    pend := u.pend &&& 0b01100#5
    tdead := 0
    pc := k.entry
    run := .ready
    wait := .none }

namespace State

/-- A task start of stream `q` (R303). -/
def taskStart (s : State) (q : Nat) (k : Task) : State :=
  let s1 := s.dropMonitors q
  let s2 := s1.setStream q ((s1.stream q).loadTask k)
  (s2.acquireAt q .system none).forgetAhead q

/-- Whether a stream waits in `TASK.NEXT`. -/
def awaitsTask (s : State) (q : Nat) : Bool :=
  match (s.stream q).wait with
  | .taskNext _ => true
  | _ => false

/-- A stream that waits in `TASK.NEXT` is served, while it moves too (R308); not while its context is switched out, which
withdraws its request. -/
def takesNow (s : State) (q : Nat) : Bool :=
  let t := s.stream q
  (t.run == .waiting || (t.run == .moving && t.runBefore == .waiting && s.holdsFor q)) && s.awaitsTask q

/-- A task leaves die `d` and starts on stream `q`, whose request is gone everywhere; for a stream that moves it is held
until the stream stands on its new core (R218, R308). -/
def deliver (s : State) (d q : Nat) (k : Task) : State :=
  let s1 := s.removeTasks d fun t => t.seq == k.seq
  let s2 := { s1 with dies := SMap.mapVal (fun _ x => x.withdraw q) s1.dies }
  if s.holdsFor q then s2.post (.taskGiven q k (s.now (dieOfCore (q / 4)))) else s2.taskStart q k

/-- The task that is on its way to a stream, and its place in the network. -/
def taskNews (s : State) (q : Nat) : Option (Nat × Task) :=
  s.net.zipIdx.findSome? fun e => match e.1 with
    | .taskGiven p k _ => if p = q then some (e.2, k) else none
    | _ => none

/-- The task that is on its way to a stream starts there (R308); where the stream has stopped meanwhile, the task goes back
to its heap, unchanged: no task is lost (R299). -/
def hearTask (s : State) (q : Nat) : State :=
  match s.taskNews q with
  | some (n, k) =>
    let t := { s with net := s.net.eraseIdx n }
    if s.awaitsTask q then t.taskStart q k else t.placeEntry k.die k
  | none => s

/-- The first stream of a die for which a task has come that was held while it moved. -/
def heldTask (s : State) (die : Nat) : Option Nat :=
  s.net.findSome? fun m => match m with
    | .taskGiven q _ _ => if dieOfCore (q / 4) = die ∧ !s.holdsFor q then some q else none
    | _ => none

/-- The running stream's request joins the takes of its die. -/
def requestTask (s : State) : Effect :=
  let x := s.die s.myDie
  let s1 := s.setDie s.myDie { x with takes := x.takes ++ [s.cur] }
  (s1.setMe { s1.me with task := none }).waitFor (.taskNext false)

end State

/-! ## Heap steps -/

namespace State

/-- Whether the heap of die `d` may serve the request of stream `q` now: the stream waits for a task, one serves it, and the link
carries it to a stream of the other die (R13). -/
def mayServe (s : State) (d q : Nat) : Bool :=
  s.takesNow q && s.serves d q && s.sends (.heap d) (.core (q / 4))

end State

/-- `TASK_DELIVERY` (R298, R300): a task that was held for a stream that moved starts (R308); else the request that arrived first
of those that a task serves is carried out. A request registered from the other die takes the first task inserted that serves
it (R301). -/
def execTaskDelivery (die : Nat) (s : State) : Out :=
  ofDie die (match s.heldTask die with
  | some q => s.hearTask q
  | none => match (s.die die).takes.find? (s.mayServe die) with
    | none => s
    | some q =>
      if dieOfCore (q / 4) = die then
        match s.chooseTask die q with
        | (t, some k) => t.deliver die q k
        | (t, none) => t
      else match (s.stealable die q).head? with
        | some k => s.deliver die q { k with bound := false }
        | none => s)

/-- `TASKMSG` (R301): the first take that finds no task on its die passes to the other die. It arrives there behind the requests
that a task of that die serves (R300), steals the task with the largest pair, or stays registered there. -/
def execTaskmsg (die : Nat) (s : State) : Out :=
  let far := 1 - die
  ofDie die (match (s.die die).takes.find? fun q =>
      dieOfCore (q / 4) == die && s.takesNow q && !s.serves die q && !(s.die far).takes.contains q &&
        s.reaches (.core (q / 4)) (.heap far) with
    | none => s
    | some q =>
      if (s.die far).takes.any (s.mayServe far) then s
      else match Task.greatest (s.stealable far q) with
        | some k => s.deliver far q { k with bound := false }
        | none => s.setDie far { s.die far with takes := (s.die far).takes ++ [q] })

/-- `SPILL_REFILL` (R299). -/
def execSpillRefill (die : Nat) (s : State) : Out :=
  ofDie die (s.refillHeap die (s.die die).spill.length)

/-! ## Task images (R296) -/

/-- A `TASK.SPAWN` image, from its 64 bytes. -/
structure SpawnImage where
  task : Task
  far : Bool
  clean : Bool

def SpawnImage.ofBytes (l : List Byte) : SpawnImage :=
  let at' (o n : Nat) : Nat := leNat ((l.drop o).take n)
  let f := at' 0x0F 1
  let w (o : Nat) : Word := BitVec.ofNat 64 (at' o 8)
  { task := {
      entry := w 0, key := BitVec.ofNat 32 (at' 8 4), tag := BitVec.ofNat 16 (at' 0x0C 2)
      group := BitVec.ofNat 8 (at' 0x0E 1), hasGroup := f.testBit 0
      args := #v[w 0x10, w 0x18, w 0x20, w 0x28] }
    far := f.testBit 2
    clean := at' 0x30 16 == 0 && !f.testBit 1 && at' 0 1 % 2 == 0 }

namespace State

/-- Whether a task's group, where it names one, has a member. -/
def groupNamed (s : State) (c : Nat) (t : Task) : Bool := !t.hasGroup || (s.group c t.group).members != 0

/-- The insertion of a spawned task: the new state and the predicate (R304). -/
def spawn (s : State) (img : SpawnImage) (bound : Bool) : State × Bool :=
  let d := if img.far then 1 - s.myDie else s.myDie
  if s.groupNamed s.myCtxId img.task && decide (0 < s.heapRoom d s.myCtxId) then
    (s.insertTask s.myCtxId d { img.task with bound := bound, owner := s.myCtx.owner }, true)
  else (s, false)

end State

/-! ## The task words (R302 to R306) -/

/-- `TASK.SPAWN` (R304). -/
def execTaskSpawn (g : BitVec 3) (d : BitVec 3) (a : BitVec 5) (x : BitVec 1) (s : State) : Out :=
  s.brick g fun s =>
    let ea := s.readS a
    match s.checkScalar ea { size := 64, acc := .load } with
    | .no e => e
    | .ok place => s.afterOlderButCopies fun s => s.starting .home [(ea.toNat, place, 64)] fun s =>
      match s.readHome place 64 with
      | (t, .error k) => t.stopAt k
      | (t, .ok l) =>
        let img := SpawnImage.ofBytes l
        if !img.clean then .trap .format ea
        else s.asking (.heap (if img.far then 1 - s.myDie else s.myDie)) (
          let r := t.spawn img (x == 1#1)
          .done (r.1.writeP d r.2))

/-- `TASK.NEXT` (R305). -/
def execTaskNext (g : BitVec 3) (s : State) : Out := s.userBrick g fun s => s.requestTask

/-- `TASK.DONE` (R305). -/
def execTaskDone (g : BitVec 3) (s : State) : Out :=
  s.userBrick g fun s => .keep (s.setMe { s.me with task := none, run := .idle, wait := .none })

/-- `TASK.YIELD` (R305). The event point of a stream that waits then, the spec names for the `TASK.NEXT` word only: here it is this
word, which after an event or a resume runs again with no running task and raises FORMAT (log 98). -/
def execTaskYield (g : BitVec 3) (a : BitVec 5) (s : State) : Out :=
  s.userBrick g fun s =>
    match s.me.task with
    | none => .trap .format 0
    | some t => s.afterOlderButCopies fun s =>
      if s.heapRoom s.myDie s.myCtxId = 0 then .done s
      else
        let u := { t with
          entry := s.own + 4#64, key := (s.readS a).extractLsb' 0 32
          args := #v[s.readS 1#5, s.readS 2#5, s.readS 3#5, s.readS 4#5] }
        (s.insertTask s.myCtxId s.myDie u).requestTask

/-- `TASK.INFO` (R306). -/
def execTaskInfo (g : BitVec 3) (d : BitVec 5) (k : BitVec 3) (s : State) : Out :=
  s.brick g fun s =>
    .done (s.writeS d (match s.me.task with
      | none => 0
      | some t =>
        if k = 0#3 then t.key.setWidth 64
        else if k = 1#3 then t.info
        else if k = 6#3 then t.entry
        else t.args.toList.getD (k.toNat - 2) 0))

/-! ## Cancelling (R309) -/

namespace State

/-- The launches of a context that are in flight when a tag is cancelled: those that a queue of it holds unread (R29). -/
def meetLaunches (s : State) (c : Nat) (tag : BitVec 16) : State :=
  match s.ctx? c with
  | none => s
  | some x =>
    let unread (d : Nat) : Nat :=
      let r := x.queues.toList.getD d {}
      if r.present then (r.tail + 2 ^ r.n - r.head) % 2 ^ r.n else 0
    let more := ([0, 1].map fun d => (d, tag, unread d)).filter fun e => e.2.2 != 0
    if more.isEmpty then s else s.setCtx c { x with cancels := x.cancels ++ more }

/-- The deliveries of a context's tasks with a tag that have not started: the tasks are gone, and their streams request a
task again, before those that began to wait later (R300, R309). -/
def cancelGiven (s : State) (hit : Task → Bool) : State × Nat :=
  let gone := s.net.filterMap fun m => match m with
    | .taskGiven q k _ => if hit k then some (q, s.awaitsTask q) else none
    | _ => none
  let t := { s with net := s.net.filter fun m => match m with
    | .taskGiven _ k _ => !hit k
    | _ => true }
  (gone.foldr (fun e u =>
    let d := dieOfCore (e.1 / 4)
    if e.2 then u.setDie d { u.die d with takes := e.1 :: (u.die d).takes } else u) t, gone.length)

/-- The removal of every queued task of context `c` with a tag, and `CANCELLED` for every stream of the context whose
running task carries it: the new state, and the number of tasks removed. -/
def cancelTag (s0 : State) (c : Nat) (tag : BitVec 16) : State × Nat :=
  if tag = 0#16 then (s0, 0)
  else
    let hit (t : Task) : Bool := t.owner == (s0.ctx c).owner && t.tag == tag
    let (s, given) := (s0.meetLaunches c tag).cancelGiven hit
    let n := ((s.queued 0).filter hit).length + ((s.queued 1).filter hit).length + given
    let s1 := (s.removeTasks 0 hit).removeTasks 1 hit
    let mark (q : Nat) (t : Stream) : Stream :=
      if (s.ownerOf (q / 4)).map (·.1) = some c ∧ t.task.any (fun k => k.tag == tag) then
        { t with pend := t.pend ||| 16#5 }
      else t
    ({ s1 with streams := SMap.mapVal mark s1.streams }, n)

end State

/-- `CANCEL` (R309). -/
def execCancel (g : BitVec 3) (d : BitVec 5) (a : BitVec 5) (s : State) : Out :=
  s.brick g fun s =>
    let tag := (s.readS a).extractLsb' 0 16
    if tag = 0#16 then .done (s.writeS d 0)
    else s.asking (.heap (1 - s.myDie)) (
      let r := s.cancelTag s.myCtxId tag
      .done (r.1.writeS d (BitVec.ofNat 64 r.2)))

end Sys2Proof.Machine
end

