-- ==== Sys2Proof/Machine/Ranges.lean ====
section
/-! DEFINITION. Range slots (R393 to R399), loop-nest claims (R402) and stall-bank reads (R406): major 0x7E. -/

namespace Sys2Proof.Machine

namespace State

/-- The slot takes a new binding, or none: its count starts at 0 (R395, R398). -/
def bindSlot (s : State) (n : BitVec 3) (x : RangeSlot) : State :=
  s.setMe { s.me with n := s.me.n.set n.toNat { x with gen := s.me.n[n.toNat].gen + 1 } }

/-- A binding of `len` bytes from `base` on. The length field keeps the low 48 bits (R3, R393): those of 2⁴⁸ are 0. -/
def bindRange (s : State) (n : BitVec 3) (space : Bool) (base len : Nat) : State :=
  s.bindSlot n ⟨true, space, 0, BitVec.ofNat 48 len, BitVec.ofNat 48 base, 0⟩

end State

/-- `RANGE.TAG nd, [sa], sb` (R395). -/
def execRangeTag (g : BitVec 3) (d : BitVec 3) (a : BitVec 5) (b : BitVec 5) (s : State) : Out :=
  s.brick g fun s =>
    let ea := s.readS a
    let len := s.readS b
    let top := ea.extractLsb' 48 16
    if top ≠ 0#16 ∧ top ≠ 0xFFFF#16 then .trap .format ea
    else
      let space := top == 0xFFFF#16
      if len = 0#64 then .done (s.bindSlot d {})
      else if (if space then 2 ^ 20 else 2 ^ 48) < field ea 0 48 + len.toNat then .trap .format ea
      else .done (s.bindRange d space (field ea 0 48) len.toNat)

/-- `RANGE.TAG nd, hk` (R395, R396). -/
def execRangeTagH (g : BitVec 3) (d : BitVec 3) (k : BitVec 4) (s : State) : Out :=
  s.brick g fun s =>
    let h := s.handle k
    let b := h.bounding
    if h.isEmpty then .trap .format 0
    else if b.1 < 0 ∨ (h.limit : Int) < b.2 then .trap .format 0
    else .done (s.bindRange d h.space b.1.toNat (b.2 - b.1).toNat)

/-- `RANGE.CLR` (R395). -/
def execRangeClr (g : BitVec 3) (d : BitVec 3) (s : State) : Out :=
  s.brick g fun s => .done (s.bindSlot d {})

/-- `RANGE.RD` (R399). -/
def execRangeRd (g : BitVec 3) (d : BitVec 5) (a : BitVec 3) (k : BitVec 2) (s : State) : Out :=
  s.setS g d fun s =>
    let n := s.me.n[a.toNat]
    if k = 0#2 then BitVec.ofNat 64 (n.bound.toNat * 2 ^ 17 + n.space.toNat * 2 ^ 16 + n.count.toNat)
    else if k = 1#2 then n.base.setWidth 64
    else n.length.setWidth 64

/-- `NEST.CLAIM` (R402). -/
def execNestClaim (g : BitVec 3) (d : BitVec 5) (a : BitVec 5) (s : State) : Out :=
  s.brick g fun s => s.atomForm 0x40#8 d (s.readS a) 0 0

/-- `PERF.RD` (R406). -/
def execPerfRd (g : BitVec 3) (d : BitVec 5) (a : BitVec 5) (s : State) : Out :=
  s.brick g fun s =>
    let x := s.readS a
    if 51 < field x 0 8 ∨ field x 9 55 ≠ 0 then .trap .format 0
    else .done (s.writeS d (s.bank (field x 8 1) s.myCtxId (field x 0 8)))

end Sys2Proof.Machine
end

