-- ==== Sys2Proof/Machine/SteTree.lean ====
section
/-! DEFINITION. Sum trees (R375 to R377): descriptors, records, and how a sum-tree engine reaches them (R381). -/

namespace Sys2Proof.Machine

/-! ## Descriptors and records -/

namespace SteDesc
def base (d : BitVec 256) : Nat := field d 0 48
def k (d : BitVec 256) : Nat := field d 48 5
def leaves (d : BitVec 256) : Nat := 2 ^ k d
def held (d : BitVec 256) : Bool := d.getLsbD 63
def owner (d : BitVec 256) : BitVec 16 := d.extractLsb' 64 16
def scale (d : BitVec 256) : Int := (d.extractLsb' 88 8).toInt
def beta (d : BitVec 256) : Nat := field d 96 32
def seed (d : BitVec 256) : Word := d.extractLsb' 128 64
def epoch (d : BitVec 256) : Nat := field d 192 32
def drops (d : BitVec 256) : Nat := field d 224 32
/-- First address and number of bytes of the region. -/
def region (d : BitVec 256) : Nat × Nat := (base d, 24 * leaves d)

/-- Address and size of the record of heap node `n`. -/
def record (d : BitVec 256) (n : Nat) : Nat × Nat :=
  if n < leaves d then (base d + 16 * n, 16) else (base d + 16 * leaves d + 8 * (n - leaves d), 8)
end SteDesc

/-- Sum and smallest nonzero mass below a node. -/
structure NodeVal where
  sum : Nat
  minnz : Nat
  deriving DecidableEq, Repr

/-- The smaller of two numbers, 0 standing for none. -/
def minNonzero (a b : Nat) : Nat := if a = 0 then b else if b = 0 then a else min a b

namespace NodeVal
def join (a b : NodeVal) : NodeVal := ⟨a.sum + b.sum, minNonzero a.minnz b.minnz⟩
/-- An internal node's 16 bytes. -/
def ofNode (x : Nat) : NodeVal := ⟨x % 2 ^ 56, x / 2 ^ 64 % 2 ^ 32⟩
def toNode (v : NodeVal) : Nat := v.sum % 2 ^ 56 + v.minnz * 2 ^ 64
/-- A leaf's 8 bytes. -/
def ofLeaf (x : Nat) : NodeVal := ⟨x % 2 ^ 32, x % 2 ^ 32⟩
end NodeVal

def leafMass (x : Nat) : Nat := x % 2 ^ 32
def leafGen (x : Nat) : Nat := x / 2 ^ 32 % 2 ^ 16
def leafRec (mass gen : Nat) : Nat := mass % 2 ^ 32 + gen % 2 ^ 16 * 2 ^ 32

/-- The mass of a priority (R377); none where it is invalid. -/
def massOf (scale : Int) (p : Nat) : Option Nat :=
  match Fmt.fp32.value p with
  | .nan => none
  | .inf neg => if neg then none else some (2 ^ 32 - 1)
  | .fin neg m e =>
    if neg && m != 0 then none
    else some (((Val.fin false m e).scale scale).toInt Rnd.nearest 0 0 (2 ^ 32 - 1)).toNat

/-! ## Access (R350, R381) -/

/-- Why a command ends with nothing written: its status, and the report that a malformed table entry calls for. -/
structure SteFail where
  status : Nat
  report : Option Nat := none
  /-- No fault of the command: what it needs is out of reach, and it waits (R336). -/
  away : Bool := false
  deriving DecidableEq, Repr

namespace State

/-- The leaf that translates an address for a unit of a die that has no L1 TLB. -/
def leafOnDie (s : State) (d c va : Nat) : Walked :=
  match tlbHit (s.die d).tlb c va with
  | some e => .leaf e.leaf e.size
  | none => s.walk d c va

/-- `translate` of R350 at user level for a unit of a die; a full/empty page gives PROT (R223). -/
def translateOnDie (s : State) (d c va : Nat) (acc : Acc) : Xlate :=
  if 2 ^ 48 ≤ va then .page
  else match s.leafOnDie d c va with
    | .page => .page
    | .malformed l a => .malformed l a
    | .poisoned k => .poisoned k
    | .leaf e size =>
      if (acc.rd && !Pte.rd e) || (acc.wr && !Pte.wr e) || (acc.ex && !Pte.ex e) || Pte.sv e || Pte.fe e then .prot
      else
        let a := Pte.pa e + va % size
        .ok (if Pte.host e then hostPlace a else a) false

/-- The place of an address that STE `k` touches for a context. -/
def stePlace (s : State) (k c va : Nat) (acc : Acc) : Except SteFail Nat :=
  if va < 2 ^ 48 ∧ !s.walkReachesFrom (.ste k) c va then .error ⟨0, none, true⟩
  else match s.translateOnDie (k / 2) c va acc with
    | .ok place _ => .ok place
    | .page => .error { status := 4 }
    | .prot => .error { status := 5 }
    | .malformed level a => .error { status := 4, report := some (a + level * 2 ^ 56 + c * 2 ^ 58) }
    | .poisoned _ => .error { status := 15 }

/-- The failures among the pages of `n` bytes from `va` on. -/
def steSpan (s : State) (k c va n : Nat) (acc : Acc) : List SteFail :=
  (List.range ((va % 65536 + n + 65535) / 65536)).filterMap fun j =>
    match s.stePlace k c (max va (va / 65536 * 65536 + 65536 * j)) acc with
    | .ok _ => none
    | .error e => some e

/-- The failure that a command ends with: a translation that fails comes before poisoned data, whatever their addresses (R381).
Which of statuses 4 and 5 a command has whose addresses fail differently, the spec does not say: here the first of its list, which
has the buffer before the root, a path before its siblings, and the pages in rising order (log 92). What is out of reach comes
before all. -/
def steWorst (l : List SteFail) : Option SteFail :=
  ((l.find? (·.away)).or (l.find? fun e => decide (e.status ≠ 15))).or l.head?

/-- The number that a record of `n` bytes holds. -/
def steRead (s : State) (k c va n : Nat) : State × Except SteFail Nat :=
  match s.stePlace k c va .load with
  | .error e => (s, .error e)
  | .ok place =>
    if !s.reaches (.ste k) (s.siteOf place) then (s, .error ⟨0, none, true⟩)
    else match (s.knowOnDie (k / 2) c va).readHome place n (.ste k c) with
      | (t, .error _) => (t, .error { status := 15 })
      | (t, .ok l) => (t, .ok (leNat l))

/-- The numbers of several records, (address, size). -/
def steReads (s : State) (k c : Nat) : List (Nat × Nat) → State × Except SteFail (List Nat)
  | [] => (s, .ok [])
  | (va, n) :: l =>
    match s.steRead k c va n with
    | (t, .error e) => (t, .error e)
    | (t, .ok x) => match t.steReads k c l with
      | (u, .error e) => (u, .error e)
      | (u, .ok r) => (u, .ok (x :: r))

/-- Whether the engine of a tree reaches the homes of records that it is to write (R13). -/
def steReaches (s : State) (tree c : Nat) (l : List (Nat × Nat × Nat)) : Bool :=
  l.all fun e => match s.stePlace (tree / 16) c e.1 .store with
    | .ok place => s.reaches (.ste (tree / 16)) (s.siteOf place)
    | .error _ => true

/-- Records of a command to a tree written through to their homes: (address, size, number) (R232, R386). The lines are noted
for the readers of its reply. -/
def steWrite (s : State) (tree c : Nat) (l : List (Nat × Nat × Nat)) : State :=
  let k := tree / 16
  let cells := (l.map fun e => match s.stePlace k c e.1 .store with
    | .ok place => placed place (leBytes e.2.1 e.2.2)
    | .error _ => []).flatten
  let t := (l.foldl (fun t e => t.knowOnDie (k / 2) c e.1) s).homeWrite (k / 2) (s.steWriter k) cells (some c)
  let x := t.ste k
  t.setSte k { x with wrote := SMap.set x.wrote tree ((SMap.get [] x.wrote tree ++ linesOf cells).eraseDups) }

/-- The lines that a command of a context has used, the least recently used first (R391). -/
def steTouch (s : State) (k c : Nat) (vas : List Nat) : State :=
  let x := s.ste k
  let new := (vas.map fun a => (c, a / 128)).eraseDups
  let l := (x.lines.filter fun a => !new.contains a) ++ new
  s.setSte k { x with lines := l.drop (l.length - 16384) }

/-- A change of a tree's descriptor. -/
def setTree (s : State) (tree : Nat) (d : BitVec 256) : State :=
  let x := s.ste (tree / 16)
  if h : tree % 16 < 16 then s.setSte (tree / 16) { x with trees := x.trees.set (tree % 16) d } else s

/-- The descriptor of a tree. -/
def tree (s : State) (t : Nat) : BitVec 256 := (s.ste (t / 16)).trees.toList.getD (t % 16) 0

/-- Whether a tree is one of an owner number. -/
def ownsTree (s : State) (t : Nat) (owner : BitVec 16) : Bool :=
  SteDesc.held (s.tree t) && SteDesc.owner (s.tree t) == owner

end State

end Sys2Proof.Machine
end

