-- ==== Sys2Proof/Machine/SteWords.lean ====
section
/-! DEFINITION. The commands to the sum-tree engines as words (R378, R379, R388): major 0x78. -/

namespace Sys2Proof.Machine

namespace State

/-- The commands of a stream whose replies have not been written (R379). -/
def steAwaiting (s : State) (q : Nat) : Nat :=
  (s.steCommands q).length + (s.net.filter fun m => match m with
    | .steReply p _ _ _ => p == q
    | _ => false).length

/-- Whether the running stream and its core may issue another command (R379). -/
def steRoom (s : State) : Bool :=
  decide (s.steAwaiting s.cur < Config.steOutstandingStream) &&
    decide (((List.range 4).map fun j => s.steAwaiting (4 * s.myCore + j)).foldl (· + ·) 0 < Config.steOutstandingCore)

/-- The region that a configuration image names. -/
def imageRegion (img : BitVec 512) : List (Nat × Nat) :=
  if field img 0 8 < 2 ∧ field img 16 8 ≤ 24 then [(field img 64 64, 24 * 2 ^ field img 16 8)] else []

/-- The regions that commands of an owner on their way to a tree's engine will give it (R382). -/
def pendingRegions (s : State) (tree : Nat) (owner : BitVec 16) : List (Nat × Nat) :=
  let sent := s.net.filterMap fun m => match m with
    | .steCmd _ c => some c
    | _ => none
  (((sent ++ (s.ste (tree / 16)).queue).filter fun c => c.minor == 0#5 && c.tree == tree && c.owner == owner).map
    fun c => imageRegion c.image).flatten

/-- The range of a command: its tree's region, the one the tree has or one that a command before it will give it, and the
ranges it names itself (R287, R388). -/
def steRange (s : State) (tree : Nat) (more : List (Nat × Nat)) : List (Nat × Nat × Nat) :=
  let own := if s.ownsTree tree s.myCtx.owner then [SteDesc.region (s.tree tree)] else []
  (own ++ s.pendingRegions tree s.myCtx.owner ++ more).map fun r => (0, r.1, r.2)

/-- A command that has passed its checks is accepted and sent (R379). -/
def steSend (s : State) (minor : BitVec 5) (tree : Nat) (d : BitVec 5) (sa : Word) (k6 : BitVec 6) (image : BitVec 512)
    (more : List (Nat × Nat)) : Effect :=
  let hits := s.me.tracking s.myCore (s.steRange tree more)
  if !s.steRoom || s.me.countFull hits then .hold .retry
  else
    let (t, id) := s.freshId
    let c : SteCmd := ⟨minor, tree, s.myCtxId, s.myCtx.owner, s.cur, id, d, sa, s.readS d, k6, image, s.me.seqNext,
      hits, s.now s.myDie, tree / 16, false⟩
    .done (((t.setMe (t.me.count hits)).awaitReg d id).post (.steCmd (tree / 16) c))

/-- An operand word's tree (R378). -/
def operandTree (x : Word) : Nat := field x 24 6

end State

/-- `STE.CFG` (R378, R379). -/
def execSteCfg (g : BitVec 3) (d : BitVec 5) (a : BitVec 5) (s : State) : Out :=
  s.brick g fun s =>
    let ea := s.readS a
    match s.checkScalar ea { size := 64, acc := .load } with
    | .no e => e
    | .ok place => s.reading [s.rangeOf ea place 64] .home [(ea.toNat, place, 64)] fun s =>
      match s.readHome place 64 with
      | (t, .error k) => t.stopAt k
      | (t, .ok l) =>
        let img := BitVec.ofNat 512 (leNat l)
        if 63 < field img 8 8 then .trap .format ea
        else t.steSend 0#5 (field img 8 8) d ea 0 img ((ea.toNat, 64) :: State.imageRegion img)

/-- `STE.INS` (R378, R379). -/
def execSteIns (g : BitVec 3) (d : BitVec 5) (a : BitVec 5) (s : State) : Out :=
  s.brick g fun s =>
    let x := s.readS a
    if field x 30 2 ≠ 0 then .trap .format 0 else s.steSend 1#5 (State.operandTree x) d x 0 0 []

/-- `STE.UPD` (R378, R379). -/
def execSteUpd (g : BitVec 3) (d : BitVec 5) (a : BitVec 5) (s : State) : Out :=
  s.brick g fun s =>
    let x := s.readS a
    if field x 30 2 ≠ 0 ∨ field (s.readS d) 16 48 ≠ 0 then .trap .format 0
    else s.steSend 2#5 (State.operandTree x) d x 0 0 []

/-- `STE.DRAW` (R378, R379); `b` is one less than the number of draws. -/
def execSteDraw (g : BitVec 3) (d : BitVec 5) (a : BitVec 5) (b : BitVec 6) (s : State) : Out :=
  s.brick g fun s =>
    let ea := s.readS a
    if neverFetched ea then .trap .page ea
    else if field ea 0 6 ≠ 0 then .trap .align ea
    else if field (s.readS d) 6 58 ≠ 0 then .trap .format 0
    else s.steSend 3#5 (field (s.readS d) 0 6) d ea b 0 [(ea.toNat, 16 * (b.toNat + 1))]

/-- `STE.SUM` (R378, R379). -/
def execSteSum (g : BitVec 3) (d : BitVec 5) (q : BitVec 6) (s : State) : Out :=
  s.brick g fun s =>
    let x := s.readS d
    if field x 6 2 ≠ 0 ∨ field x 32 32 ≠ 0 ∨ (q ≠ 4#6 ∧ field x 8 24 ≠ 0) then .trap .format 0
    else s.steSend 4#5 (field x 0 6) d 0 q 0 []

end Sys2Proof.Machine
end

