-- ==== Sys2Proof/Machine/Vector.lean ====
section
/-! DEFINITION. Vector registers and the vector instructions that make no access (R132 to R151). -/

namespace Sys2Proof.Machine

/-! ## Elements (R132, R133) -/

abbrev VReg := BitVec 2048

/-- Elements of `w` bits, the first least significant, as one number. -/
def pack (w : Nat) : List Nat → Nat
  | [] => 0
  | x :: l => x % 2 ^ w + 2 ^ w * pack w l

/-- Element `j` of `w` bits. -/
def elem {n : Nat} (v : BitVec n) (w j : Nat) : Nat := field v (w * j) w

/-- The register whose elements of `w` bits, from the first on, are the list's; the rest is 0. -/
def ofElems (w : Nat) (l : List Nat) : VReg := BitVec.ofNat 2048 (pack w l)

/-- Lane `i`. -/
def lane (v : VReg) (i : Nat) : BitVec 32 := v.extractLsb' (32 * i) 32

/-- The register whose lane `i` is `f i`. -/
def ofLanes (f : Nat → BitVec 32) : VReg := ofElems 32 ((List.range 64).map fun i => (f i).toNat)

/-- The FP32 value of lane `i`. -/
def laneVal (v : VReg) (i : Nat) : Val := Fmt.fp32.value (lane v i).toNat

/-- `src(j)` of R143. -/
def src (a b : VReg) (j : Nat) : BitVec 32 := if j < 64 then lane a j else lane b (j - 64)

def srcVal (a b : VReg) (j : Nat) : Val := Fmt.fp32.value (src a b j).toNat

/-- The register with the 128 bytes of half `hi` replaced. -/
def setHalf (v : VReg) (hi : Bool) (l : List Nat) : VReg :=
  setField v (if hi then 1024 else 0) 1024 (pack 8 l)

/-- The first index, from `first` on, of a code that is NaN or infinite (R71, R137). -/
def firstNonFinite (f : Fmt) (first : Nat) (codes : List Nat) : Option Nat :=
  (codes.findIdx? f.nonFinite).map (first + ·)

namespace State

def readV (s : State) (a : BitVec 4) : VReg := s.me.v[a.toNat]
def writeV (s : State) (d : BitVec 4) (x : VReg) : State := s.setMe { s.me with v := s.me.v.set d.toNat x }

/-- The end of an instruction that produces floating-point elements: NONFINITE where the trap is enabled and an element
is not finite, else the state (R137). -/
def produced (s : State) (bad : Option Nat) (t : State) : Effect :=
  match s.me.nftrap, bad with
  | true, some i => .trap .nonfinite (BitVec.ofNat 64 i)
  | _, _ => .done t

/-- A brick that writes V[d]. -/
def setV (s : State) (g : BitVec 3) (d : BitVec 4) (f : State → VReg) : Out :=
  s.brick g fun s => .done (s.writeV d (f s))

/-- Lane by lane over one vector of integers or bits (R139). -/
def lanes1 (s : State) (g : BitVec 3) (d a : BitVec 4) (f : BitVec 32 → BitVec 32) : Out :=
  s.setV g d fun s => ofLanes fun i => f (lane (s.readV a) i)

/-- Lane by lane over two vectors of integers or bits (R139). -/
def lanes2 (s : State) (g : BitVec 3) (d a b : BitVec 4) (f : BitVec 32 → BitVec 32 → BitVec 32) : Out :=
  s.setV g d fun s => ofLanes fun i => f (lane (s.readV a) i) (lane (s.readV b) i)

/-- A comparison, lane by lane (R140). -/
def compare2 (s : State) (g : BitVec 3) (d a b : BitVec 4) (f : BitVec 32 → BitVec 32 → Bool) : Out :=
  s.lanes2 g d a b fun x y => if f x y then 0xFFFFFFFF#32 else 0

/-- V[d] takes 64 FP32 codes (R137, R138). -/
def fpLanes (s : State) (d : BitVec 4) (f : Nat → Nat) : Effect :=
  let codes := (List.range 64).map f
  s.produced (firstNonFinite .fp32 0 codes) (s.writeV d (ofElems 32 codes))

/-- Floating point, lane by lane: the function gets the rounding, the lane index and the lane's values. -/
def fpOp1 (s : State) (g : BitVec 3) (d a : BitVec 4) (m : RMode) (f : Rnd → Nat → Val → Nat) : Out :=
  s.brick g fun s => s.fpLanes d fun i => f (s.rnd m) i (laneVal (s.readV a) i)

def fpOp2 (s : State) (g : BitVec 3) (d a b : BitVec 4) (m : RMode) (f : Rnd → Nat → Val → Val → Nat) : Out :=
  s.brick g fun s => s.fpLanes d fun i => f (s.rnd m) i (laneVal (s.readV a) i) (laneVal (s.readV b) i)

def fpOp3 (s : State) (g : BitVec 3) (d a b : BitVec 4) (m : RMode) (f : Rnd → Nat → Val → Val → Val → Nat) : Out :=
  s.brick g fun s => s.fpLanes d fun i =>
    f (s.rnd m) i (laneVal (s.readV d) i) (laneVal (s.readV a) i) (laneVal (s.readV b) i)

/-- Codes of FP32 lanes that an operation picks or rearranges without rounding. -/
def fpBits2 (s : State) (g : BitVec 3) (d a b : BitVec 4) (f : Nat → Nat → Nat) : Out :=
  s.brick g fun s => s.fpLanes d fun i => f (lane (s.readV a) i).toNat (lane (s.readV b) i).toNat

end State

/-! ## Floating point, majors 0x40 and 0x41 (R138) -/

/-- `VADD.F` (R138). -/
def execVaddF (g : BitVec 3) (d : BitVec 4) (a : BitVec 4) (b : BitVec 4) (m : RMode) (s : State) : Out :=
  s.fpOp2 g d a b m fun r i x y => Fmt.fp32.sum r i [x, y]

/-- `VSUB.F` (R138). -/
def execVsubF (g : BitVec 3) (d : BitVec 4) (a : BitVec 4) (b : BitVec 4) (m : RMode) (s : State) : Out :=
  s.fpOp2 g d a b m fun r i x y => Fmt.fp32.sum r i [x, y.neg]

/-- `VMUL.F` (R138). -/
def execVmulF (g : BitVec 3) (d : BitVec 4) (a : BitVec 4) (b : BitVec 4) (m : RMode) (s : State) : Out :=
  s.fpOp2 g d a b m fun r i x y => Fmt.fp32.ofVal r i (x.mul y)

/-- `VDIV.F` (R138). -/
def execVdivF (g : BitVec 3) (d : BitVec 4) (a : BitVec 4) (b : BitVec 4) (m : RMode) (s : State) : Out :=
  s.fpOp2 g d a b m fun r i x y => Fmt.fp32.div r i x y

/-- `VMIN.F` (R110, R138). -/
def execVminF (g : BitVec 3) (d : BitVec 4) (a : BitVec 4) (b : BitVec 4) (s : State) : Out :=
  s.fpBits2 g d a b (Fmt.fp32.pick true)

/-- `VMAX.F` (R110, R138). -/
def execVmaxF (g : BitVec 3) (d : BitVec 4) (a : BitVec 4) (b : BitVec 4) (s : State) : Out :=
  s.fpBits2 g d a b (Fmt.fp32.pick false)

/-- `VFMA.F` (R138). -/
def execVfmaF (g : BitVec 3) (d : BitVec 4) (a : BitVec 4) (b : BitVec 4) (m : RMode) (s : State) : Out :=
  s.fpOp3 g d a b m fun r i z x y => Fmt.fp32.sum r i [z, x.mul y]

/-- `VFMS.F` (R138). -/
def execVfmsF (g : BitVec 3) (d : BitVec 4) (a : BitVec 4) (b : BitVec 4) (m : RMode) (s : State) : Out :=
  s.fpOp3 g d a b m fun r i z x y => Fmt.fp32.sum r i [z, (x.mul y).neg]

/-- `VSQRT` (R84, R138). -/
def execVsqrt (g : BitVec 3) (d : BitVec 4) (a : BitVec 4) (m : RMode) (s : State) : Out :=
  s.fpOp1 g d a m Fmt.fp32.sqrt

/-- `VRCP` (R84, R138). -/
def execVrcp (g : BitVec 3) (d : BitVec 4) (a : BitVec 4) (m : RMode) (s : State) : Out :=
  s.fpOp1 g d a m Fmt.fp32.recip

/-- `VRSQ` (R84, R138). -/
def execVrsq (g : BitVec 3) (d : BitVec 4) (a : BitVec 4) (m : RMode) (s : State) : Out :=
  s.fpOp1 g d a m Fmt.fp32.rsqrt

/-- `VEXP2` (R84, R138). -/
def execVexp2 (g : BitVec 3) (d : BitVec 4) (a : BitVec 4) (m : RMode) (s : State) : Out :=
  s.fpOp1 g d a m Fmt.fp32.exp2

/-- `VLOG2` (R84, R138). -/
def execVlog2 (g : BitVec 3) (d : BitVec 4) (a : BitVec 4) (m : RMode) (s : State) : Out :=
  s.fpOp1 g d a m Fmt.fp32.log2

/-- `VNEG.F` (R69, R138). -/
def execVnegF (g : BitVec 3) (d : BitVec 4) (a : BitVec 4) (s : State) : Out :=
  s.fpBits2 g d a a fun x _ => x ^^^ 0x80000000

/-- `VABS.F` (R69, R138). -/
def execVabsF (g : BitVec 3) (d : BitVec 4) (a : BitVec 4) (s : State) : Out :=
  s.fpBits2 g d a a fun x _ => x % 0x80000000

/-- `VCPYS.F` (R138). -/
def execVcpysF (g : BitVec 3) (d : BitVec 4) (a : BitVec 4) (b : BitVec 4) (s : State) : Out :=
  s.fpBits2 g d a b fun x y => x % 0x80000000 + y / 0x80000000 * 0x80000000

/-- `VCLASS.F` (R110, R138). -/
def execVclassF (g : BitVec 3) (d : BitVec 4) (a : BitVec 4) (s : State) : Out :=
  s.lanes1 g d a fun x => BitVec.ofNat 32 (Fmt.fp32.classWord x.toNat)

/-- `VRND.F` (R138). -/
def execVrndF (g : BitVec 3) (d : BitVec 4) (a : BitVec 4) (m : RMode) (s : State) : Out :=
  s.fpOp1 g d a m Fmt.fp32.roundIntegral

/-! ## Integers and bits, majors 0x42 and 0x43 (R139) -/

/-- A 32-bit result held between bounds. -/
def sat32 (lo hi x : Int) : BitVec 32 := BitVec.ofInt 32 (clampInt lo hi x)
def satI32 : Int → BitVec 32 := sat32 (-(2 ^ 31)) (2 ^ 31 - 1)
def satU32 : Int → BitVec 32 := sat32 0 (2 ^ 32 - 1)
/-- The high half of a 64-bit product. -/
def high32 (x : Int) : BitVec 32 := BitVec.ofInt 32 (x / 2 ^ 32)

/-- `VADD.I` (R139). -/
def execVaddI (g : BitVec 3) (d : BitVec 4) (a : BitVec 4) (b : BitVec 4) (s : State) : Out :=
  s.lanes2 g d a b fun x y => x + y

/-- `VSUB.I` (R139). -/
def execVsubI (g : BitVec 3) (d : BitVec 4) (a : BitVec 4) (b : BitVec 4) (s : State) : Out :=
  s.lanes2 g d a b fun x y => x - y

/-- `VMUL.I` (R139). -/
def execVmulI (g : BitVec 3) (d : BitVec 4) (a : BitVec 4) (b : BitVec 4) (s : State) : Out :=
  s.lanes2 g d a b fun x y => x * y

/-- `VMULH.I` (R139). -/
def execVmulhI (g : BitVec 3) (d : BitVec 4) (a : BitVec 4) (b : BitVec 4) (s : State) : Out :=
  s.lanes2 g d a b fun x y => high32 (x.toInt * y.toInt)

/-- `VMULH.U` (R139). -/
def execVmulhU (g : BitVec 3) (d : BitVec 4) (a : BitVec 4) (b : BitVec 4) (s : State) : Out :=
  s.lanes2 g d a b fun x y => high32 (x.toNat * y.toNat : Nat)

/-- `VMIN.I` (R139). -/
def execVminI (g : BitVec 3) (d : BitVec 4) (a : BitVec 4) (b : BitVec 4) (s : State) : Out :=
  s.lanes2 g d a b fun x y => if x.slt y then x else y

/-- `VMIN.U` (R139). -/
def execVminU (g : BitVec 3) (d : BitVec 4) (a : BitVec 4) (b : BitVec 4) (s : State) : Out :=
  s.lanes2 g d a b fun x y => if x.ult y then x else y

/-- `VMAX.I` (R139). -/
def execVmaxI (g : BitVec 3) (d : BitVec 4) (a : BitVec 4) (b : BitVec 4) (s : State) : Out :=
  s.lanes2 g d a b fun x y => if x.slt y then y else x

/-- `VMAX.U` (R139). -/
def execVmaxU (g : BitVec 3) (d : BitVec 4) (a : BitVec 4) (b : BitVec 4) (s : State) : Out :=
  s.lanes2 g d a b fun x y => if x.ult y then y else x

/-- `VADDS.I` (R139). -/
def execVaddsI (g : BitVec 3) (d : BitVec 4) (a : BitVec 4) (b : BitVec 4) (s : State) : Out :=
  s.lanes2 g d a b fun x y => satI32 (x.toInt + y.toInt)

/-- `VSUBS.I` (R139). -/
def execVsubsI (g : BitVec 3) (d : BitVec 4) (a : BitVec 4) (b : BitVec 4) (s : State) : Out :=
  s.lanes2 g d a b fun x y => satI32 (x.toInt - y.toInt)

/-- `VADDS.U` (R139). -/
def execVaddsU (g : BitVec 3) (d : BitVec 4) (a : BitVec 4) (b : BitVec 4) (s : State) : Out :=
  s.lanes2 g d a b fun x y => satU32 ((x.toNat : Int) + y.toNat)

/-- `VSUBS.U` (R139). -/
def execVsubsU (g : BitVec 3) (d : BitVec 4) (a : BitVec 4) (b : BitVec 4) (s : State) : Out :=
  s.lanes2 g d a b fun x y => satU32 ((x.toNat : Int) - y.toNat)

/-- `VABS.I` (R139). -/
def execVabsI (g : BitVec 3) (d : BitVec 4) (a : BitVec 4) (s : State) : Out :=
  s.lanes1 g d a fun x => if x.slt 0 then 0 - x else x

/-- `VNEG.I` (R139). -/
def execVnegI (g : BitVec 3) (d : BitVec 4) (a : BitVec 4) (s : State) : Out :=
  s.lanes1 g d a fun x => 0 - x

/-- `VMADD.I` (R139). -/
def execVmaddI (g : BitVec 3) (d : BitVec 4) (a : BitVec 4) (b : BitVec 4) (s : State) : Out :=
  s.setV g d fun s => ofLanes fun i => lane (s.readV d) i + lane (s.readV a) i * lane (s.readV b) i

/-- `VAND` (R139). -/
def execVand (g : BitVec 3) (d : BitVec 4) (a : BitVec 4) (b : BitVec 4) (s : State) : Out :=
  s.lanes2 g d a b fun x y => x &&& y

/-- `VOR` (R139). -/
def execVor (g : BitVec 3) (d : BitVec 4) (a : BitVec 4) (b : BitVec 4) (s : State) : Out :=
  s.lanes2 g d a b fun x y => x ||| y

/-- `VXOR` (R139). -/
def execVxor (g : BitVec 3) (d : BitVec 4) (a : BitVec 4) (b : BitVec 4) (s : State) : Out :=
  s.lanes2 g d a b fun x y => x ^^^ y

/-- `VANDN` (R139). -/
def execVandn (g : BitVec 3) (d : BitVec 4) (a : BitVec 4) (b : BitVec 4) (s : State) : Out :=
  s.lanes2 g d a b fun x y => x &&& ~~~y

/-- `VNOT` (R139). -/
def execVnot (g : BitVec 3) (d : BitVec 4) (a : BitVec 4) (s : State) : Out :=
  s.lanes1 g d a fun x => ~~~x

/-- `VSHL` (R139). -/
def execVshl (g : BitVec 3) (d : BitVec 4) (a : BitVec 4) (b : BitVec 4) (s : State) : Out :=
  s.lanes2 g d a b fun x y => x <<< field y 0 5

/-- `VSHR` (R139). -/
def execVshr (g : BitVec 3) (d : BitVec 4) (a : BitVec 4) (b : BitVec 4) (s : State) : Out :=
  s.lanes2 g d a b fun x y => x >>> field y 0 5

/-- `VSRA` (R139). -/
def execVsra (g : BitVec 3) (d : BitVec 4) (a : BitVec 4) (b : BitVec 4) (s : State) : Out :=
  s.lanes2 g d a b fun x y => x.sshiftRight (field y 0 5)

/-- `VSHLI` (R139). -/
def execVshli (g : BitVec 3) (d : BitVec 4) (a : BitVec 4) (k : BitVec 5) (s : State) : Out :=
  s.lanes1 g d a fun x => x <<< k.toNat

/-- `VSHRI` (R139). -/
def execVshri (g : BitVec 3) (d : BitVec 4) (a : BitVec 4) (k : BitVec 5) (s : State) : Out :=
  s.lanes1 g d a fun x => x >>> k.toNat

/-- `VSRAI` (R139). -/
def execVsrai (g : BitVec 3) (d : BitVec 4) (a : BitVec 4) (k : BitVec 5) (s : State) : Out :=
  s.lanes1 g d a fun x => x.sshiftRight k.toNat

/-- `VPOPC` (R139). -/
def execVpopc (g : BitVec 3) (d : BitVec 4) (a : BitVec 4) (s : State) : Out :=
  s.lanes1 g d a fun x => BitVec.ofNat 32 (popCount x.toNat 32)

/-- `VCLZ` (R139). -/
def execVclz (g : BitVec 3) (d : BitVec 4) (a : BitVec 4) (s : State) : Out :=
  s.lanes1 g d a fun x => BitVec.ofNat 32 (countLeading x)

/-! ## Compare, select, lane index (R140 to R142) -/

/-- `VFCMP.EQ` (R140). -/
def execVfcmpEq (g : BitVec 3) (d : BitVec 4) (a : BitVec 4) (b : BitVec 4) (s : State) : Out :=
  s.compare2 g d a b fun x y => fcmpHolds .eq x.toNat y.toNat

/-- `VFCMP.LT` (R140). -/
def execVfcmpLt (g : BitVec 3) (d : BitVec 4) (a : BitVec 4) (b : BitVec 4) (s : State) : Out :=
  s.compare2 g d a b fun x y => fcmpHolds .lt x.toNat y.toNat

/-- `VFCMP.LE` (R140). -/
def execVfcmpLe (g : BitVec 3) (d : BitVec 4) (a : BitVec 4) (b : BitVec 4) (s : State) : Out :=
  s.compare2 g d a b fun x y => fcmpHolds .le x.toNat y.toNat

/-- `VFCMP.UN` (R140). -/
def execVfcmpUn (g : BitVec 3) (d : BitVec 4) (a : BitVec 4) (b : BitVec 4) (s : State) : Out :=
  s.compare2 g d a b fun x y => fcmpHolds .un x.toNat y.toNat

/-- `VFCMP.NE` (R140). -/
def execVfcmpNe (g : BitVec 3) (d : BitVec 4) (a : BitVec 4) (b : BitVec 4) (s : State) : Out :=
  s.compare2 g d a b fun x y => fcmpHolds .ne x.toNat y.toNat

/-- `VCMP.EQ` (R140). -/
def execVcmpEq (g : BitVec 3) (d : BitVec 4) (a : BitVec 4) (b : BitVec 4) (s : State) : Out :=
  s.compare2 g d a b fun x y => x == y

/-- `VCMP.NE` (R140). -/
def execVcmpNe (g : BitVec 3) (d : BitVec 4) (a : BitVec 4) (b : BitVec 4) (s : State) : Out :=
  s.compare2 g d a b fun x y => x != y

/-- `VCMP.LT` (R140). -/
def execVcmpLt (g : BitVec 3) (d : BitVec 4) (a : BitVec 4) (b : BitVec 4) (s : State) : Out :=
  s.compare2 g d a b fun x y => x.slt y

/-- `VCMP.LE` (R140). -/
def execVcmpLe (g : BitVec 3) (d : BitVec 4) (a : BitVec 4) (b : BitVec 4) (s : State) : Out :=
  s.compare2 g d a b fun x y => x.sle y

/-- `VCMP.LTU` (R140). -/
def execVcmpLtu (g : BitVec 3) (d : BitVec 4) (a : BitVec 4) (b : BitVec 4) (s : State) : Out :=
  s.compare2 g d a b fun x y => x.ult y

/-- `VCMP.LEU` (R140). -/
def execVcmpLeu (g : BitVec 3) (d : BitVec 4) (a : BitVec 4) (b : BitVec 4) (s : State) : Out :=
  s.compare2 g d a b fun x y => x.ule y

/-- `VSEL` (R141). -/
def execVsel (g : BitVec 3) (d : BitVec 4) (a : BitVec 4) (b : BitVec 4) (c : BitVec 4) (s : State) : Out :=
  s.setV g d fun s => ofLanes fun i =>
    if lane (s.readV c) i = 0 then lane (s.readV b) i else lane (s.readV a) i

/-- `VANY` (R141). -/
def execVany (g : BitVec 3) (d : BitVec 3) (a : BitVec 4) (s : State) : Out :=
  s.setP g d fun s => (List.range 64).any fun i => lane (s.readV a) i != 0

/-- `VALL` (R141). -/
def execVall (g : BitVec 3) (d : BitVec 3) (a : BitVec 4) (s : State) : Out :=
  s.setP g d fun s => (List.range 64).all fun i => lane (s.readV a) i != 0

/-- `VMOV` (R142). -/
def execVmov (g : BitVec 3) (d : BitVec 4) (a : BitVec 4) (s : State) : Out :=
  s.setV g d fun s => s.readV a

/-- `VIOTA` (R142). -/
def execViota (g : BitVec 3) (d : BitVec 4) (s : State) : Out :=
  s.setV g d fun _ => ofLanes fun i => BitVec.ofNat 32 i

/-! ## Conversions, major 0x46 (R143) -/

namespace State

/-- A conversion of FP32 lanes to integers from `lo` to `hi` (R83). -/
def toIntLanes (s : State) (g : BitVec 3) (d a : BitVec 4) (m : RMode) (lo hi : Int) : Out :=
  s.setV g d fun s => ofLanes fun i => BitVec.ofInt 32 ((laneVal (s.readV a) i).toInt (s.rnd m) i lo hi)

/-- A pack of the 128 values of two vectors into 16-bit elements. -/
def pack16 (s : State) (g : BitVec 3) (d a b : BitVec 4) (m : RMode) (f : Fmt) : Out :=
  s.brick g fun s =>
    let codes := (List.range 128).map fun j => f.ofVal (s.rnd m) j (srcVal (s.readV a) (s.readV b) j)
    s.produced (firstNonFinite f 0 codes) (s.writeV d (ofElems 16 codes))

/-- A pack of the 128 values of two vectors into the bytes of one half; the other half keeps its value. -/
def pack8 (s : State) (g : BitVec 3) (d a b : BitVec 4) (m : RMode) (f : Fmt) (hi : Bool) : Out :=
  s.brick g fun s =>
    let first := if hi then 128 else 0
    let codes := (List.range 128).map fun j => f.ofVal (s.rnd m) (first + j) (srcVal (s.readV a) (s.readV b) j)
    s.produced (firstNonFinite f first codes) (s.writeV d (setHalf (s.readV d) hi codes))

/-- A saturating pack of 128 INT32 lanes into the bytes of one half. -/
def packInt8 (s : State) (g : BitVec 3) (d a b : BitVec 4) (hi : Bool) : Out :=
  s.setV g d fun s => setHalf (s.readV d) hi ((List.range 128).map fun j =>
    (BitVec.ofInt 8 (clampInt (-128) 127 (src (s.readV a) (s.readV b) j).toInt)).toNat)

/-- An exact conversion to FP32 of element `64 · part + i` (R143). -/
def unpack (s : State) (g : BitVec 3) (d a : BitVec 4) (w part : Nat) (value : State → Nat → Val) : Out :=
  s.brick g fun s => s.fpLanes d fun i =>
    Fmt.fp32.ofVal Rnd.nearest 0 (value s (elem (s.readV a) w (64 * part + i)))

/-- The sign-extended element `64 · part + i`. -/
def unpackInt (s : State) (g : BitVec 3) (d a : BitVec 4) (w part : Nat) : Out :=
  s.setV g d fun s => ofLanes fun i => BitVec.ofInt 32 (BitVec.ofNat w (elem (s.readV a) w (64 * part + i))).toInt

/-- `decode_tc8` (R74). -/
def tc8Val (s : State) (k : BitVec 2) (code : Nat) : Val := Fmt.e8m10.value (elem s.me.k[k.toNat].entries 19 code)

end State

/-- `VCVT.F.I` (R143). -/
def execVcvtFI (g : BitVec 3) (d : BitVec 4) (a : BitVec 4) (m : RMode) (s : State) : Out :=
  s.brick g fun s => s.fpLanes d fun i => Fmt.fp32.ofInt (s.rnd m) i (lane (s.readV a) i).toInt

/-- `VCVT.F.U` (R143). -/
def execVcvtFU (g : BitVec 3) (d : BitVec 4) (a : BitVec 4) (m : RMode) (s : State) : Out :=
  s.brick g fun s => s.fpLanes d fun i => Fmt.fp32.ofInt (s.rnd m) i (lane (s.readV a) i).toNat

/-- `VCVT.I.F` (R143). -/
def execVcvtIF (g : BitVec 3) (d : BitVec 4) (a : BitVec 4) (m : RMode) (s : State) : Out :=
  s.toIntLanes g d a m (-(2 ^ 31)) (2 ^ 31 - 1)

/-- `VCVT.U.F` (R143). -/
def execVcvtUF (g : BitVec 3) (d : BitVec 4) (a : BitVec 4) (m : RMode) (s : State) : Out :=
  s.toIntLanes g d a m 0 (2 ^ 32 - 1)

/-- `VPACK.F16` (R143). -/
def execVpackF16 (g : BitVec 3) (d : BitVec 4) (a : BitVec 4) (b : BitVec 4) (m : RMode) (s : State) : Out :=
  s.pack16 g d a b m .fp16

/-- `VPACK.BF16` (R143). -/
def execVpackBf16 (g : BitVec 3) (d : BitVec 4) (a : BitVec 4) (b : BitVec 4) (m : RMode) (s : State) : Out :=
  s.pack16 g d a b m .bf16

/-- `VPACK.E4M3.LO` (R143). -/
def execVpackE4m3Lo (g : BitVec 3) (d : BitVec 4) (a : BitVec 4) (b : BitVec 4) (m : RMode) (s : State) : Out :=
  s.pack8 g d a b m .e4m3 false

/-- `VPACK.E4M3.HI` (R143). -/
def execVpackE4m3Hi (g : BitVec 3) (d : BitVec 4) (a : BitVec 4) (b : BitVec 4) (m : RMode) (s : State) : Out :=
  s.pack8 g d a b m .e4m3 true

/-- `VPACK.E5M2.LO` (R143). -/
def execVpackE5m2Lo (g : BitVec 3) (d : BitVec 4) (a : BitVec 4) (b : BitVec 4) (m : RMode) (s : State) : Out :=
  s.pack8 g d a b m .e5m2 false

/-- `VPACK.E5M2.HI` (R143). -/
def execVpackE5m2Hi (g : BitVec 3) (d : BitVec 4) (a : BitVec 4) (b : BitVec 4) (m : RMode) (s : State) : Out :=
  s.pack8 g d a b m .e5m2 true

/-- `VPACK.I16` (R143). -/
def execVpackI16 (g : BitVec 3) (d : BitVec 4) (a : BitVec 4) (b : BitVec 4) (s : State) : Out :=
  s.setV g d fun s => ofElems 16 ((List.range 128).map fun j =>
    (BitVec.ofInt 16 (clampInt (-32768) 32767 (src (s.readV a) (s.readV b) j).toInt)).toNat)

/-- `VPACK.I8.LO` (R143). -/
def execVpackI8Lo (g : BitVec 3) (d : BitVec 4) (a : BitVec 4) (b : BitVec 4) (s : State) : Out :=
  s.packInt8 g d a b false

/-- `VPACK.I8.HI` (R143). -/
def execVpackI8Hi (g : BitVec 3) (d : BitVec 4) (a : BitVec 4) (b : BitVec 4) (s : State) : Out :=
  s.packInt8 g d a b true

/-- `VUNPK.F16` (R143). -/
def execVunpkF16 (g : BitVec 3) (d : BitVec 4) (a : BitVec 4) (p : BitVec 1) (s : State) : Out :=
  s.unpack g d a 16 p.toNat fun _ => Fmt.fp16.value

/-- `VUNPK.BF16` (R143). -/
def execVunpkBf16 (g : BitVec 3) (d : BitVec 4) (a : BitVec 4) (p : BitVec 1) (s : State) : Out :=
  s.unpack g d a 16 p.toNat fun _ => Fmt.bf16.value

/-- `VUNPK.E4M3` (R143). -/
def execVunpkE4m3 (g : BitVec 3) (d : BitVec 4) (a : BitVec 4) (p : BitVec 2) (s : State) : Out :=
  s.unpack g d a 8 p.toNat fun _ => Fmt.e4m3.value

/-- `VUNPK.E5M2` (R143). -/
def execVunpkE5m2 (g : BitVec 3) (d : BitVec 4) (a : BitVec 4) (p : BitVec 2) (s : State) : Out :=
  s.unpack g d a 8 p.toNat fun _ => Fmt.e5m2.value

/-- `VUNPK.TC8` (R74, R143). -/
def execVunpkTc8 (g : BitVec 3) (d : BitVec 4) (a : BitVec 4) (k : BitVec 2) (p : BitVec 2) (s : State) : Out :=
  s.unpack g d a 8 p.toNat fun s => s.tc8Val k

/-- `VUNPK.I16` (R143). -/
def execVunpkI16 (g : BitVec 3) (d : BitVec 4) (a : BitVec 4) (p : BitVec 1) (s : State) : Out :=
  s.unpackInt g d a 16 p.toNat

/-- `VUNPK.I8` (R143). -/
def execVunpkI8 (g : BitVec 3) (d : BitVec 4) (a : BitVec 4) (p : BitVec 2) (s : State) : Out :=
  s.unpackInt g d a 8 p.toNat

/-! ## Reductions and scans, major 0x47 (R144 to R146) -/

/-- Node `n` of the tree of R144, `depth` levels above the leaves. -/
def treeNode (op : Nat → Nat → Nat → Nat) (leaf : Nat → Nat) : Nat → Nat → Nat
  | 0, n => leaf (n - 64)
  | depth + 1, n => op n (treeNode op leaf depth (2 * n)) (treeNode op leaf depth (2 * n + 1))

/-- `t[1]` of R144 for an operation that also gets the number of its node. -/
def reduce (op : Nat → Nat → Nat → Nat) (v : VReg) : Nat := treeNode op (fun i => (lane v i).toNat) 6 1

/-- The steps `k` to 5 of R145; `n` of them are left. The operation also gets its counter. -/
def scanFrom (op : Nat → Nat → Nat → Nat) : Nat → List Nat → List Nat
  | 0, y => y
  | n + 1, y =>
    let k := 5 - n
    let d := 2 ^ k
    scanFrom op n (y.zipIdx.map fun (x, i) => if d ≤ i then op (64 * k + i) (y.getD (i - d) 0) x else x)

/-- R145. -/
def scan (op : Nat → Nat → Nat → Nat) (v : VReg) : List Nat :=
  scanFrom op 6 ((List.range 64).map fun i => (lane v i).toNat)

/-- FP32 addition of two codes. -/
def addCodes (r : Rnd) (ctr a b : Nat) : Nat := Fmt.fp32.sum r ctr [Fmt.fp32.value a, Fmt.fp32.value b]

def int32Op (f : BitVec 32 → BitVec 32 → BitVec 32) (_ a b : Nat) : Nat :=
  (f (BitVec.ofNat 32 a) (BitVec.ofNat 32 b)).toNat

namespace State

/-- A floating-point reduction: every lane takes the result, and the element produced is numbered 0 (R137). -/
def reduceFp (s : State) (g : BitVec 3) (d a : BitVec 4) (op : State → Nat → Nat → Nat → Nat) : Out :=
  s.brick g fun s =>
    let x := reduce (op s) (s.readV a)
    s.produced (firstNonFinite .fp32 0 [x]) (s.writeV d (ofLanes fun _ => BitVec.ofNat 32 x))

def reduceInt (s : State) (g : BitVec 3) (d a : BitVec 4) (f : BitVec 32 → BitVec 32 → BitVec 32) : Out :=
  s.setV g d fun s =>
    let x := BitVec.ofNat 32 (reduce (int32Op f) (s.readV a))
    ofLanes fun _ => x

end State

/-- `VRED.ADD.F` (R144, R146). -/
def execVredAddF (g : BitVec 3) (d : BitVec 4) (a : BitVec 4) (m : RMode) (s : State) : Out :=
  s.reduceFp g d a fun s => addCodes (s.rnd m)

/-- `VRED.MIN.F` (R144, R146). -/
def execVredMinF (g : BitVec 3) (d : BitVec 4) (a : BitVec 4) (s : State) : Out :=
  s.reduceFp g d a fun _ _ => Fmt.fp32.pick true

/-- `VRED.MAX.F` (R144, R146). -/
def execVredMaxF (g : BitVec 3) (d : BitVec 4) (a : BitVec 4) (s : State) : Out :=
  s.reduceFp g d a fun _ _ => Fmt.fp32.pick false

/-- `VRED.ADD.I` (R144, R146). -/
def execVredAddI (g : BitVec 3) (d : BitVec 4) (a : BitVec 4) (s : State) : Out :=
  s.reduceInt g d a fun x y => x + y

/-- `VRED.MIN.I` (R144, R146). -/
def execVredMinI (g : BitVec 3) (d : BitVec 4) (a : BitVec 4) (s : State) : Out :=
  s.reduceInt g d a fun x y => if x.slt y then x else y

/-- `VRED.MAX.I` (R144, R146). -/
def execVredMaxI (g : BitVec 3) (d : BitVec 4) (a : BitVec 4) (s : State) : Out :=
  s.reduceInt g d a fun x y => if x.slt y then y else x

/-- `VRED.MIN.U` (R144, R146). -/
def execVredMinU (g : BitVec 3) (d : BitVec 4) (a : BitVec 4) (s : State) : Out :=
  s.reduceInt g d a fun x y => if x.ult y then x else y

/-- `VRED.MAX.U` (R144, R146). -/
def execVredMaxU (g : BitVec 3) (d : BitVec 4) (a : BitVec 4) (s : State) : Out :=
  s.reduceInt g d a fun x y => if x.ult y then y else x

/-- `VSCAN.ADD.F` (R145, R146). -/
def execVscanAddF (g : BitVec 3) (d : BitVec 4) (a : BitVec 4) (m : RMode) (s : State) : Out :=
  s.brick g fun s =>
    let codes := scan (addCodes (s.rnd m)) (s.readV a)
    s.produced (firstNonFinite .fp32 0 codes) (s.writeV d (ofElems 32 codes))

/-- `VSCAN.ADD.I` (R145, R146). -/
def execVscanAddI (g : BitVec 3) (d : BitVec 4) (a : BitVec 4) (s : State) : Out :=
  s.setV g d fun s => ofElems 32 (scan (int32Op fun x y => x + y) (s.readV a))

/-! ## Permutes and random numbers, majors 0x52 and 0x53 (R147, R148) -/

/-- `VPERM` (R147). -/
def execVperm (g : BitVec 3) (d : BitVec 4) (a : BitVec 4) (b : BitVec 4) (s : State) : Out :=
  s.setV g d fun s => ofLanes fun i => lane (s.readV a) (field (lane (s.readV b) i) 0 6)

/-- `VROT` (R147). -/
def execVrot (g : BitVec 3) (d : BitVec 4) (a : BitVec 4) (k : BitVec 6) (s : State) : Out :=
  s.setV g d fun s => ofLanes fun i => lane (s.readV a) ((i + k.toNat) % 64)

/-- `VBCST` (R147). -/
def execVbcst (g : BitVec 3) (d : BitVec 4) (a : BitVec 4) (k : BitVec 6) (s : State) : Out :=
  s.setV g d fun s => ofLanes fun _ => lane (s.readV a) k.toNat

/-- The lanes of two vectors taken alternately, from lane `first` on (R147). -/
def zipLanes (a b : VReg) (first : Nat) : VReg :=
  ofLanes fun i => if i % 2 = 0 then lane a (first + i / 2) else lane b (first + i / 2)

/-- Every other lane of two vectors, from lane `odd` on (R147). -/
def unzipLanes (a b : VReg) (odd : Nat) : VReg :=
  ofLanes fun i => if i < 32 then lane a (2 * i + odd) else lane b (2 * (i - 32) + odd)

/-- `VZIP.LO` (R147). -/
def execVzipLo (g : BitVec 3) (d : BitVec 4) (a : BitVec 4) (b : BitVec 4) (s : State) : Out :=
  s.setV g d fun s => zipLanes (s.readV a) (s.readV b) 0

/-- `VZIP.HI` (R147). -/
def execVzipHi (g : BitVec 3) (d : BitVec 4) (a : BitVec 4) (b : BitVec 4) (s : State) : Out :=
  s.setV g d fun s => zipLanes (s.readV a) (s.readV b) 32

/-- `VUZP.EV` (R147). -/
def execVuzpEv (g : BitVec 3) (d : BitVec 4) (a : BitVec 4) (b : BitVec 4) (s : State) : Out :=
  s.setV g d fun s => unzipLanes (s.readV a) (s.readV b) 0

/-- `VUZP.OD` (R147). -/
def execVuzpOd (g : BitVec 3) (d : BitVec 4) (a : BitVec 4) (b : BitVec 4) (s : State) : Out :=
  s.setV g d fun s => unzipLanes (s.readV a) (s.readV b) 1

/-- The draw of lane `i` (R148). -/
def laneDraw (s : State) (a : BitVec 4) (k : BitVec 3) (i : Nat) : Word :=
  genG s.me.x[k.toNat] ((lane (s.readV a) i).setWidth 64)

/-- `VRNG` (R148). -/
def execVrng (g : BitVec 3) (d : BitVec 4) (a : BitVec 4) (k : BitVec 3) (s : State) : Out :=
  s.setV g d fun s => ofLanes fun i => (laneDraw s a k i).extractLsb' 32 32

/-- `VRNG.U` (R148). -/
def execVrngU (g : BitVec 3) (d : BitVec 4) (a : BitVec 4) (k : BitVec 3) (s : State) : Out :=
  s.setV g d fun s => ofLanes fun i =>
    BitVec.ofNat 32 (Fmt.fp32.ofVal Rnd.nearest 0 (.fin false (field (laneDraw s a k i) 40 24) (-24)))

/-! ## Moves to tiles and scalars, major 0x54 (R149) -/

namespace State

def readT (s : State) (a : BitVec 4) : Tile := s.me.t[a.toNat]
def writeT (s : State) (d : BitVec 4) (x : Tile) : State := s.setMe { s.me with t := s.me.t.set d.toNat x }

end State

/-- `VFROMT` (R149). -/
def execVfromt (g : BitVec 3) (d : BitVec 4) (a : BitVec 4) (q : BitVec 4) (s : State) : Out :=
  s.setV g d fun s => (s.readT a).rows.extractLsb' (2048 * q.toNat) 2048

/-- `VTOT` (R149). -/
def execVtot (g : BitVec 3) (d : BitVec 4) (a : BitVec 4) (q : BitVec 4) (s : State) : Out :=
  s.brick g fun s =>
    let t := s.readT d
    .done (s.writeT d { t with rows := setField t.rows (2048 * q.toNat) 2048 (s.readV a).toNat })

/-- `VEXT` (R149). -/
def execVext (g : BitVec 3) (d : BitVec 5) (a : BitVec 4) (k : BitVec 6) (s : State) : Out :=
  s.setS g d fun s => (lane (s.readV a) k.toNat).setWidth 64

/-- `VINS` (R149). -/
def execVins (g : BitVec 3) (d : BitVec 4) (a : BitVec 5) (k : BitVec 6) (s : State) : Out :=
  s.setV g d fun s => setField (s.readV d) (32 * k.toNat) 32 (low32 (s.readS a)).toNat

/-- `VBCS` (R149). -/
def execVbcs (g : BitVec 3) (d : BitVec 4) (a : BitVec 5) (s : State) : Out :=
  s.setV g d fun s => ofLanes fun _ => low32 (s.readS a)

/-! ## Codebook and F4 encoding, major 0x75 (R150, R151) -/

/-- The entries of a codebook, read as values, in units of 2^-149; an infinity is beyond every finite value. -/
def codebookUnits (k : Codebook) : List Int :=
  (List.range 256).map fun c => match Fmt.e8m10.value (elem k.entries 19 c) with
    | .inf neg => if neg then -(2 ^ 300) else 2 ^ 300
    | v => v.units (-149)

/-- `enc` of R150 over the entries, for a value that is not NaN, in the same units. -/
def encUnits (e : List Int) (x : Int) : Nat :=
  let lowest (v : Int) : Nat := e.findIdx (· == v)
  if x ≤ e.getD 0 0 then 0
  else if e.getD 255 0 ≤ x then lowest (e.getD 255 0)
  else
    let j := (e.filter fun v => decide (v ≤ x)).length - 1
    let far : Int := 2 ^ 299
    if min (e.getD (j + 1) 0 - x) far < min (x - e.getD j 0) far then j + 1 else lowest (e.getD j 0)

/-- `enc` of R150. -/
def encTc8 (e : List Int) : Val → Nat
  | .nan => 0
  | .inf neg => encUnits e (if neg then -(2 ^ 300) else 2 ^ 300)
  | v => encUnits e (v.units (-149))

namespace State

/-- `CBK.ENC` into the bytes of one half (R150). -/
def encodeHalf (s : State) (g : BitVec 3) (d a b : BitVec 4) (k : BitVec 2) (hi : Bool) : Out :=
  s.brick g fun s =>
    let kb := s.me.k[k.toNat]
    if !kb.sorted then s.trapOpen .format
    else
      let e := codebookUnits kb
      .done (s.writeV d (setHalf (s.readV d) hi ((List.range 128).map fun j =>
        encTc8 e (srcVal (s.readV a) (s.readV b) j))))

end State

/-- `CBK.ENC.LO` (R150). -/
def execCbkEncLo (g : BitVec 3) (d : BitVec 4) (a : BitVec 4) (b : BitVec 4) (k : BitVec 2) (s : State) : Out :=
  s.encodeHalf g d a b k false

/-- `CBK.ENC.HI` (R150). -/
def execCbkEncHi (g : BitVec 3) (d : BitVec 4) (a : BitVec 4) (b : BitVec 4) (k : BitVec 2) (s : State) : Out :=
  s.encodeHalf g d a b k true

/-- The four F4 blocks of 128 values, each a scale and its codes (R151). -/
def f4Blocks (r : Rnd) (a b : VReg) : List (Nat × List Nat) :=
  (List.range 4).map fun k => encodeF4 r (32 * k) ((List.range 32).map fun i => srcVal a b (32 * k + i))

/-- The F4 vector image (R151). -/
def f4Image (l : List (Nat × List Nat)) : VReg :=
  BitVec.ofNat 2048 (pack 4 (l.map (·.2)).flatten + 2 ^ 512 * pack 8 (l.map (·.1)))

/-- `VENC.F4` (R151). -/
def execVencF4 (g : BitVec 3) (d : BitVec 4) (a : BitVec 4) (b : BitVec 4) (m : RMode) (s : State) : Out :=
  s.brick g fun s =>
    let l := f4Blocks (s.rnd m) (s.readV a) (s.readV b)
    s.produced ((l.findIdx? fun x => x.1 == 0xFF).map (32 * ·)) (s.writeV d (f4Image l))

/-- `VDEC.F4` (R151). -/
def execVdecF4 (g : BitVec 3) (d : BitVec 4) (a : BitVec 4) (p : BitVec 1) (s : State) : Out :=
  s.brick g fun s => s.fpLanes d fun i =>
    let e := 64 * p.toNat + i
    Fmt.fp32.ofVal Rnd.nearest 0 (valF4 (elem (s.readV a) 4 e) (elem (s.readV a) 8 (64 + e / 32)))

end Sys2Proof.Machine
end

