-- ==== Sys2Proof/Machine/Tile.lean ====
section
/-! DEFINITION. Tiles, accumulators and the matrix engine: every instruction of chapter 07 that makes no access
(R159 to R161, R174, R182 to R190, R192, R193). -/

namespace Sys2Proof.Machine

/-! ## Elements of tiles (R159, R174) -/

/-- Bits of an element. -/
def tileWidth : TileFmt → Nat
  | .e4m3 | .e5m2 | .tc8 => 8
  | .fp16 | .bf16 => 16
  | .fp32 => 32
  | .f4 => 4

/-- Elements per row. -/
def perRow (f : TileFmt) : Nat := 512 / tileWidth f

/-- The format with a fraction field; TC8 codes name entries of E8M10. -/
def tileFmt : TileFmt → Fmt
  | .e4m3 => .e4m3
  | .e5m2 => .e5m2
  | .fp16 => .fp16
  | .bf16 => .bf16
  | .fp32 => .fp32
  | .f4 => .f4
  | .tc8 => .e8m10

/-- The companion scale field of a tile written whole in another format than F4 (R160). -/
def plainScales : BitVec 2048 := (default : Tile).scales

/-- A tile from the elements of its rows, `w` bits each, in a format other than F4 (R160). -/
def plainTile (w : Nat) (l : List Nat) : Tile := ⟨BitVec.ofNat 32768 (pack w l), plainScales⟩

namespace Tile

/-- The code of element `k` of row `r`. -/
def code (t : Tile) (f : TileFmt) (r k : Nat) : Nat := elem t.rows (tileWidth f) (r * perRow f + k)

/-- Scale code `b` of row `r`. -/
def scale (t : Tile) (r b : Nat) : Nat := elem t.scales 8 (4 * r + b)

/-- `elem(t, f, kb, r, k)` of R174. -/
def val (t : Tile) (f : TileFmt) (kb : Codebook) (r k : Nat) : Val :=
  match f with
  | .f4 => valF4 (t.code .f4 r k) (t.scale r (k / 32))
  | .tc8 => Fmt.e8m10.value (elem kb.entries 19 (t.code .tc8 r k))
  | f => (tileFmt f).value (t.code f r k)

/-- The first `n` elements of row `r`. -/
def rowVals (t : Tile) (f : TileFmt) (kb : Codebook) (n r : Nat) : List Val := (List.range n).map (t.val f kb r)

/-- The tile with `w`-bit element `k` of row `r` on replaced by the list's codes. -/
def putRow (t : Tile) (w r k : Nat) (l : List Nat) : Tile :=
  { t with rows := setField t.rows (512 * r + w * k) (w * l.length) (pack w l) }

def putScale (t : Tile) (r b s : Nat) : Tile := { t with scales := setField t.scales (8 * (4 * r + b)) 8 s }

end Tile

abbrev Acc64 := BitVec 147456

/-- The W36 code of element (i, j). -/
def accCode (c : Acc64) (i j : Nat) : Nat := elem c 36 (64 * i + j)
def accVal (c : Acc64) (i j : Nat) : Val := Fmt.w36.value (accCode c i j)
/-- The accumulator with the listed codes, in (i, j) order. -/
def accOf (l : List Nat) : Acc64 := BitVec.ofNat 147456 (pack 36 l)

/-- A list of lists, rows of a matrix of 64 rows, from a function of row and column. -/
def matrix (n : Nat) (f : Nat → Nat → Nat) : List (List Nat) :=
  (List.range 64).map fun i => (List.range n).map (f i)

namespace State

def readC (s : State) (a : BitVec 2) : Acc64 := s.me.c[a.toNat]
def writeC (s : State) (d : BitVec 2) (x : Acc64) : State := s.setMe { s.me with c := s.me.c.set d.toNat x }
def codebook (s : State) (k : BitVec 2) : Codebook := s.me.k[k.toNat]

/-- A brick that needs the rounding mode of the matrix control value; codes 5 to 7 raise ILLEGAL (R183). -/
def controlled (s : State) (g : BitVec 3) (body : State → Rnd → Effect) : Out :=
  s.brick g fun s => match RMode.ofCode (field s.x0 8 3) with
    | none => .trap .illegal 0
    | some m => body s (s.rnd m)

end State

/-! ## Moves, conversion and reduction, majors 0x5C to 0x5E -/

/-- `TMOV` (R182). -/
def execTmov (g : BitVec 3) (d : BitVec 4) (a : BitVec 4) (s : State) : Out :=
  s.brick g fun s => .done (s.writeT d (s.readT a))

/-- `TZERO` (R182). -/
def execTzero (g : BitVec 3) (d : BitVec 4) (s : State) : Out :=
  s.brick g fun s => .done (s.writeT d ⟨0, plainScales⟩)

/-- The blocks, each scale and codes, that the values of a row form (R73, R184). -/
def rowBlocks (r : Rnd) (ctr : Nat) (xs : List Val) : List (Nat × List Nat) :=
  (List.range (xs.length / 32)).map fun b => encodeF4 r (ctr + 32 * b) ((xs.drop (32 * b)).take 32)

/-- The tile with the blocks of row `r` written from block `b0` on. -/
def Tile.putBlocks (t : Tile) (r b0 : Nat) (l : List (Nat × List Nat)) : Tile :=
  l.zipIdx.foldl (fun t e => (t.putRow 4 r (32 * (b0 + e.2)) e.1.2).putScale r (b0 + e.2) e.1.1) t

/-- The index of the first block of a row whose scale is NaN, given the counter of its first element. -/
def nanBlock (ctr : Nat) (l : List (Nat × List Nat)) : Option Nat :=
  (l.findIdx? fun x => x.1 == 0xFF).map (ctr + 32 * ·)

/-- `TCVT` to a format of no more elements per row (R184). -/
def tcvtNarrow (r : Rnd) (t : Tile) (fs fd : TileFmt) (kb : Codebook) (part : Nat) : Option Nat × Tile :=
  let n := perRow fd
  let rows := matrix n fun i j => (tileFmt fd).ofVal r (64 * i + j) (t.val fs kb i (part * n + j))
  (((rows.zipIdx).map fun e => firstNonFinite (tileFmt fd) (64 * e.2) e.1).findSome? id,
    plainTile (tileWidth fd) rows.flatten)

/-- `TCVT` to a format of more elements per row than the source has, and no F4. -/
def tcvtWide (r : Rnd) (t old : Tile) (fs fd : TileFmt) (kb : Codebook) (part : Nat) : Option Nat × Tile :=
  let n := perRow fs
  let rows := matrix n fun i j => (tileFmt fd).ofVal r (64 * i + part * n + j) (t.val fs kb i j)
  (((rows.zipIdx).map fun e => firstNonFinite (tileFmt fd) (64 * e.2 + part * n) e.1).findSome? id,
    (rows.zipIdx).foldl (fun o e => o.putRow (tileWidth fd) e.2 (part * n) e.1) old)

/-- `TCVT` to F4. -/
def tcvtF4 (r : Rnd) (t old : Tile) (fs : TileFmt) (kb : Codebook) (part : Nat) : Option Nat × Tile :=
  let n := perRow fs
  let rows := (List.range 64).map fun i => rowBlocks r (64 * i + part * n) (t.rowVals fs kb n i)
  (((rows.zipIdx).map fun e => nanBlock (64 * e.2 + part * n) e.1).findSome? id,
    (rows.zipIdx).foldl (fun o e => o.putBlocks e.2 (part * n / 32) e.1) old)

/-- R184. -/
def tcvt (r : Rnd) (t old : Tile) (fs fd : TileFmt) (kb : Codebook) (part : Nat) : Option Nat × Tile :=
  if perRow fd ≤ perRow fs then tcvtNarrow r t fs fd kb part
  else if fd = .f4 then tcvtF4 r t old fs kb part
  else tcvtWide r t old fs fd kb part

/-- `TCVT` (R183, R184). -/
def execTcvt (g : BitVec 3) (d : BitVec 4) (a : BitVec 4) (sc : TileFmt) (p : BitVec 2) (k : BitVec 2) (f : TileFmt) (s : State) : Out :=
  s.controlled g fun s r =>
    let x := tcvt r (s.readT a) (s.readT d) sc f (s.codebook k) p.toNat
    s.produced x.1 (s.writeT d x.2)

/-- `TRED` (R185). -/
def execTred (g : BitVec 3) (d : BitVec 4) (a : BitVec 4) (k : BitVec 2) (m : RMode) (f : TileFmt) (s : State) : Out :=
  s.brick g fun s =>
    let t := s.readT a
    let codes := (List.range 64).map fun i =>
      Fmt.fp32.sum (s.rnd m) i (t.rowVals f (s.codebook k) (perRow f) i)
    s.produced (firstNonFinite .fp32 0 codes) (s.writeT d (plainTile 32 codes))

/-! ## The matrix engine, majors 0x68 to 0x6A (R186 to R189) -/

/-- The formats of A and B (R186). -/
def pairFmts : MmaPair → TileFmt × TileFmt
  | .e4m3 => (.e4m3, .e4m3)
  | .e4m3E5m2 => (.e4m3, .e5m2)
  | .e5m2E4m3 => (.e5m2, .e4m3)
  | .e5m2 => (.e5m2, .e5m2)
  | .f16 => (.fp16, .fp16)
  | .f16Bf16 => (.fp16, .bf16)
  | .bf16F16 => (.bf16, .fp16)
  | .bf16 => (.bf16, .bf16)
  | .f4 => (.f4, .f4)

/-- The formats of A and B (R189). -/
def tcFmts : TcPair → TileFmt × TileFmt
  | .tc8 => (.tc8, .tc8)
  | .tc8E4m3 => (.tc8, .e4m3)
  | .e4m3Tc8 => (.e4m3, .tc8)
  | .tc8E5m2 => (.tc8, .e5m2)
  | .e5m2Tc8 => (.e5m2, .tc8)

/-- One accumulator element updated by a group (R86, R87). -/
def groupUpdate (r : Rnd) (ctr : Nat) (c : Val) (a b : List Val) : Nat :=
  Fmt.w36.sum r ctr (c :: (a.zip b).map fun e => e.1.mul e.2)

/-- The codes of C + A·Bᵀ in (i, j) order, from the rows of A and of B (R187). -/
def product (r : Rnd) (c : Acc64) (as bs : List (List Val)) : List Nat :=
  (as.zipIdx.map fun a => bs.zipIdx.map fun b =>
    groupUpdate r (64 * a.2 + b.2) (accVal c a.2 b.2) a.1 b.1).flatten

/-- The rows of a tile as the engine decodes them: `n` elements each. -/
def tileRows (t : Tile) (f : TileFmt) (kb : Codebook) (n : Nat) : List (List Val) :=
  (List.range 64).map (t.rowVals f kb n)

namespace State

/-- C[d] takes the products, unless a non-finite element traps (R187). -/
def accumulate (s : State) (d : BitVec 2) (r : Rnd) (as bs : List (List Val)) : Effect :=
  let codes := product r (s.readC d) as bs
  s.produced (firstNonFinite .w36 0 codes) (s.writeC d (accOf codes))

end State

/-- `MMA` (R186, R187). -/
def execMma (g : BitVec 3) (d : BitVec 2) (a : BitVec 4) (b : BitVec 4) (m : RMode) (p : MmaPair) (s : State) : Out :=
  s.brick g fun s =>
    let n := perRow (pairFmts p).1
    s.accumulate d (s.rnd m) (tileRows (s.readT a) (pairFmts p).1 default n) (tileRows (s.readT b) (pairFmts p).2 default n)

/-- The positions that a pattern code names (R188). -/
def patternPair : Nat → Option (Nat × Nat)
  | 0 => some (0, 1)
  | 1 => some (0, 2)
  | 2 => some (0, 3)
  | 3 => some (1, 2)
  | 4 => some (1, 3)
  | 5 => some (2, 3)
  | _ => none

/-- The pattern code of group `g` of row `i`. -/
def patternCode (tm : Tile) (i g : Nat) : Nat := field tm.rows (512 * i + 3 * g) 3

/-- The index 64i + g of the first invalid pattern code among `n` groups a row. -/
def badPattern (tm : Tile) (n : Nat) : Option Nat :=
  (((List.range 64).map fun i => (List.range n).map fun g => 64 * i + g).flatten).find? fun x =>
    (patternPair (patternCode tm (x / 64) (x % 64))).isNone

/-- Stored value `k` of row `i`, which belongs to group `g` (R188). -/
def storedVal (ta : Tile) (f : TileFmt) (i k g : Nat) : Val :=
  match f with
  | .f4 => valF4 (ta.code .f4 i k) (ta.scale i (g / 8))
  | f => ta.val f default i k

/-- The logical row of A (R188): +0 in the omitted positions. -/
def sparseRow (ta tm : Tile) (f : TileFmt) (n i : Nat) : List Val :=
  ((List.range (n / 4)).map fun g =>
    let pq := (patternPair (patternCode tm i g)).getD (0, 1)
    (List.range 4).map fun k =>
      if k = pq.1 then storedVal ta f i (2 * g) g
      else if k = pq.2 then storedVal ta f i (2 * g + 1) g
      else .fin false 0 0).flatten

/-- `MMA.SP` (R183, R188). -/
def execMmaSp (g : BitVec 3) (d : BitVec 2) (a : BitVec 4) (b : BitVec 4) (t : BitVec 4) (p : MmaPair) (s : State) : Out :=
  s.controlled g fun s r =>
    let n := perRow (pairFmts p).1
    match badPattern (s.readT t) (n / 4) with
    | some x => .trap .format (BitVec.ofNat 64 x)
    | none =>
      s.accumulate d r ((List.range 64).map (sparseRow (s.readT a) (s.readT t) (pairFmts p).1 n))
        (tileRows (s.readT b) (pairFmts p).2 default n)

/-- `MMA.TC` (R183, R189). -/
def execMmaTc (g : BitVec 3) (d : BitVec 2) (a : BitVec 4) (b : BitVec 4) (y : BitVec 2) (x : BitVec 2) (p : TcPair) (s : State) : Out :=
  s.controlled g fun s r =>
    s.accumulate d r (tileRows (s.readT a) (tcFmts p).1 (s.codebook x) 64)
      (tileRows (s.readT b) (tcFmts p).2 (s.codebook y) 64)

/-! ## Accumulators, majors 0x6B and 0x6C (R190, R192, R193) -/

/-- `CZERO` (R190). -/
def execCzero (g : BitVec 3) (d : BitVec 2) (s : State) : Out :=
  s.brick g fun s => .done (s.writeC d 0)

/-- `CMOV` (R190). -/
def execCmov (g : BitVec 3) (d : BitVec 2) (a : BitVec 2) (s : State) : Out :=
  s.brick g fun s => .done (s.writeC d (s.readC a))

/-- Elements of an accumulator converted into a tile of a format other than F4 (R192). -/
def ccvtPlain (r : Rnd) (c : Acc64) (f : TileFmt) (part : Nat) : Option Nat × Tile :=
  let n := perRow f
  let rows := matrix n fun i j => (tileFmt f).ofVal r (64 * i + part * n + j) (accVal c i (part * n + j))
  (((rows.zipIdx).map fun e => firstNonFinite (tileFmt f) (64 * e.2 + part * n) e.1).findSome? id,
    plainTile (tileWidth f) rows.flatten)

/-- Elements of an accumulator converted into half the blocks of an F4 tile (R192). -/
def ccvtBlocks (r : Rnd) (c : Acc64) (old : Tile) (part : Nat) : Option Nat × Tile :=
  let rows := (List.range 64).map fun i => rowBlocks r (64 * i) ((List.range 64).map (accVal c i))
  (((rows.zipIdx).map fun e => nanBlock (64 * e.2) e.1).findSome? id,
    (rows.zipIdx).foldl (fun o e => o.putBlocks e.2 (2 * part) e.1) old)

namespace State

def ccvt (s : State) (g : BitVec 3) (d : BitVec 4) (a : BitVec 2) (p : BitVec 4) (m : RMode) (f : TileFmt) : Out :=
  s.brick g fun s =>
    let x := if f = .f4 then ccvtBlocks (s.rnd m) (s.readC a) (s.readT d) p.toNat
      else ccvtPlain (s.rnd m) (s.readC a) f p.toNat
    s.produced x.1 (s.writeT d x.2)

/-- Every element of C[a] times the lane of V[v] that `pick` names (R193). -/
def scaleAcc (s : State) (g : BitVec 3) (d a : BitVec 2) (v : BitVec 4) (m : RMode) (pick : Nat → Nat → Nat) : Out :=
  s.brick g fun s =>
    let c := s.readC a
    let codes := (matrix 64 fun i j =>
      Fmt.w36.ofVal (s.rnd m) (64 * i + j) ((accVal c i j).mul (laneVal (s.readV v) (pick i j)))).flatten
    s.produced (firstNonFinite .w36 0 codes) (s.writeC d (accOf codes))

end State

/-- `CCVT.E4M3` (R192). -/
def execCcvtE4m3 (g : BitVec 3) (d : BitVec 4) (a : BitVec 2) (p : BitVec 4) (m : RMode) (s : State) : Out :=
  s.ccvt g d a p m .e4m3

/-- `CCVT.E5M2` (R192). -/
def execCcvtE5m2 (g : BitVec 3) (d : BitVec 4) (a : BitVec 2) (p : BitVec 4) (m : RMode) (s : State) : Out :=
  s.ccvt g d a p m .e5m2

/-- `CCVT.F16` (R192). -/
def execCcvtF16 (g : BitVec 3) (d : BitVec 4) (a : BitVec 2) (p : BitVec 4) (m : RMode) (s : State) : Out :=
  s.ccvt g d a p m .fp16

/-- `CCVT.BF16` (R192). -/
def execCcvtBf16 (g : BitVec 3) (d : BitVec 4) (a : BitVec 2) (p : BitVec 4) (m : RMode) (s : State) : Out :=
  s.ccvt g d a p m .bf16

/-- `CCVT.F32` (R192). -/
def execCcvtF32 (g : BitVec 3) (d : BitVec 4) (a : BitVec 2) (p : BitVec 4) (m : RMode) (s : State) : Out :=
  s.ccvt g d a p m .fp32

/-- `CCVT.F4` (R192). -/
def execCcvtF4 (g : BitVec 3) (d : BitVec 4) (a : BitVec 2) (p : BitVec 4) (m : RMode) (s : State) : Out :=
  s.ccvt g d a p m .f4

/-- `CSCL.R` (R193). -/
def execCsclR (g : BitVec 3) (d : BitVec 2) (a : BitVec 2) (v : BitVec 4) (m : RMode) (s : State) : Out :=
  s.scaleAcc g d a v m fun i _ => i

/-- `CSCL.C` (R193). -/
def execCsclC (g : BitVec 3) (d : BitVec 2) (a : BitVec 2) (v : BitVec 4) (m : RMode) (s : State) : Out :=
  s.scaleAcc g d a v m fun _ j => j

end Sys2Proof.Machine
end

