-- ==== Sys2Proof/Machine/TileMem.lean ====
section
/-! DEFINITION. Loads and stores of tiles, accumulators and codebooks (R175 to R181, R191, R194). -/

namespace Sys2Proof.Machine

/-- An element of a window: where its access lands, its bytes in memory, and what it reads where it is padded; the row of the
tile that its bytes are part of, none for a scale code. -/
structure Item where
  at' : Handle.Where
  n : Nat
  pad : Nat
  row : Option Int

/-- The origin of a window, dimensions 0 and 1 (R176). -/
def originX (o : Word) : Int := (o.extractLsb' 0 32).toInt
def originY (o : Word) : Int := (o.extractLsb' 32 32).toInt

namespace Handle

/-- Coordinates of an element of a window: those from dimension 2 up are 0. -/
def coords (h : Handle) (x y : Int) : List Int := x :: y :: List.replicate (h.ndim - 2) 0

/-- The item of the element at (x, y), of `n` bytes. -/
def item (h : Handle) (n : Nat) (x y : Int) : Item := ⟨h.access (h.coords x y), n, h.pad, some y⟩

/-- The item of the scale code of the F4 block at (x, y): 127 where the block is padded (R177). -/
def scaleItem (h : Handle) (x y : Int) : Item :=
  match h.access (h.coords x y) with
  | .pad => ⟨.pad, 1, 127, none⟩
  | _ => ⟨.elem [] (h.scaleAddr (h.elemAddr (h.coords x y))), 1, 127, none⟩

/-- Bytes that one access of an element moves. -/
def accessBytes (f : ElemFmt) : Nat :=
  match f with
  | .f4 => 1
  | .p6 => 16
  | f => f.bytes

end Handle

/-- The smallest range that holds the bytes of the items (R168). -/
def itemRange (h : Handle) (core : Nat) (l : List Item) : Nat × Nat × Nat :=
  let spans := l.filterMap fun i => match i.at' with
    | .elem _ a => if a < 0 then none else some (a.toNat, a.toNat + i.n)
    | _ => none
  let lo := (spans.map (·.1)).foldl min (2 ^ 64)
  let hi := (spans.map (·.2)).foldl max 0
  ((if h.space then 1 + core else 0), lo, hi - lo)

/-- The stretches of memory, (row, first, end), that the items of each row cover one behind the other, the latest first. -/
def rowRuns (l : List Item) : List (Int × Nat × Nat) :=
  l.foldl (fun runs i => match i.row, i.at' with
    | some y, .elem _ a =>
      let lo := a.toNat
      match runs with
      | (z, first, last) :: more =>
        if z = y ∧ first ≤ lo ∧ lo ≤ last then (z, first, max last (lo + i.n)) :: more else (y, lo, lo + i.n) :: runs
      | [] => [(y, lo, lo + i.n)]
    | _, _ => runs) []

/-- The aligned 64-byte blocks that lie wholly within one row's bytes, each of which is accessed as one (R181). -/
def itemBlocks (l : List Item) : List Nat := ((rowRuns l).map fun r => State.blocksWithin r.2.1 (r.2.2 - r.2.1)).flatten

/-- A trap found at an item after other items have been read: what those reads did to caches stays. -/
def settle (t : State) : Effect → Effect
  | .trap c ea => .keep (t.raise c ea)
  | e => e

/-- A list cut into `k` pieces of `n`. -/
def chunks {α : Type} (n : Nat) : Nat → List α → List (List α)
  | 0, _ => []
  | k + 1, l => l.take n :: chunks n k (l.drop n)

namespace State

/-- Steps 2 and 3 of R176 for an address: its place. -/
def placeItem (s : State) (h : Handle) (a : Int) (acc : Acc) : Checked Nat :=
  let ea := BitVec.ofInt 64 a
  if a < 0 ∨ (h.limit : Int) ≤ a then .no (.trap .page ea) else s.checkSpace h.space ea acc

/-- The items read one after the other, each through every step of R176; `bad` is the test of step 4 on what was read,
which names the address it reports; `blocks` are the 64-byte blocks that are read as one. -/
def readItems (s : State) (h : Handle) (bad : Nat → Bool) (blocks : List Nat) : List Item → State × Except Effect (List Nat)
  | [] => (s, .ok [])
  | i :: l =>
    let next (t : State) (x : Nat) (a : Word) : State × Except Effect (List Nat) :=
      if bad x then (t, .error (.keep (t.raise .format a)))
      else match t.readItems h bad blocks l with
        | (u, .ok r) => (u, .ok (x :: r))
        | (u, .error e) => (u, .error e)
    match i.at' with
    | .pad => next s i.pad 0
    | .fault a => (s, .error (.keep (s.raise .prot (BitVec.ofInt 64 a))))
    | .elem _ a => match s.placeItem h a .load with
      | .no e => (s, .error (settle s e))
      | .ok place => match s.readPiece s.myCore s.myCtxId .l2 a.toNat place i.n (whole := blocks.contains (a.toNat / 64)) with
        | (t, .error k) => (t, .error (t.stopAt k))
        | (t, .ok b) => next t (leNat b) (BitVec.ofInt 64 a)

/-- The checks of items to be stored, and the bytes that they write: a padded item writes nothing (R180). -/
def storeItems (s : State) (h : Handle) : List (Item × Nat) → Except Effect (List (Nat × Byte))
  | [] => .ok []
  | (i, x) :: l => match i.at' with
    | .pad => s.storeItems h l
    | .fault a => .error (.trap .prot (BitVec.ofInt 64 a))
    | .elem _ a => match s.placeItem h a .store with
      | .no e => .error e
      | .ok place => match s.storeItems h l with
        | .error e => .error e
        | .ok r => .ok (placed place (leBytes i.n x) ++ r)

/-- The items of a window that lie in memory, as (virtual address, place, bytes). -/
def itemReads (s : State) (h : Handle) (acc : Acc) (l : List Item) : List (Nat × Nat × Nat) :=
  l.filterMap fun i => match i.at' with
    | .elem _ a => match s.placeItem h a acc with
      | .ok place => some (a.toNat, place, i.n)
      | .no _ => none
    | _ => none

/-- A load of the items of a window, whose values make up the new state. -/
def loadWindow (s : State) (h : Handle) (l : List Item) (bad : Nat → Bool) (put : List Nat → State → State) : Effect :=
  s.reading [itemRange h s.myCore l] .l2 (s.itemReads h .load l) fun s =>
    match s.readItems h bad (itemBlocks l) l with
    | (_, .error e) => e
    | (t, .ok r) => .done (put r t)

/-- The pieces of a store of items (R181): their elements, and the blocks of their rows, by their places. -/
def itemPieces (s : State) (h : Handle) (l : List Item) : Pieces :=
  ⟨(l.map (·.n)).headD 1, (itemBlocks l).filterMap fun b => match s.placeItem h (64 * b : Nat) .store with
    | .ok p => some (p / 64)
    | .no _ => none⟩

/-- A store of items with their data. -/
def storeWindow (s : State) (h : Handle) (l : List (Item × Nat)) : Effect :=
  match s.storeItems h l with
  | .error e => e
  | .ok cells =>
    if cells.isEmpty then .done s
    else s.enqueue .wide cells (BitVec.ofNat 64 h.addr) [itemRange h s.myCore (l.map (·.1))] .no
      (s.itemPieces h (l.map (·.1))) ((s.itemReads h .store (l.map (·.1))).map fun e => (e.1, e.2.1))

end State

/-! ## Windows of a tile -/

/-- The checks of R176 on the handle: its format, where they pass. -/
def windowFmt (h : Handle) (o : Word) (accepts : ElemFmt → Bool) : Option ElemFmt :=
  if h.ndim < 2 then none
  else match h.fmt with
    | none => none
    | some f =>
      if !accepts f then none
      else if f = .f4 ∧ (originX o % 32 ≠ 0 ∨ h.extent 0 % 32 ≠ 0 ∨ h.bounds = 2) then none
      else some f

def notP6 (f : ElemFmt) : Bool := f != .p6
/-- Codes 0 to 11 of R120. -/
def transposable (f : ElemFmt) : Bool :=
  match f with
  | .f4 | .p6 | .w36 | .int64 => false
  | _ => true

/-- Items of rows of `n` elements. -/
def plainItems (h : Handle) (f : ElemFmt) (o : Word) : List Item :=
  ((List.range 64).map fun (r : Nat) => (List.range (64 / f.bytes)).map fun (j : Nat) =>
    h.item f.bytes (originX o + j) (originY o + r)).flatten

/-- Items of an F4 window: the 32 elements of a block, then its scale code (R177). -/
def f4Items (h : Handle) (o : Word) : List Item :=
  ((List.range 64).map fun (r : Nat) => ((List.range 4).map fun b =>
    ((List.range 32).map fun u =>
      { h.item 1 (originX o + (32 * b + u : Nat)) (originY o + r) with pad := h.pad * 17 }) ++
    [h.scaleItem (originX o + (32 * b : Nat)) (originY o + r)]).flatten).flatten

/-- The tile that the values of `f4Items` make. -/
def f4Tile (l : List Nat) : Tile :=
  let blocks := chunks 33 256 l
  ⟨BitVec.ofNat 32768 (pack 4 (blocks.map fun b => (b.take 32).zipIdx.map fun e => e.1 / 16 ^ (e.2 % 2)).flatten),
    BitVec.ofNat 2048 (pack 8 (blocks.map fun b => b.getD 32 127))⟩

/-- `TLD` (R175 to R177). -/
def execTld (g : BitVec 3) (d : BitVec 4) (a : BitVec 4) (sc : BitVec 5) (s : State) : Out :=
  s.brick g fun s =>
    let h := s.handle a
    let o := s.readS sc
    match windowFmt h o notP6 with
    | none => .trap .format 0
    | some .f4 => s.loadWindow h (f4Items h o) (fun _ => false) fun l t => t.writeT d (f4Tile l)
    | some f => s.loadWindow h (plainItems h f o) (fun _ => false) fun l t => t.writeT d (plainTile f.width l)

/-- `TLD.T` (R178). -/
def execTldT (g : BitVec 3) (d : BitVec 4) (a : BitVec 4) (sc : BitVec 5) (s : State) : Out :=
  s.brick g fun s =>
    let h := s.handle a
    let o := s.readS sc
    match windowFmt h o transposable with
    | none => .trap .format 0
    | some f =>
      let m := 64 / f.bytes
      let items := ((List.range m).map fun (i : Nat) => (List.range 64).map fun (k : Nat) =>
        h.item f.bytes (originX o + k) (originY o + i)).flatten
      s.loadWindow h items (fun _ => false) fun l t =>
        let rows := chunks 64 m l
        t.writeT d (plainTile f.width ((List.range 64).map fun k => rows.map fun r => r.getD k 0).flatten)

/-- The code that an item of a P6 window holds: for an element in memory, code `c0 mod 21` of its word (R75, R179). -/
def p6Code (i : Item) (w : Nat) : Nat :=
  match i.at' with
  | .elem c _ => w / 2 ^ (6 * (c.headD 0 % 21).toNat) % 64
  | _ => w % 64

/-- `TLD.P6` (R179). -/
def execTldP6 (g : BitVec 3) (d : BitVec 4) (a : BitVec 4) (sc : BitVec 5) (s : State) : Out :=
  s.brick g fun s =>
    let h := s.handle a
    let o := s.readS sc
    match windowFmt h o (fun f => f == .p6) with
    | none => .trap .format 0
    | some _ =>
      let items := ((List.range 64).map fun (r : Nat) => (List.range 64).map fun (j : Nat) =>
        h.item 16 (originX o + j) (originY o + r)).flatten
      s.loadWindow h items (fun w => decide (2 ^ 126 ≤ w)) fun l t =>
        t.writeT d (plainTile 8 ((items.zip l).map fun e => p6Code e.1 e.2))

/-- The data of the items of an F4 window: the byte of each element, and the scale codes (R180). -/
def f4Data (t : Tile) : List Nat :=
  ((List.range 64).map fun (r : Nat) => ((List.range 4).map fun b =>
    ((List.range 32).map fun u => elem t.rows 8 (64 * r + (32 * b + u) / 2)) ++ [t.scale r b]).flatten).flatten

/-- `TST` (R180). -/
def execTst (g : BitVec 3) (t : BitVec 4) (a : BitVec 4) (sc : BitVec 5) (s : State) : Out :=
  s.brick g fun s =>
    let h := s.handle a
    let o := s.readS sc
    let x := s.readT t
    match windowFmt h o notP6 with
    | none => .trap .format 0
    | some .f4 => s.storeWindow h ((f4Items h o).zip (f4Data x))
    | some f =>
      s.storeWindow h ((plainItems h f o).zip ((List.range (4096 / f.bytes)).map (elem x.rows f.width)))

/-! ## Accumulators (R191) -/

/-- The items of the 64 × 64 containers of a window at coordinate (0, 0). -/
def accItems (h : Handle) : List Item :=
  ((List.range 64).map fun i => (List.range 64).map fun j => h.item 8 (j : Nat) (i : Nat)).flatten

def isAccWindow (h : Handle) : Bool := decide (2 ≤ h.ndim) && h.fmtCode == 14

/-- `CLD` (R191). -/
def execCld (g : BitVec 3) (d : BitVec 2) (a : BitVec 4) (s : State) : Out :=
  s.brick g fun s =>
    let h := s.handle a
    if isAccWindow h then
      s.loadWindow h (accItems h) (fun w => decide (2 ^ 36 ≤ w)) fun l t => t.writeC d (accOf l)
    else .trap .format 0

/-- `CST` (R191). -/
def execCst (g : BitVec 3) (d : BitVec 2) (a : BitVec 4) (s : State) : Out :=
  s.brick g fun s =>
    let h := s.handle a
    if isAccWindow h then
      s.storeWindow h ((accItems h).zip ((List.range 4096).map (elem (s.readC d) 36)))
    else .trap .format 0

/-! ## Codebooks (R194) -/

/-- The codebook of 256 entries, with the verdict of the test of R74. -/
def codebookOf (l : List Nat) : Codebook :=
  let k : Codebook := ⟨BitVec.ofNat 4864 (pack 19 l), true⟩
  let e := codebookUnits k
  let noNan := l.all fun x => !(Fmt.e8m10.value (x % 2 ^ 19)).isNan
  { k with sorted := noNan && ((e.zip (e.drop 1)).all fun x => decide (x.1 ≤ x.2)) }

namespace State

/-- The checks of the pieces of 64 bytes of an image, the lowest address first; their places. -/
def placePieces (s : State) (isLocal : Bool) (ea : Word) : List Nat → Checked (List Nat)
  | [] => .ok []
  | o :: l => match s.checkSpace isLocal (ea + BitVec.ofNat 64 o) .load with
    | .no e => .no e
    | .ok p => match s.placePieces isLocal ea l with
      | .no e => .no e
      | .ok ps => .ok (p :: ps)

/-- `CBK.LD`, `CBK.LD.L` (R194). -/
def codebookLoad (isLocal : Bool) (d : BitVec 2) (ea : Word) (s : State) : Effect :=
  let offsets := (List.range 16).map (64 * ·)
  if ea.extractLsb' 0 6 ≠ 0#6 then .trap .align ea
  else match s.placePieces isLocal ea offsets with
    | .no e => e
    | .ok places =>
      let pieces := (offsets.zip places).map fun e => (ea.toNat + e.1, e.2, 64)
      s.reading [s.spaceRange isLocal ea 1024] .l2 pieces fun s =>
        match s.readPieces s.myCore s.myCtxId .l2 pieces with
        | (t, .error k) => t.stopAt k
        | (t, .ok b) =>
          let words := (chunks 4 256 b).map leNat
          match words.findIdx? fun w => decide (2 ^ 19 ≤ w) with
          | some e => .keep (t.raise .format (ea + BitVec.ofNat 64 (4 * e)))
          | none => .done (t.setMe { t.me with k := t.me.k.set d.toNat (codebookOf words) })

end State

/-- `CBK.LD` (R194). -/
def execCbkLd (g : BitVec 3) (d : BitVec 2) (sc : BitVec 5) (s : State) : Out :=
  s.brick g fun s => s.codebookLoad false d (s.readS sc)

/-- `CBK.LD.L` (R194). -/
def execCbkLdL (g : BitVec 3) (d : BitVec 2) (sc : BitVec 5) (s : State) : Out :=
  s.brick g fun s => s.codebookLoad true d (s.readS sc)

end Sys2Proof.Machine
end

