-- ==== Sys2Proof/Machine/VectorMem.lean ====
section
/-! DEFINITION. Vector loads and stores (R152 to R156). -/

namespace Sys2Proof.Machine

/-! ## Element addresses (R153), lanes ascending -/

def contiguous (base : Word) : List Word := (List.range 64).map fun i => base + BitVec.ofNat 64 (4 * i)
def strided (base x : Word) : List Word := (List.range 64).map fun i => base + BitVec.ofNat 64 i * x
def indexed (base : Word) (v : VReg) : List Word :=
  (List.range 64).map fun i => base + 4#64 * (lane v i).signExtend 64

/-- The active lanes of a store with their addresses. -/
def allLanes (l : List Word) : List (Nat × Word) := l.zipIdx.map fun e => (e.2, e.1)
def setLanes (m : VReg) (l : List Word) : List (Nat × Word) := (allLanes l).filter fun e => lane m e.1 != 0

namespace State

/-- The checks of every lane in ascending order, after every lane was found aligned (R153); the lanes' places. -/
def placeLanes (s : State) (isLocal : Bool) (acc : Acc) (via : Via) : List Word → Checked (List Nat)
  | [] => .ok []
  | a :: l => match s.checkSpace isLocal a acc via with
    | .no e => .no e
    | .ok p => match s.placeLanes isLocal acc via l with
      | .no e => .no e
      | .ok ps => .ok (p :: ps)

def checkLanes (s : State) (isLocal : Bool) (acc : Acc) (via : Via) (l : List Word) : Checked (List Nat) :=
  match l.find? fun a => a.extractLsb' 0 2 != 0#2 with
  | some a => .no (.trap .align a)
  | none => s.placeLanes isLocal acc via l

/-- R154. -/
def laneRange (s : State) (isLocal : Bool) (l : List Word) : Nat × Nat × Nat :=
  match l.map BitVec.toNat with
  | [] => ((if isLocal then 1 + s.myCore else 0), 0, 0)
  | a :: r =>
    let lo := r.foldl min a
    ((if isLocal then 1 + s.myCore else 0), lo, r.foldl max a + 4 - lo)

/-- The 64-byte blocks that a contiguous access of the lanes at these addresses makes as one (R155, R281). -/
def laneBlocks (contig : Bool) (l : List Word) : List Nat :=
  match contig, l.map BitVec.toNat with
  | true, a :: r => blocksWithin (r.foldl min a) (r.foldl max a + 4 - r.foldl min a)
  | _, _ => []

/-- A vector load (R153). -/
def vectorLoad (isLocal : Bool) (via : Via) (d : BitVec 4) (l : List Word) (s : State) (contig : Bool := false) : Effect :=
  match s.checkLanes isLocal .load via l with
  | .no e => e
  | .ok places =>
    let pieces := (l.zip places).map fun e => (e.1.toNat, e.2, 4)
    s.reading [s.laneRange isLocal l] via pieces fun s =>
      match s.readPieces s.myCore s.myCtxId via pieces (laneBlocks contig l) with
      | (t, .error k) => t.stopAt k
      | (t, .ok b) => .done (t.writeV d (BitVec.ofNat 2048 (leNat b)))

/-- A vector store of the active lanes (R153). Among lanes with one address the highest comes last (R156). -/
def vectorStore (isLocal : Bool) (x : VReg) (l : List (Nat × Word)) (s : State) (contig : Bool := false) : Effect :=
  let as := l.map (·.2)
  match s.checkLanes isLocal .store .home as with
  | .no e => e
  | .ok places =>
    let cells := ((l.zip places).map fun e => placed e.2 (leBytes 4 (lane x e.1.1).toNat)).flatten
    let blocks := laneBlocks contig as
    let whole := ((as.zip places).filter fun e => blocks.contains (e.1.toNat / 64)).map fun e => e.2 / 64
    if cells.isEmpty then .done s
    else s.enqueue .wide cells (as.headD 0) [s.laneRange isLocal as] .no ⟨4, whole.eraseDups⟩
      ((as.zip places).map fun e => (e.1.toNat, e.2))

end State

/-- `VLD` (R152, R153). -/
def execVld (g : BitVec 3) (d : BitVec 4) (sc : BitVec 5) (s : State) : Out :=
  s.brick g fun s => s.vectorLoad false .l1 d (contiguous (s.readS sc)) (contig := true)

/-- `VLD.L` (R152, R153). -/
def execVldL (g : BitVec 3) (d : BitVec 4) (sc : BitVec 5) (s : State) : Out :=
  s.brick g fun s => s.vectorLoad true .home d (contiguous (s.readS sc)) (contig := true)

/-- `VLDX` (R152, R153). -/
def execVldx (g : BitVec 3) (d : BitVec 4) (sc : BitVec 5) (s : State) : Out :=
  s.brick g fun s => s.vectorLoad false .home d (contiguous (s.readS sc)) (contig := true)

/-- `VLDS` (R152, R153). -/
def execVlds (g : BitVec 3) (d : BitVec 4) (sc : BitVec 5) (x : BitVec 3) (s : State) : Out :=
  s.brick g fun s => s.vectorLoad false .l1 d (strided (s.readS sc) s.me.x[x.toNat])

/-- `VLDS.L` (R152, R153). -/
def execVldsL (g : BitVec 3) (d : BitVec 4) (sc : BitVec 5) (x : BitVec 3) (s : State) : Out :=
  s.brick g fun s => s.vectorLoad true .home d (strided (s.readS sc) s.me.x[x.toNat])

/-- `VGTH` (R152, R153). -/
def execVgth (g : BitVec 3) (d : BitVec 4) (a : BitVec 4) (sc : BitVec 5) (s : State) : Out :=
  s.brick g fun s => s.vectorLoad false .l1 d (indexed (s.readS sc) (s.readV a))

/-- `VGTH.L` (R152, R153). -/
def execVgthL (g : BitVec 3) (d : BitVec 4) (a : BitVec 4) (sc : BitVec 5) (s : State) : Out :=
  s.brick g fun s => s.vectorLoad true .home d (indexed (s.readS sc) (s.readV a))

/-- `VST` (R152, R153). -/
def execVst (g : BitVec 3) (a : BitVec 4) (sc : BitVec 5) (s : State) : Out :=
  s.brick g fun s => s.vectorStore false (s.readV a) (allLanes (contiguous (s.readS sc))) (contig := true)

/-- `VST.L` (R152, R153). -/
def execVstL (g : BitVec 3) (a : BitVec 4) (sc : BitVec 5) (s : State) : Out :=
  s.brick g fun s => s.vectorStore true (s.readV a) (allLanes (contiguous (s.readS sc))) (contig := true)

/-- `VSTS` (R152, R153). -/
def execVsts (g : BitVec 3) (a : BitVec 4) (sc : BitVec 5) (x : BitVec 3) (s : State) : Out :=
  s.brick g fun s => s.vectorStore false (s.readV a) (allLanes (strided (s.readS sc) s.me.x[x.toNat]))

/-- `VSTS.L` (R152, R153). -/
def execVstsL (g : BitVec 3) (a : BitVec 4) (sc : BitVec 5) (x : BitVec 3) (s : State) : Out :=
  s.brick g fun s => s.vectorStore true (s.readV a) (allLanes (strided (s.readS sc) s.me.x[x.toNat]))

/-- `VSCT` (R152, R153). -/
def execVsct (g : BitVec 3) (im : BitVec 4) (a : BitVec 4) (sc : BitVec 5) (s : State) : Out :=
  s.brick g fun s => s.vectorStore false (s.readV a) (allLanes (indexed (s.readS sc) (s.readV im)))

/-- `VSCT.L` (R152, R153). -/
def execVsctL (g : BitVec 3) (im : BitVec 4) (a : BitVec 4) (sc : BitVec 5) (s : State) : Out :=
  s.brick g fun s => s.vectorStore true (s.readV a) (allLanes (indexed (s.readS sc) (s.readV im)))

/-- `VSTM` (R152, R153). -/
def execVstm (g : BitVec 3) (m : BitVec 4) (a : BitVec 4) (sc : BitVec 5) (s : State) : Out :=
  s.brick g fun s => s.vectorStore false (s.readV a) (setLanes (s.readV m) (contiguous (s.readS sc))) (contig := true)

/-- `VSTM.L` (R152, R153). -/
def execVstmL (g : BitVec 3) (m : BitVec 4) (a : BitVec 4) (sc : BitVec 5) (s : State) : Out :=
  s.brick g fun s => s.vectorStore true (s.readV a) (setLanes (s.readV m) (contiguous (s.readS sc))) (contig := true)

end Sys2Proof.Machine
end

