-- ==== Sys2Proof/Machine/Words.lean ====
section
/-! DEFINITION. The decoder and the meanings joined without building the instruction between them, for running the
model: Lean cannot build the later constructors of Instr in compiled code. Nothing is stated about this file but that it
computes what decode and exec say (`majorWf_run`, and `runBrick_run` in RunWord). -/

namespace Sys2Proof.Machine

/-- The verdict of decode's range checks on a brick's fields; none for unlisted fields. -/
noncomputable def majorWf (maj : Nat) (g : BitVec 3) (lo : BitVec 5) (up : BitVec 16) : Option Bool :=
  (decodeMajor maj g lo up).map Instr.wf

/-- Whether the range checks pass, and the meaning. -/
abbrev Leaf := Bool × (State → Out)

def leafMaj00 (g : BitVec 3) (lo : BitVec 5) (up : BitVec 16) : Option Leaf :=
  if lo = 0#5 ∧ up.extractLsb' 0 1 = 0#1 then some (true, execAdd g (up.extractLsb' 11 5) (up.extractLsb' 6 5) (up.extractLsb' 1 5))
  else if lo = 1#5 ∧ up.extractLsb' 0 1 = 0#1 then some (true, execSub g (up.extractLsb' 11 5) (up.extractLsb' 6 5) (up.extractLsb' 1 5))
  else if lo = 2#5 ∧ up.extractLsb' 0 1 = 0#1 then some (true, execMul g (up.extractLsb' 11 5) (up.extractLsb' 6 5) (up.extractLsb' 1 5))
  else if lo = 3#5 ∧ up.extractLsb' 0 1 = 0#1 then some (true, execMulh g (up.extractLsb' 11 5) (up.extractLsb' 6 5) (up.extractLsb' 1 5))
  else if lo = 4#5 ∧ up.extractLsb' 0 1 = 0#1 then some (true, execMulhu g (up.extractLsb' 11 5) (up.extractLsb' 6 5) (up.extractLsb' 1 5))
  else if lo = 5#5 ∧ up.extractLsb' 0 1 = 0#1 then some (true, execMulhm g (up.extractLsb' 11 5) (up.extractLsb' 6 5) (up.extractLsb' 1 5))
  else if lo = 6#5 ∧ up.extractLsb' 0 1 = 0#1 then some (true, execDiv g (up.extractLsb' 11 5) (up.extractLsb' 6 5) (up.extractLsb' 1 5))
  else if lo = 7#5 ∧ up.extractLsb' 0 1 = 0#1 then some (true, execDivu g (up.extractLsb' 11 5) (up.extractLsb' 6 5) (up.extractLsb' 1 5))
  else if lo = 8#5 ∧ up.extractLsb' 0 1 = 0#1 then some (true, execRem g (up.extractLsb' 11 5) (up.extractLsb' 6 5) (up.extractLsb' 1 5))
  else if lo = 9#5 ∧ up.extractLsb' 0 1 = 0#1 then some (true, execRemu g (up.extractLsb' 11 5) (up.extractLsb' 6 5) (up.extractLsb' 1 5))
  else if lo = 10#5 ∧ up.extractLsb' 0 1 = 0#1 then some (true, execMin g (up.extractLsb' 11 5) (up.extractLsb' 6 5) (up.extractLsb' 1 5))
  else if lo = 11#5 ∧ up.extractLsb' 0 1 = 0#1 then some (true, execMinu g (up.extractLsb' 11 5) (up.extractLsb' 6 5) (up.extractLsb' 1 5))
  else if lo = 12#5 ∧ up.extractLsb' 0 1 = 0#1 then some (true, execMax g (up.extractLsb' 11 5) (up.extractLsb' 6 5) (up.extractLsb' 1 5))
  else if lo = 13#5 ∧ up.extractLsb' 0 1 = 0#1 then some (true, execMaxu g (up.extractLsb' 11 5) (up.extractLsb' 6 5) (up.extractLsb' 1 5))
  else if lo = 14#5 ∧ up.extractLsb' 0 1 = 0#1 then some (true, execAdds g (up.extractLsb' 11 5) (up.extractLsb' 6 5) (up.extractLsb' 1 5))
  else if lo = 15#5 ∧ up.extractLsb' 0 1 = 0#1 then some (true, execSubs g (up.extractLsb' 11 5) (up.extractLsb' 6 5) (up.extractLsb' 1 5))
  else if lo = 16#5 ∧ up.extractLsb' 0 1 = 0#1 then some (true, execAddsu g (up.extractLsb' 11 5) (up.extractLsb' 6 5) (up.extractLsb' 1 5))
  else if lo = 17#5 ∧ up.extractLsb' 0 1 = 0#1 then some (true, execSubsu g (up.extractLsb' 11 5) (up.extractLsb' 6 5) (up.extractLsb' 1 5))
  else if lo = 18#5 ∧ up.extractLsb' 0 6 = 0#6 then some (true, execAbs g (up.extractLsb' 11 5) (up.extractLsb' 6 5))
  else if lo = 19#5 ∧ up.extractLsb' 0 6 = 0#6 then some (true, execNeg g (up.extractLsb' 11 5) (up.extractLsb' 6 5))
  else none

def leafMaj01 (g : BitVec 3) (lo : BitVec 5) (up : BitVec 16) : Option Leaf :=
  if lo = 0#5 ∧ up.extractLsb' 0 1 = 0#1 then some (true, execAnd g (up.extractLsb' 11 5) (up.extractLsb' 6 5) (up.extractLsb' 1 5))
  else if lo = 1#5 ∧ up.extractLsb' 0 1 = 0#1 then some (true, execOr g (up.extractLsb' 11 5) (up.extractLsb' 6 5) (up.extractLsb' 1 5))
  else if lo = 2#5 ∧ up.extractLsb' 0 1 = 0#1 then some (true, execXor g (up.extractLsb' 11 5) (up.extractLsb' 6 5) (up.extractLsb' 1 5))
  else if lo = 3#5 ∧ up.extractLsb' 0 1 = 0#1 then some (true, execAndn g (up.extractLsb' 11 5) (up.extractLsb' 6 5) (up.extractLsb' 1 5))
  else if lo = 4#5 ∧ up.extractLsb' 0 1 = 0#1 then some (true, execOrn g (up.extractLsb' 11 5) (up.extractLsb' 6 5) (up.extractLsb' 1 5))
  else if lo = 5#5 ∧ up.extractLsb' 0 1 = 0#1 then some (true, execXnor g (up.extractLsb' 11 5) (up.extractLsb' 6 5) (up.extractLsb' 1 5))
  else if lo = 6#5 ∧ up.extractLsb' 0 1 = 0#1 then some (true, execShl g (up.extractLsb' 11 5) (up.extractLsb' 6 5) (up.extractLsb' 1 5))
  else if lo = 7#5 ∧ up.extractLsb' 0 1 = 0#1 then some (true, execShr g (up.extractLsb' 11 5) (up.extractLsb' 6 5) (up.extractLsb' 1 5))
  else if lo = 8#5 ∧ up.extractLsb' 0 1 = 0#1 then some (true, execSra g (up.extractLsb' 11 5) (up.extractLsb' 6 5) (up.extractLsb' 1 5))
  else if lo = 9#5 ∧ up.extractLsb' 0 1 = 0#1 then some (true, execRol g (up.extractLsb' 11 5) (up.extractLsb' 6 5) (up.extractLsb' 1 5))
  else if lo = 10#5 ∧ up.extractLsb' 0 1 = 0#1 then some (true, execRor g (up.extractLsb' 11 5) (up.extractLsb' 6 5) (up.extractLsb' 1 5))
  else none

def leafMaj02 (g : BitVec 3) (lo : BitVec 5) (up : BitVec 16) : Option Leaf :=
  if lo = 0#5 ∧ up.extractLsb' 0 6 = 0#6 then some (true, execClz g (up.extractLsb' 11 5) (up.extractLsb' 6 5))
  else if lo = 1#5 ∧ up.extractLsb' 0 6 = 0#6 then some (true, execCtz g (up.extractLsb' 11 5) (up.extractLsb' 6 5))
  else if lo = 2#5 ∧ up.extractLsb' 0 6 = 0#6 then some (true, execPopc g (up.extractLsb' 11 5) (up.extractLsb' 6 5))
  else if lo = 3#5 ∧ up.extractLsb' 0 6 = 0#6 then some (true, execBrev g (up.extractLsb' 11 5) (up.extractLsb' 6 5))
  else if lo = 4#5 ∧ up.extractLsb' 0 6 = 0#6 then some (true, execBswap g (up.extractLsb' 11 5) (up.extractLsb' 6 5))
  else if lo = 5#5 ∧ up.extractLsb' 0 6 = 0#6 then some (true, execSxtB g (up.extractLsb' 11 5) (up.extractLsb' 6 5))
  else if lo = 6#5 ∧ up.extractLsb' 0 6 = 0#6 then some (true, execSxtH g (up.extractLsb' 11 5) (up.extractLsb' 6 5))
  else if lo = 7#5 ∧ up.extractLsb' 0 6 = 0#6 then some (true, execSxtW g (up.extractLsb' 11 5) (up.extractLsb' 6 5))
  else if lo = 8#5 ∧ up.extractLsb' 0 6 = 0#6 then some (true, execZxtB g (up.extractLsb' 11 5) (up.extractLsb' 6 5))
  else if lo = 9#5 ∧ up.extractLsb' 0 6 = 0#6 then some (true, execZxtH g (up.extractLsb' 11 5) (up.extractLsb' 6 5))
  else if lo = 10#5 ∧ up.extractLsb' 0 6 = 0#6 then some (true, execZxtW g (up.extractLsb' 11 5) (up.extractLsb' 6 5))
  else if lo = 11#5 ∧ up.extractLsb' 0 1 = 0#1 then some (true, execBfx g (up.extractLsb' 11 5) (up.extractLsb' 6 5) (up.extractLsb' 1 5))
  else if lo = 12#5 ∧ up.extractLsb' 0 1 = 0#1 then some (true, execBfxu g (up.extractLsb' 11 5) (up.extractLsb' 6 5) (up.extractLsb' 1 5))
  else if lo = 13#5 ∧ up.extractLsb' 0 1 = 0#1 then some (true, execBfi g (up.extractLsb' 11 5) (up.extractLsb' 6 5) (up.extractLsb' 1 5))
  else none

def leafMaj03 (g : BitVec 3) (lo : BitVec 5) (up : BitVec 16) : Option Leaf :=
  if lo = 0#5 ∧ up.extractLsb' 0 1 = 0#1 then some (true, execAddW g (up.extractLsb' 11 5) (up.extractLsb' 6 5) (up.extractLsb' 1 5))
  else if lo = 1#5 ∧ up.extractLsb' 0 1 = 0#1 then some (true, execSubW g (up.extractLsb' 11 5) (up.extractLsb' 6 5) (up.extractLsb' 1 5))
  else if lo = 2#5 ∧ up.extractLsb' 0 1 = 0#1 then some (true, execMulW g (up.extractLsb' 11 5) (up.extractLsb' 6 5) (up.extractLsb' 1 5))
  else if lo = 3#5 ∧ up.extractLsb' 0 1 = 0#1 then some (true, execDivW g (up.extractLsb' 11 5) (up.extractLsb' 6 5) (up.extractLsb' 1 5))
  else if lo = 4#5 ∧ up.extractLsb' 0 1 = 0#1 then some (true, execDivuW g (up.extractLsb' 11 5) (up.extractLsb' 6 5) (up.extractLsb' 1 5))
  else if lo = 5#5 ∧ up.extractLsb' 0 1 = 0#1 then some (true, execRemW g (up.extractLsb' 11 5) (up.extractLsb' 6 5) (up.extractLsb' 1 5))
  else if lo = 6#5 ∧ up.extractLsb' 0 1 = 0#1 then some (true, execRemuW g (up.extractLsb' 11 5) (up.extractLsb' 6 5) (up.extractLsb' 1 5))
  else if lo = 7#5 ∧ up.extractLsb' 0 1 = 0#1 then some (true, execShlW g (up.extractLsb' 11 5) (up.extractLsb' 6 5) (up.extractLsb' 1 5))
  else if lo = 8#5 ∧ up.extractLsb' 0 1 = 0#1 then some (true, execShrW g (up.extractLsb' 11 5) (up.extractLsb' 6 5) (up.extractLsb' 1 5))
  else if lo = 9#5 ∧ up.extractLsb' 0 1 = 0#1 then some (true, execSraW g (up.extractLsb' 11 5) (up.extractLsb' 6 5) (up.extractLsb' 1 5))
  else none

def leafMaj04 (g : BitVec 3) (lo : BitVec 5) (up : BitVec 16) : Option Leaf :=
  if lo = 0#5 ∧ up.extractLsb' 8 3 = 0#3 ∧ up.extractLsb' 0 6 = 0#6 then some (true, execRdi g (up.extractLsb' 11 5) (up.extractLsb' 6 2))
  else if lo = 1#5 ∧ up.extractLsb' 8 3 = 0#3 ∧ up.extractLsb' 0 6 = 0#6 then some (true, execRdlc g (up.extractLsb' 11 5) (up.extractLsb' 6 2))
  else if lo = 2#5 ∧ up.extractLsb' 13 3 = 0#3 ∧ up.extractLsb' 0 6 = 0#6 then some (true, execWri g (up.extractLsb' 11 2) (up.extractLsb' 6 5))
  else if lo = 3#5 ∧ up.extractLsb' 13 3 = 0#3 ∧ up.extractLsb' 0 6 = 0#6 then some (true, execWrlc g (up.extractLsb' 11 2) (up.extractLsb' 6 5))
  else if lo = 4#5 ∧ up.extractLsb' 8 3 = 0#3 ∧ up.extractLsb' 0 6 = 0#6 then some (true, execRdlb g (up.extractLsb' 11 5) (up.extractLsb' 6 2))
  else if lo = 5#5 ∧ up.extractLsb' 13 3 = 0#3 ∧ up.extractLsb' 0 6 = 0#6 then some (true, execWrlb g (up.extractLsb' 11 2) (up.extractLsb' 6 5))
  else if lo = 6#5 ∧ up.extractLsb' 0 11 = 0#11 then some (true, execRdp g (up.extractLsb' 11 5))
  else if lo = 7#5 ∧ up.extractLsb' 11 5 = 0#5 ∧ up.extractLsb' 0 6 = 0#6 then some (true, execWrp g (up.extractLsb' 6 5))
  else if lo = 8#5 ∧ up.extractLsb' 0 11 = 0#11 then some (true, execRdpc g (up.extractLsb' 11 5))
  else none

def leafMaj05 (g : BitVec 3) (lo : BitVec 5) (up : BitVec 16) : Option Leaf :=
  if lo = 0#5 ∧ up.extractLsb' 0 1 = 0#1 then some (true, execMadd g (up.extractLsb' 11 5) (up.extractLsb' 6 5) (up.extractLsb' 1 5))
  else if lo = 1#5 ∧ up.extractLsb' 0 1 = 0#1 then some (true, execMsub g (up.extractLsb' 11 5) (up.extractLsb' 6 5) (up.extractLsb' 1 5))
  else if lo = 2#5 ∧ up.extractLsb' 0 1 = 0#1 then some (true, execShadd1 g (up.extractLsb' 11 5) (up.extractLsb' 6 5) (up.extractLsb' 1 5))
  else if lo = 3#5 ∧ up.extractLsb' 0 1 = 0#1 then some (true, execShadd2 g (up.extractLsb' 11 5) (up.extractLsb' 6 5) (up.extractLsb' 1 5))
  else if lo = 4#5 ∧ up.extractLsb' 0 1 = 0#1 then some (true, execShadd3 g (up.extractLsb' 11 5) (up.extractLsb' 6 5) (up.extractLsb' 1 5))
  else if lo = 5#5 ∧ up.extractLsb' 0 1 = 0#1 then some (true, execShadd4 g (up.extractLsb' 11 5) (up.extractLsb' 6 5) (up.extractLsb' 1 5))
  else none

def leafMaj08 (g : BitVec 3) (lo : BitVec 5) (up : BitVec 16) : Option Leaf :=
  if up.extractLsb' 12 4 = 0#4 then some (true, execMovi g (up.extractLsb' 0 12) lo)
  else if up.extractLsb' 12 4 = 1#4 then some (true, execAddi g (up.extractLsb' 0 12) lo)
  else if up.extractLsb' 12 4 = 2#4 then some (true, execAndi g (up.extractLsb' 0 12) lo)
  else if up.extractLsb' 12 4 = 3#4 then some (true, execOri g (up.extractLsb' 0 12) lo)
  else if up.extractLsb' 12 4 = 4#4 then some (true, execXori g (up.extractLsb' 0 12) lo)
  else if up.extractLsb' 12 4 = 5#4 then some ((let i := (up.extractLsb' 0 12); BitVec.ult i 64#12), execShli g (up.extractLsb' 0 12) lo)
  else if up.extractLsb' 12 4 = 6#4 then some ((let i := (up.extractLsb' 0 12); BitVec.ult i 64#12), execShri g (up.extractLsb' 0 12) lo)
  else if up.extractLsb' 12 4 = 7#4 then some ((let i := (up.extractLsb' 0 12); BitVec.ult i 64#12), execSrai g (up.extractLsb' 0 12) lo)
  else if up.extractLsb' 12 4 = 8#4 then some (true, execMuli g (up.extractLsb' 0 12) lo)
  else if up.extractLsb' 12 4 = 9#4 then some (true, execMovh g (up.extractLsb' 0 12) lo)
  else none

def leafMaj09 (g : BitVec 3) (lo : BitVec 5) (up : BitVec 16) : Option Leaf :=
  if lo.extractLsb' 3 2 = 0#2 then (ICmpCc.ofCode (up.extractLsb' 12 2).toNat).bind fun c => some (true, execIcmpi g (up.extractLsb' 14 2) c (up.extractLsb' 0 12) (lo.extractLsb' 0 3))
  else none

def leafMaj10 (g : BitVec 3) (lo : BitVec 5) (up : BitVec 16) : Option Leaf :=
  if up.extractLsb' 14 2 = 0#2 ∧ up.extractLsb' 0 1 = 0#1 then (CmpCc.ofCode lo.toNat).bind fun c => some (true, execCmp g (up.extractLsb' 11 3) (up.extractLsb' 6 5) (up.extractLsb' 1 5) c)
  else none

def leafMaj11 (g : BitVec 3) (lo : BitVec 5) (up : BitVec 16) : Option Leaf :=
  if lo = 0#5 ∧ up.extractLsb' 14 2 = 0#2 ∧ up.extractLsb' 9 2 = 0#2 ∧ up.extractLsb' 4 2 = 0#2 ∧ up.extractLsb' 0 1 = 0#1 then some (true, execPand g (up.extractLsb' 11 3) (up.extractLsb' 6 3) (up.extractLsb' 1 3))
  else if lo = 1#5 ∧ up.extractLsb' 14 2 = 0#2 ∧ up.extractLsb' 9 2 = 0#2 ∧ up.extractLsb' 4 2 = 0#2 ∧ up.extractLsb' 0 1 = 0#1 then some (true, execPor g (up.extractLsb' 11 3) (up.extractLsb' 6 3) (up.extractLsb' 1 3))
  else if lo = 2#5 ∧ up.extractLsb' 14 2 = 0#2 ∧ up.extractLsb' 9 2 = 0#2 ∧ up.extractLsb' 4 2 = 0#2 ∧ up.extractLsb' 0 1 = 0#1 then some (true, execPxor g (up.extractLsb' 11 3) (up.extractLsb' 6 3) (up.extractLsb' 1 3))
  else if lo = 3#5 ∧ up.extractLsb' 14 2 = 0#2 ∧ up.extractLsb' 9 2 = 0#2 ∧ up.extractLsb' 4 2 = 0#2 ∧ up.extractLsb' 0 1 = 0#1 then some (true, execPandn g (up.extractLsb' 11 3) (up.extractLsb' 6 3) (up.extractLsb' 1 3))
  else if lo = 4#5 ∧ up.extractLsb' 14 2 = 0#2 ∧ up.extractLsb' 9 2 = 0#2 ∧ up.extractLsb' 4 2 = 0#2 ∧ up.extractLsb' 0 1 = 0#1 then some (true, execPorn g (up.extractLsb' 11 3) (up.extractLsb' 6 3) (up.extractLsb' 1 3))
  else if lo = 5#5 ∧ up.extractLsb' 14 2 = 0#2 ∧ up.extractLsb' 9 2 = 0#2 ∧ up.extractLsb' 4 2 = 0#2 ∧ up.extractLsb' 0 1 = 0#1 then some (true, execPnand g (up.extractLsb' 11 3) (up.extractLsb' 6 3) (up.extractLsb' 1 3))
  else if lo = 6#5 ∧ up.extractLsb' 14 2 = 0#2 ∧ up.extractLsb' 9 2 = 0#2 ∧ up.extractLsb' 4 2 = 0#2 ∧ up.extractLsb' 0 1 = 0#1 then some (true, execPnor g (up.extractLsb' 11 3) (up.extractLsb' 6 3) (up.extractLsb' 1 3))
  else if lo = 7#5 ∧ up.extractLsb' 14 2 = 0#2 ∧ up.extractLsb' 9 2 = 0#2 ∧ up.extractLsb' 4 2 = 0#2 ∧ up.extractLsb' 0 1 = 0#1 then some (true, execPxnor g (up.extractLsb' 11 3) (up.extractLsb' 6 3) (up.extractLsb' 1 3))
  else none

def leafMaj12 (g : BitVec 3) (lo : BitVec 5) (up : BitVec 16) : Option Leaf :=
  if lo.extractLsb' 3 2 = 0#2 ∧ up.extractLsb' 0 1 = 0#1 then some (true, execSel g (up.extractLsb' 11 5) (up.extractLsb' 6 5) (up.extractLsb' 1 5) (lo.extractLsb' 0 3))
  else if lo.extractLsb' 3 2 = 1#2 ∧ up.extractLsb' 0 11 = 0#11 then some (true, execCset g (up.extractLsb' 11 5) (lo.extractLsb' 0 3))
  else if lo.extractLsb' 3 2 = 2#2 ∧ up.extractLsb' 0 6 = 0#6 then some (true, execSelz g (up.extractLsb' 11 5) (up.extractLsb' 6 5) (lo.extractLsb' 0 3))
  else none

def leafMaj13 (g : BitVec 3) (lo : BitVec 5) (up : BitVec 16) : Option Leaf :=
  if up.extractLsb' 14 2 = 0#2 ∧ up.extractLsb' 0 1 = 0#1 then (FCmpCc.ofCode lo.toNat).bind fun c => some (true, execFcmp g (up.extractLsb' 11 3) (up.extractLsb' 6 5) (up.extractLsb' 1 5) c)
  else none

def leafMaj14 (g : BitVec 3) (lo : BitVec 5) (up : BitVec 16) : Option Leaf :=
  if lo.extractLsb' 0 2 = 0#2 ∧ up.extractLsb' 0 1 = 0#1 then (RMode.ofCode (lo.extractLsb' 2 3).toNat).bind fun m => some (true, execFadd g (up.extractLsb' 11 5) (up.extractLsb' 6 5) (up.extractLsb' 1 5) m)
  else if lo.extractLsb' 0 2 = 1#2 ∧ up.extractLsb' 0 1 = 0#1 then (RMode.ofCode (lo.extractLsb' 2 3).toNat).bind fun m => some (true, execFsub g (up.extractLsb' 11 5) (up.extractLsb' 6 5) (up.extractLsb' 1 5) m)
  else if lo.extractLsb' 0 2 = 2#2 ∧ up.extractLsb' 0 1 = 0#1 then (RMode.ofCode (lo.extractLsb' 2 3).toNat).bind fun m => some (true, execFmul g (up.extractLsb' 11 5) (up.extractLsb' 6 5) (up.extractLsb' 1 5) m)
  else if lo.extractLsb' 0 2 = 3#2 ∧ up.extractLsb' 0 1 = 0#1 then (RMode.ofCode (lo.extractLsb' 2 3).toNat).bind fun m => some (true, execFdiv g (up.extractLsb' 11 5) (up.extractLsb' 6 5) (up.extractLsb' 1 5) m)
  else none

def leafMaj15 (g : BitVec 3) (lo : BitVec 5) (up : BitVec 16) : Option Leaf :=
  if lo.extractLsb' 0 2 = 0#2 ∧ up.extractLsb' 0 1 = 0#1 then (RMode.ofCode (lo.extractLsb' 2 3).toNat).bind fun m => some (true, execFma g (up.extractLsb' 11 5) (up.extractLsb' 6 5) (up.extractLsb' 1 5) m)
  else if lo.extractLsb' 0 2 = 1#2 ∧ up.extractLsb' 0 1 = 0#1 then (RMode.ofCode (lo.extractLsb' 2 3).toNat).bind fun m => some (true, execFms g (up.extractLsb' 11 5) (up.extractLsb' 6 5) (up.extractLsb' 1 5) m)
  else if lo.extractLsb' 0 2 = 2#2 ∧ up.extractLsb' 0 6 = 0#6 then (RMode.ofCode (lo.extractLsb' 2 3).toNat).bind fun m => some (true, execFsqrt g (up.extractLsb' 11 5) (up.extractLsb' 6 5) m)
  else if lo.extractLsb' 0 2 = 3#2 ∧ up.extractLsb' 0 6 = 0#6 then (RMode.ofCode (lo.extractLsb' 2 3).toNat).bind fun m => some (true, execFcvtIF g (up.extractLsb' 11 5) (up.extractLsb' 6 5) m)
  else none

def leafMaj16 (g : BitVec 3) (lo : BitVec 5) (up : BitVec 16) : Option Leaf :=
  if lo = 0#5 ∧ up.extractLsb' 0 1 = 0#1 then some (true, execFmin g (up.extractLsb' 11 5) (up.extractLsb' 6 5) (up.extractLsb' 1 5))
  else if lo = 1#5 ∧ up.extractLsb' 0 1 = 0#1 then some (true, execFmax g (up.extractLsb' 11 5) (up.extractLsb' 6 5) (up.extractLsb' 1 5))
  else if lo = 2#5 ∧ up.extractLsb' 0 6 = 0#6 then some (true, execFneg g (up.extractLsb' 11 5) (up.extractLsb' 6 5))
  else if lo = 3#5 ∧ up.extractLsb' 0 6 = 0#6 then some (true, execFabs g (up.extractLsb' 11 5) (up.extractLsb' 6 5))
  else if lo = 4#5 ∧ up.extractLsb' 0 1 = 0#1 then some (true, execFcpys g (up.extractLsb' 11 5) (up.extractLsb' 6 5) (up.extractLsb' 1 5))
  else if lo = 5#5 ∧ up.extractLsb' 0 6 = 0#6 then some (true, execFclass g (up.extractLsb' 11 5) (up.extractLsb' 6 5))
  else if lo.extractLsb' 3 2 = 1#2 ∧ up.extractLsb' 0 6 = 0#6 then (RMode.ofCode (lo.extractLsb' 0 3).toNat).bind fun m => some (true, execFcvtFI g (up.extractLsb' 11 5) (up.extractLsb' 6 5) m)
  else if lo.extractLsb' 3 2 = 2#2 ∧ up.extractLsb' 0 6 = 0#6 then (RMode.ofCode (lo.extractLsb' 0 3).toNat).bind fun m => some (true, execFcvtFU g (up.extractLsb' 11 5) (up.extractLsb' 6 5) m)
  else if lo.extractLsb' 3 2 = 3#2 ∧ up.extractLsb' 0 6 = 0#6 then (RMode.ofCode (lo.extractLsb' 0 3).toNat).bind fun m => some (true, execFcvtUF g (up.extractLsb' 11 5) (up.extractLsb' 6 5) m)
  else none

def leafMaj18 (g : BitVec 3) (lo : BitVec 5) (up : BitVec 16) : Option Leaf :=
  if lo.extractLsb' 0 4 = 0#4 then some ((let n := (lo.extractLsb' 4 1); !(g == 0#3 && n == 1#1)), execBL g (up.extractLsb' 0 16) (lo.extractLsb' 4 1))
  else if lo.extractLsb' 0 4 = 1#4 then some ((let n := (lo.extractLsb' 4 1); !(g == 0#3 && n == 1#1)), execCallL g (up.extractLsb' 0 16) (lo.extractLsb' 4 1))
  else none

def leafMaj19 (g : BitVec 3) (lo : BitVec 5) (up : BitVec 16) : Option Leaf :=
  if lo.extractLsb' 0 4 = 0#4 ∧ up.extractLsb' 0 11 = 0#11 then some ((let n := (lo.extractLsb' 4 1); !(g == 0#3 && n == 1#1)), execJrL g (up.extractLsb' 11 5) (lo.extractLsb' 4 1))
  else if lo.extractLsb' 0 4 = 1#4 ∧ up.extractLsb' 0 11 = 0#11 then some ((let n := (lo.extractLsb' 4 1); !(g == 0#3 && n == 1#1)), execCallr g (up.extractLsb' 11 5) (lo.extractLsb' 4 1))
  else none

def leafMaj1A (g : BitVec 3) (lo : BitVec 5) (up : BitVec 16) : Option Leaf :=
  if lo = 0#5 ∧ g = 0#3 then some ((let l := (up.extractLsb' 0 9); l != 0#9), execLoop (up.extractLsb' 14 2) (up.extractLsb' 9 5) (up.extractLsb' 0 9))
  else if lo = 1#5 ∧ up.extractLsb' 0 14 = 0#14 ∧ g = 0#3 then some (true, execLexit (up.extractLsb' 14 2))
  else none

def leafMaj20 (g : BitVec 3) (lo : BitVec 5) (up : BitVec 16) : Option Leaf :=
  some (true, execLdB g (up.extractLsb' 12 4) (up.extractLsb' 0 12) lo)

def leafMaj21 (g : BitVec 3) (lo : BitVec 5) (up : BitVec 16) : Option Leaf :=
  some (true, execLdBu g (up.extractLsb' 12 4) (up.extractLsb' 0 12) lo)

def leafMaj22 (g : BitVec 3) (lo : BitVec 5) (up : BitVec 16) : Option Leaf :=
  some (true, execLdH g (up.extractLsb' 12 4) (up.extractLsb' 0 12) lo)

def leafMaj23 (g : BitVec 3) (lo : BitVec 5) (up : BitVec 16) : Option Leaf :=
  some (true, execLdHu g (up.extractLsb' 12 4) (up.extractLsb' 0 12) lo)

def leafMaj24 (g : BitVec 3) (lo : BitVec 5) (up : BitVec 16) : Option Leaf :=
  some (true, execLdW g (up.extractLsb' 12 4) (up.extractLsb' 0 12) lo)

def leafMaj25 (g : BitVec 3) (lo : BitVec 5) (up : BitVec 16) : Option Leaf :=
  some (true, execLdWu g (up.extractLsb' 12 4) (up.extractLsb' 0 12) lo)

def leafMaj26 (g : BitVec 3) (lo : BitVec 5) (up : BitVec 16) : Option Leaf :=
  some (true, execLdD g (up.extractLsb' 12 4) (up.extractLsb' 0 12) lo)

def leafMaj27 (g : BitVec 3) (lo : BitVec 5) (up : BitVec 16) : Option Leaf :=
  some (true, execLdxD g (up.extractLsb' 12 4) (up.extractLsb' 0 12) lo)

def leafMaj28 (g : BitVec 3) (lo : BitVec 5) (up : BitVec 16) : Option Leaf :=
  some (true, execStB g (up.extractLsb' 12 4) (up.extractLsb' 0 12) lo)

def leafMaj29 (g : BitVec 3) (lo : BitVec 5) (up : BitVec 16) : Option Leaf :=
  some (true, execStH g (up.extractLsb' 12 4) (up.extractLsb' 0 12) lo)

def leafMaj2A (g : BitVec 3) (lo : BitVec 5) (up : BitVec 16) : Option Leaf :=
  some (true, execStW g (up.extractLsb' 12 4) (up.extractLsb' 0 12) lo)

def leafMaj2B (g : BitVec 3) (lo : BitVec 5) (up : BitVec 16) : Option Leaf :=
  some (true, execStD g (up.extractLsb' 12 4) (up.extractLsb' 0 12) lo)

def leafMaj2C (g : BitVec 3) (lo : BitVec 5) (up : BitVec 16) : Option Leaf :=
  if lo.extractLsb' 1 4 = 0#4 then some (true, execPref g (up.extractLsb' 12 4) (up.extractLsb' 0 12) (lo.extractLsb' 0 1))
  else none

def leafMaj2D (g : BitVec 3) (lo : BitVec 5) (up : BitVec 16) : Option Leaf :=
  if lo.extractLsb' 1 4 = 0#4 ∧ up.extractLsb' 0 1 = 0#1 then some (true, execAtomAdd g (up.extractLsb' 11 5) (up.extractLsb' 6 5) (up.extractLsb' 1 5) (lo.extractLsb' 0 1))
  else if lo.extractLsb' 1 4 = 1#4 ∧ up.extractLsb' 0 1 = 0#1 then some (true, execAtomMin g (up.extractLsb' 11 5) (up.extractLsb' 6 5) (up.extractLsb' 1 5) (lo.extractLsb' 0 1))
  else if lo.extractLsb' 1 4 = 2#4 ∧ up.extractLsb' 0 1 = 0#1 then some (true, execAtomMax g (up.extractLsb' 11 5) (up.extractLsb' 6 5) (up.extractLsb' 1 5) (lo.extractLsb' 0 1))
  else if lo.extractLsb' 1 4 = 3#4 ∧ up.extractLsb' 0 1 = 0#1 then some (true, execAtomAnd g (up.extractLsb' 11 5) (up.extractLsb' 6 5) (up.extractLsb' 1 5) (lo.extractLsb' 0 1))
  else if lo.extractLsb' 1 4 = 4#4 ∧ up.extractLsb' 0 1 = 0#1 then some (true, execAtomOr g (up.extractLsb' 11 5) (up.extractLsb' 6 5) (up.extractLsb' 1 5) (lo.extractLsb' 0 1))
  else if lo.extractLsb' 1 4 = 5#4 ∧ up.extractLsb' 0 1 = 0#1 then some (true, execAtomXor g (up.extractLsb' 11 5) (up.extractLsb' 6 5) (up.extractLsb' 1 5) (lo.extractLsb' 0 1))
  else if lo.extractLsb' 1 4 = 6#4 ∧ up.extractLsb' 0 1 = 0#1 then some (true, execAtomXchg g (up.extractLsb' 11 5) (up.extractLsb' 6 5) (up.extractLsb' 1 5) (lo.extractLsb' 0 1))
  else if lo.extractLsb' 1 4 = 7#4 ∧ up.extractLsb' 0 1 = 0#1 then some (true, execAtomCas g (up.extractLsb' 11 5) (up.extractLsb' 6 5) (up.extractLsb' 1 5) (lo.extractLsb' 0 1))
  else if lo = 16#5 ∧ up.extractLsb' 0 1 = 0#1 then some (true, execAtomFaddF32 g (up.extractLsb' 11 5) (up.extractLsb' 6 5) (up.extractLsb' 1 5))
  else if lo = 17#5 ∧ up.extractLsb' 11 5 = 0#5 ∧ up.extractLsb' 0 1 = 0#1 then some (true, execRedAddW g (up.extractLsb' 6 5) (up.extractLsb' 1 5))
  else if lo = 18#5 ∧ up.extractLsb' 11 5 = 0#5 ∧ up.extractLsb' 0 1 = 0#1 then some (true, execRedAddD g (up.extractLsb' 6 5) (up.extractLsb' 1 5))
  else if lo = 19#5 ∧ up.extractLsb' 11 5 = 0#5 ∧ up.extractLsb' 0 1 = 0#1 then some (true, execRedMinW g (up.extractLsb' 6 5) (up.extractLsb' 1 5))
  else if lo = 20#5 ∧ up.extractLsb' 11 5 = 0#5 ∧ up.extractLsb' 0 1 = 0#1 then some (true, execRedMinD g (up.extractLsb' 6 5) (up.extractLsb' 1 5))
  else if lo = 21#5 ∧ up.extractLsb' 11 5 = 0#5 ∧ up.extractLsb' 0 1 = 0#1 then some (true, execRedMaxW g (up.extractLsb' 6 5) (up.extractLsb' 1 5))
  else if lo = 22#5 ∧ up.extractLsb' 11 5 = 0#5 ∧ up.extractLsb' 0 1 = 0#1 then some (true, execRedMaxD g (up.extractLsb' 6 5) (up.extractLsb' 1 5))
  else if lo = 23#5 ∧ up.extractLsb' 11 5 = 0#5 ∧ up.extractLsb' 0 1 = 0#1 then some (true, execRedAndW g (up.extractLsb' 6 5) (up.extractLsb' 1 5))
  else if lo = 24#5 ∧ up.extractLsb' 11 5 = 0#5 ∧ up.extractLsb' 0 1 = 0#1 then some (true, execRedAndD g (up.extractLsb' 6 5) (up.extractLsb' 1 5))
  else if lo = 25#5 ∧ up.extractLsb' 11 5 = 0#5 ∧ up.extractLsb' 0 1 = 0#1 then some (true, execRedOrW g (up.extractLsb' 6 5) (up.extractLsb' 1 5))
  else if lo = 26#5 ∧ up.extractLsb' 11 5 = 0#5 ∧ up.extractLsb' 0 1 = 0#1 then some (true, execRedOrD g (up.extractLsb' 6 5) (up.extractLsb' 1 5))
  else if lo = 27#5 ∧ up.extractLsb' 11 5 = 0#5 ∧ up.extractLsb' 0 1 = 0#1 then some (true, execRedXorW g (up.extractLsb' 6 5) (up.extractLsb' 1 5))
  else if lo = 28#5 ∧ up.extractLsb' 11 5 = 0#5 ∧ up.extractLsb' 0 1 = 0#1 then some (true, execRedXorD g (up.extractLsb' 6 5) (up.extractLsb' 1 5))
  else if lo = 29#5 ∧ up.extractLsb' 11 5 = 0#5 ∧ up.extractLsb' 0 1 = 0#1 then some (true, execRedAddF32 g (up.extractLsb' 6 5) (up.extractLsb' 1 5))
  else none

def leafMaj2E (g : BitVec 3) (lo : BitVec 5) (up : BitVec 16) : Option Leaf :=
  if lo.extractLsb' 1 4 = 0#4 ∧ up.extractLsb' 5 1 = 0#1 ∧ up.extractLsb' 0 1 = 0#1 then (Scope.ofCode (up.extractLsb' 1 3).toNat).bind fun s => some (true, execLda g (up.extractLsb' 11 5) (up.extractLsb' 6 5) (up.extractLsb' 4 1) s (lo.extractLsb' 0 1))
  else if lo.extractLsb' 1 4 = 1#4 ∧ up.extractLsb' 15 1 = 0#1 ∧ up.extractLsb' 0 1 = 0#1 then (Scope.ofCode (up.extractLsb' 11 3).toNat).bind fun s => some (true, execStl g (up.extractLsb' 14 1) s (up.extractLsb' 6 5) (up.extractLsb' 1 5) (lo.extractLsb' 0 1))
  else if lo.extractLsb' 2 3 = 1#3 ∧ up.extractLsb' 11 5 = 0#5 ∧ up.extractLsb' 0 1 = 0#1 then some (true, execStr g (up.extractLsb' 6 5) (up.extractLsb' 1 5) (lo.extractLsb' 0 2))
  else none

def leafMaj2F (g : BitVec 3) (lo : BitVec 5) (up : BitVec 16) : Option Leaf :=
  if lo = 0#5 ∧ up.extractLsb' 0 6 = 0#6 then some (true, execLdfe g (up.extractLsb' 11 5) (up.extractLsb' 6 5))
  else if lo = 1#5 ∧ up.extractLsb' 0 6 = 0#6 then some (true, execLdff g (up.extractLsb' 11 5) (up.extractLsb' 6 5))
  else if lo = 2#5 ∧ up.extractLsb' 11 5 = 0#5 ∧ up.extractLsb' 0 1 = 0#1 then some (true, execStfl g (up.extractLsb' 6 5) (up.extractLsb' 1 5))
  else if lo = 3#5 ∧ up.extractLsb' 11 5 = 0#5 ∧ up.extractLsb' 0 6 = 0#6 then some (true, execFeclr g (up.extractLsb' 6 5))
  else if lo = 4#5 ∧ up.extractLsb' 14 2 = 0#2 ∧ up.extractLsb' 0 6 = 0#6 then some (true, execLock g (up.extractLsb' 11 3) (up.extractLsb' 6 5))
  else if lo = 5#5 ∧ up.extractLsb' 11 5 = 0#5 ∧ up.extractLsb' 0 6 = 0#6 then some (true, execUnlock g (up.extractLsb' 6 5))
  else if lo = 6#5 ∧ up.extractLsb' 14 2 = 0#2 ∧ up.extractLsb' 0 6 = 0#6 then some (true, execPinL g (up.extractLsb' 11 3) (up.extractLsb' 6 5))
  else if lo = 7#5 ∧ up.extractLsb' 11 5 = 0#5 ∧ up.extractLsb' 0 6 = 0#6 then some (true, execUnpinL g (up.extractLsb' 6 5))
  else if lo = 8#5 ∧ up.extractLsb' 14 2 = 0#2 ∧ up.extractLsb' 0 6 = 0#6 then some (true, execPlockL g (up.extractLsb' 11 3) (up.extractLsb' 6 5))
  else if lo = 9#5 ∧ up.extractLsb' 11 5 = 0#5 ∧ up.extractLsb' 0 6 = 0#6 then some (true, execPunlockL g (up.extractLsb' 6 5))
  else none

def leafMaj30 (g : BitVec 3) (lo : BitVec 5) (up : BitVec 16) : Option Leaf :=
  if lo = 0#5 ∧ up.extractLsb' 12 4 = 0#4 then (Scope.ofCode (up.extractLsb' 0 3).toNat).bind fun s => some ((let r := (up.extractLsb' 11 1); let m := (up.extractLsb' 3 8); r == 1#1 || m == 0#8), execFenceAcq g (up.extractLsb' 11 1) (up.extractLsb' 3 8) s)
  else if lo = 0#5 ∧ up.extractLsb' 12 4 = 1#4 then (Scope.ofCode (up.extractLsb' 0 3).toNat).bind fun s => some ((let r := (up.extractLsb' 11 1); let m := (up.extractLsb' 3 8); r == 1#1 || m == 0#8), execFenceRel g (up.extractLsb' 11 1) (up.extractLsb' 3 8) s)
  else if lo = 0#5 ∧ up.extractLsb' 12 4 = 2#4 then (Scope.ofCode (up.extractLsb' 0 3).toNat).bind fun s => some ((let r := (up.extractLsb' 11 1); let m := (up.extractLsb' 3 8); r == 1#1 || m == 0#8), execFenceAr g (up.extractLsb' 11 1) (up.extractLsb' 3 8) s)
  else none

def leafMaj31 (g : BitVec 3) (lo : BitVec 5) (up : BitVec 16) : Option Leaf :=
  if lo = 0#5 ∧ up.extractLsb' 11 5 = 0#5 ∧ up.extractLsb' 2 4 = 0#4 then some (true, execMonArm g (up.extractLsb' 6 5) (up.extractLsb' 0 2))
  else if lo = 1#5 ∧ up.extractLsb' 2 14 = 0#14 then some (true, execMonDisarm g (up.extractLsb' 0 2))
  else if lo = 2#5 ∧ up.extractLsb' 0 6 = 0#6 then some (true, execMonWait g (up.extractLsb' 11 5) (up.extractLsb' 6 5))
  else none

def leafMaj38 (g : BitVec 3) (lo : BitVec 5) (up : BitVec 16) : Option Leaf :=
  if lo = 0#5 ∧ up.extractLsb' 14 2 = 0#2 ∧ up.extractLsb' 1 5 = 0#5 then some (true, execTaskSpawn g (up.extractLsb' 11 3) (up.extractLsb' 6 5) (up.extractLsb' 0 1))
  else if lo = 1#5 ∧ up = 0#16 then some (true, execTaskNext g)
  else if lo = 2#5 ∧ up = 0#16 then some (true, execTaskDone g)
  else if lo = 3#5 ∧ up.extractLsb' 11 5 = 0#5 ∧ up.extractLsb' 0 6 = 0#6 then some (true, execTaskYield g (up.extractLsb' 6 5))
  else if lo = 4#5 ∧ up.extractLsb' 0 6 = 0#6 then some (true, execCancel g (up.extractLsb' 11 5) (up.extractLsb' 6 5))
  else if lo = 5#5 ∧ up.extractLsb' 3 8 = 0#8 then some ((let k := (up.extractLsb' 0 3); BitVec.ule k 6#3), execTaskInfo g (up.extractLsb' 11 5) (up.extractLsb' 0 3))
  else none

def leafMaj39 (g : BitVec 3) (lo : BitVec 5) (up : BitVec 16) : Option Leaf :=
  if lo = 0#5 ∧ up.extractLsb' 14 2 = 0#2 ∧ up.extractLsb' 1 5 = 0#5 then some (true, execGjoin g (up.extractLsb' 11 3) (up.extractLsb' 6 5) (up.extractLsb' 0 1))
  else if lo = 1#5 ∧ up.extractLsb' 11 5 = 0#5 ∧ up.extractLsb' 0 6 = 0#6 then some (true, execGleave g (up.extractLsb' 6 5))
  else if lo = 2#5 ∧ up.extractLsb' 14 2 = 0#2 ∧ up.extractLsb' 0 6 = 0#6 then some (true, execBar g (up.extractLsb' 11 3) (up.extractLsb' 6 5))
  else if lo = 3#5 ∧ up.extractLsb' 0 6 = 0#6 then some (true, execBarArr g (up.extractLsb' 11 5) (up.extractLsb' 6 5))
  else if lo = 4#5 ∧ up.extractLsb' 14 2 = 0#2 ∧ up.extractLsb' 0 6 = 0#6 then some (true, execBarWait g (up.extractLsb' 11 3) (up.extractLsb' 6 5))
  else none

def leafMaj40 (g : BitVec 3) (lo : BitVec 5) (up : BitVec 16) : Option Leaf :=
  if lo = 0#5 ∧ up.extractLsb' 3 1 = 0#1 then (RMode.ofCode (up.extractLsb' 0 3).toNat).bind fun m => some (true, execVaddF g (up.extractLsb' 12 4) (up.extractLsb' 8 4) (up.extractLsb' 4 4) m)
  else if lo = 1#5 ∧ up.extractLsb' 3 1 = 0#1 then (RMode.ofCode (up.extractLsb' 0 3).toNat).bind fun m => some (true, execVsubF g (up.extractLsb' 12 4) (up.extractLsb' 8 4) (up.extractLsb' 4 4) m)
  else if lo = 2#5 ∧ up.extractLsb' 3 1 = 0#1 then (RMode.ofCode (up.extractLsb' 0 3).toNat).bind fun m => some (true, execVmulF g (up.extractLsb' 12 4) (up.extractLsb' 8 4) (up.extractLsb' 4 4) m)
  else if lo = 3#5 ∧ up.extractLsb' 3 1 = 0#1 then (RMode.ofCode (up.extractLsb' 0 3).toNat).bind fun m => some (true, execVdivF g (up.extractLsb' 12 4) (up.extractLsb' 8 4) (up.extractLsb' 4 4) m)
  else if lo = 4#5 ∧ up.extractLsb' 0 4 = 0#4 then some (true, execVminF g (up.extractLsb' 12 4) (up.extractLsb' 8 4) (up.extractLsb' 4 4))
  else if lo = 5#5 ∧ up.extractLsb' 0 4 = 0#4 then some (true, execVmaxF g (up.extractLsb' 12 4) (up.extractLsb' 8 4) (up.extractLsb' 4 4))
  else if lo = 6#5 ∧ up.extractLsb' 3 1 = 0#1 then (RMode.ofCode (up.extractLsb' 0 3).toNat).bind fun m => some (true, execVfmaF g (up.extractLsb' 12 4) (up.extractLsb' 8 4) (up.extractLsb' 4 4) m)
  else if lo = 7#5 ∧ up.extractLsb' 3 1 = 0#1 then (RMode.ofCode (up.extractLsb' 0 3).toNat).bind fun m => some (true, execVfmsF g (up.extractLsb' 12 4) (up.extractLsb' 8 4) (up.extractLsb' 4 4) m)
  else none

def leafMaj41 (g : BitVec 3) (lo : BitVec 5) (up : BitVec 16) : Option Leaf :=
  if lo = 0#5 ∧ up.extractLsb' 3 5 = 0#5 then (RMode.ofCode (up.extractLsb' 0 3).toNat).bind fun m => some (true, execVsqrt g (up.extractLsb' 12 4) (up.extractLsb' 8 4) m)
  else if lo = 1#5 ∧ up.extractLsb' 3 5 = 0#5 then (RMode.ofCode (up.extractLsb' 0 3).toNat).bind fun m => some (true, execVrcp g (up.extractLsb' 12 4) (up.extractLsb' 8 4) m)
  else if lo = 2#5 ∧ up.extractLsb' 3 5 = 0#5 then (RMode.ofCode (up.extractLsb' 0 3).toNat).bind fun m => some (true, execVrsq g (up.extractLsb' 12 4) (up.extractLsb' 8 4) m)
  else if lo = 3#5 ∧ up.extractLsb' 3 5 = 0#5 then (RMode.ofCode (up.extractLsb' 0 3).toNat).bind fun m => some (true, execVexp2 g (up.extractLsb' 12 4) (up.extractLsb' 8 4) m)
  else if lo = 4#5 ∧ up.extractLsb' 3 5 = 0#5 then (RMode.ofCode (up.extractLsb' 0 3).toNat).bind fun m => some (true, execVlog2 g (up.extractLsb' 12 4) (up.extractLsb' 8 4) m)
  else if lo = 5#5 ∧ up.extractLsb' 0 8 = 0#8 then some (true, execVnegF g (up.extractLsb' 12 4) (up.extractLsb' 8 4))
  else if lo = 6#5 ∧ up.extractLsb' 0 8 = 0#8 then some (true, execVabsF g (up.extractLsb' 12 4) (up.extractLsb' 8 4))
  else if lo = 7#5 ∧ up.extractLsb' 0 4 = 0#4 then some (true, execVcpysF g (up.extractLsb' 12 4) (up.extractLsb' 8 4) (up.extractLsb' 4 4))
  else if lo = 8#5 ∧ up.extractLsb' 0 8 = 0#8 then some (true, execVclassF g (up.extractLsb' 12 4) (up.extractLsb' 8 4))
  else if lo = 9#5 ∧ up.extractLsb' 3 5 = 0#5 then (RMode.ofCode (up.extractLsb' 0 3).toNat).bind fun m => some (true, execVrndF g (up.extractLsb' 12 4) (up.extractLsb' 8 4) m)
  else none

def leafMaj42 (g : BitVec 3) (lo : BitVec 5) (up : BitVec 16) : Option Leaf :=
  if lo = 0#5 ∧ up.extractLsb' 0 4 = 0#4 then some (true, execVaddI g (up.extractLsb' 12 4) (up.extractLsb' 8 4) (up.extractLsb' 4 4))
  else if lo = 1#5 ∧ up.extractLsb' 0 4 = 0#4 then some (true, execVsubI g (up.extractLsb' 12 4) (up.extractLsb' 8 4) (up.extractLsb' 4 4))
  else if lo = 2#5 ∧ up.extractLsb' 0 4 = 0#4 then some (true, execVmulI g (up.extractLsb' 12 4) (up.extractLsb' 8 4) (up.extractLsb' 4 4))
  else if lo = 3#5 ∧ up.extractLsb' 0 4 = 0#4 then some (true, execVmulhI g (up.extractLsb' 12 4) (up.extractLsb' 8 4) (up.extractLsb' 4 4))
  else if lo = 4#5 ∧ up.extractLsb' 0 4 = 0#4 then some (true, execVmulhU g (up.extractLsb' 12 4) (up.extractLsb' 8 4) (up.extractLsb' 4 4))
  else if lo = 5#5 ∧ up.extractLsb' 0 4 = 0#4 then some (true, execVminI g (up.extractLsb' 12 4) (up.extractLsb' 8 4) (up.extractLsb' 4 4))
  else if lo = 6#5 ∧ up.extractLsb' 0 4 = 0#4 then some (true, execVminU g (up.extractLsb' 12 4) (up.extractLsb' 8 4) (up.extractLsb' 4 4))
  else if lo = 7#5 ∧ up.extractLsb' 0 4 = 0#4 then some (true, execVmaxI g (up.extractLsb' 12 4) (up.extractLsb' 8 4) (up.extractLsb' 4 4))
  else if lo = 8#5 ∧ up.extractLsb' 0 4 = 0#4 then some (true, execVmaxU g (up.extractLsb' 12 4) (up.extractLsb' 8 4) (up.extractLsb' 4 4))
  else if lo = 9#5 ∧ up.extractLsb' 0 4 = 0#4 then some (true, execVaddsI g (up.extractLsb' 12 4) (up.extractLsb' 8 4) (up.extractLsb' 4 4))
  else if lo = 10#5 ∧ up.extractLsb' 0 4 = 0#4 then some (true, execVsubsI g (up.extractLsb' 12 4) (up.extractLsb' 8 4) (up.extractLsb' 4 4))
  else if lo = 11#5 ∧ up.extractLsb' 0 4 = 0#4 then some (true, execVaddsU g (up.extractLsb' 12 4) (up.extractLsb' 8 4) (up.extractLsb' 4 4))
  else if lo = 12#5 ∧ up.extractLsb' 0 4 = 0#4 then some (true, execVsubsU g (up.extractLsb' 12 4) (up.extractLsb' 8 4) (up.extractLsb' 4 4))
  else if lo = 13#5 ∧ up.extractLsb' 0 8 = 0#8 then some (true, execVabsI g (up.extractLsb' 12 4) (up.extractLsb' 8 4))
  else if lo = 14#5 ∧ up.extractLsb' 0 8 = 0#8 then some (true, execVnegI g (up.extractLsb' 12 4) (up.extractLsb' 8 4))
  else if lo = 15#5 ∧ up.extractLsb' 0 4 = 0#4 then some (true, execVmaddI g (up.extractLsb' 12 4) (up.extractLsb' 8 4) (up.extractLsb' 4 4))
  else none

def leafMaj43 (g : BitVec 3) (lo : BitVec 5) (up : BitVec 16) : Option Leaf :=
  if lo = 0#5 ∧ up.extractLsb' 0 4 = 0#4 then some (true, execVand g (up.extractLsb' 12 4) (up.extractLsb' 8 4) (up.extractLsb' 4 4))
  else if lo = 1#5 ∧ up.extractLsb' 0 4 = 0#4 then some (true, execVor g (up.extractLsb' 12 4) (up.extractLsb' 8 4) (up.extractLsb' 4 4))
  else if lo = 2#5 ∧ up.extractLsb' 0 4 = 0#4 then some (true, execVxor g (up.extractLsb' 12 4) (up.extractLsb' 8 4) (up.extractLsb' 4 4))
  else if lo = 3#5 ∧ up.extractLsb' 0 4 = 0#4 then some (true, execVandn g (up.extractLsb' 12 4) (up.extractLsb' 8 4) (up.extractLsb' 4 4))
  else if lo = 4#5 ∧ up.extractLsb' 0 8 = 0#8 then some (true, execVnot g (up.extractLsb' 12 4) (up.extractLsb' 8 4))
  else if lo = 5#5 ∧ up.extractLsb' 0 4 = 0#4 then some (true, execVshl g (up.extractLsb' 12 4) (up.extractLsb' 8 4) (up.extractLsb' 4 4))
  else if lo = 6#5 ∧ up.extractLsb' 0 4 = 0#4 then some (true, execVshr g (up.extractLsb' 12 4) (up.extractLsb' 8 4) (up.extractLsb' 4 4))
  else if lo = 7#5 ∧ up.extractLsb' 0 4 = 0#4 then some (true, execVsra g (up.extractLsb' 12 4) (up.extractLsb' 8 4) (up.extractLsb' 4 4))
  else if lo = 8#5 ∧ up.extractLsb' 5 3 = 0#3 then some (true, execVshli g (up.extractLsb' 12 4) (up.extractLsb' 8 4) (up.extractLsb' 0 5))
  else if lo = 9#5 ∧ up.extractLsb' 5 3 = 0#3 then some (true, execVshri g (up.extractLsb' 12 4) (up.extractLsb' 8 4) (up.extractLsb' 0 5))
  else if lo = 10#5 ∧ up.extractLsb' 5 3 = 0#3 then some (true, execVsrai g (up.extractLsb' 12 4) (up.extractLsb' 8 4) (up.extractLsb' 0 5))
  else if lo = 11#5 ∧ up.extractLsb' 0 8 = 0#8 then some (true, execVpopc g (up.extractLsb' 12 4) (up.extractLsb' 8 4))
  else if lo = 12#5 ∧ up.extractLsb' 0 8 = 0#8 then some (true, execVclz g (up.extractLsb' 12 4) (up.extractLsb' 8 4))
  else none

def leafMaj44 (g : BitVec 3) (lo : BitVec 5) (up : BitVec 16) : Option Leaf :=
  if lo = 0#5 ∧ up.extractLsb' 0 4 = 0#4 then some (true, execVfcmpEq g (up.extractLsb' 12 4) (up.extractLsb' 8 4) (up.extractLsb' 4 4))
  else if lo = 1#5 ∧ up.extractLsb' 0 4 = 0#4 then some (true, execVfcmpLt g (up.extractLsb' 12 4) (up.extractLsb' 8 4) (up.extractLsb' 4 4))
  else if lo = 2#5 ∧ up.extractLsb' 0 4 = 0#4 then some (true, execVfcmpLe g (up.extractLsb' 12 4) (up.extractLsb' 8 4) (up.extractLsb' 4 4))
  else if lo = 3#5 ∧ up.extractLsb' 0 4 = 0#4 then some (true, execVfcmpUn g (up.extractLsb' 12 4) (up.extractLsb' 8 4) (up.extractLsb' 4 4))
  else if lo = 4#5 ∧ up.extractLsb' 0 4 = 0#4 then some (true, execVfcmpNe g (up.extractLsb' 12 4) (up.extractLsb' 8 4) (up.extractLsb' 4 4))
  else if lo = 5#5 ∧ up.extractLsb' 0 4 = 0#4 then some (true, execVcmpEq g (up.extractLsb' 12 4) (up.extractLsb' 8 4) (up.extractLsb' 4 4))
  else if lo = 6#5 ∧ up.extractLsb' 0 4 = 0#4 then some (true, execVcmpNe g (up.extractLsb' 12 4) (up.extractLsb' 8 4) (up.extractLsb' 4 4))
  else if lo = 7#5 ∧ up.extractLsb' 0 4 = 0#4 then some (true, execVcmpLt g (up.extractLsb' 12 4) (up.extractLsb' 8 4) (up.extractLsb' 4 4))
  else if lo = 8#5 ∧ up.extractLsb' 0 4 = 0#4 then some (true, execVcmpLe g (up.extractLsb' 12 4) (up.extractLsb' 8 4) (up.extractLsb' 4 4))
  else if lo = 9#5 ∧ up.extractLsb' 0 4 = 0#4 then some (true, execVcmpLtu g (up.extractLsb' 12 4) (up.extractLsb' 8 4) (up.extractLsb' 4 4))
  else if lo = 10#5 ∧ up.extractLsb' 0 4 = 0#4 then some (true, execVcmpLeu g (up.extractLsb' 12 4) (up.extractLsb' 8 4) (up.extractLsb' 4 4))
  else none

def leafMaj45 (g : BitVec 3) (lo : BitVec 5) (up : BitVec 16) : Option Leaf :=
  if lo = 0#5 then some (true, execVsel g (up.extractLsb' 12 4) (up.extractLsb' 8 4) (up.extractLsb' 4 4) (up.extractLsb' 0 4))
  else if lo = 1#5 ∧ up.extractLsb' 15 1 = 0#1 ∧ up.extractLsb' 0 8 = 0#8 then some (true, execVany g (up.extractLsb' 12 3) (up.extractLsb' 8 4))
  else if lo = 2#5 ∧ up.extractLsb' 15 1 = 0#1 ∧ up.extractLsb' 0 8 = 0#8 then some (true, execVall g (up.extractLsb' 12 3) (up.extractLsb' 8 4))
  else none

def leafMaj46 (g : BitVec 3) (lo : BitVec 5) (up : BitVec 16) : Option Leaf :=
  if lo = 0#5 ∧ up.extractLsb' 3 5 = 0#5 then (RMode.ofCode (up.extractLsb' 0 3).toNat).bind fun m => some (true, execVcvtFI g (up.extractLsb' 12 4) (up.extractLsb' 8 4) m)
  else if lo = 1#5 ∧ up.extractLsb' 3 5 = 0#5 then (RMode.ofCode (up.extractLsb' 0 3).toNat).bind fun m => some (true, execVcvtFU g (up.extractLsb' 12 4) (up.extractLsb' 8 4) m)
  else if lo = 2#5 ∧ up.extractLsb' 3 5 = 0#5 then (RMode.ofCode (up.extractLsb' 0 3).toNat).bind fun m => some (true, execVcvtIF g (up.extractLsb' 12 4) (up.extractLsb' 8 4) m)
  else if lo = 3#5 ∧ up.extractLsb' 3 5 = 0#5 then (RMode.ofCode (up.extractLsb' 0 3).toNat).bind fun m => some (true, execVcvtUF g (up.extractLsb' 12 4) (up.extractLsb' 8 4) m)
  else if lo = 4#5 ∧ up.extractLsb' 3 1 = 0#1 then (RMode.ofCode (up.extractLsb' 0 3).toNat).bind fun m => some (true, execVpackF16 g (up.extractLsb' 12 4) (up.extractLsb' 8 4) (up.extractLsb' 4 4) m)
  else if lo = 5#5 ∧ up.extractLsb' 3 1 = 0#1 then (RMode.ofCode (up.extractLsb' 0 3).toNat).bind fun m => some (true, execVpackBf16 g (up.extractLsb' 12 4) (up.extractLsb' 8 4) (up.extractLsb' 4 4) m)
  else if lo = 6#5 ∧ up.extractLsb' 3 1 = 0#1 then (RMode.ofCode (up.extractLsb' 0 3).toNat).bind fun m => some (true, execVpackE4m3Lo g (up.extractLsb' 12 4) (up.extractLsb' 8 4) (up.extractLsb' 4 4) m)
  else if lo = 7#5 ∧ up.extractLsb' 3 1 = 0#1 then (RMode.ofCode (up.extractLsb' 0 3).toNat).bind fun m => some (true, execVpackE4m3Hi g (up.extractLsb' 12 4) (up.extractLsb' 8 4) (up.extractLsb' 4 4) m)
  else if lo = 8#5 ∧ up.extractLsb' 3 1 = 0#1 then (RMode.ofCode (up.extractLsb' 0 3).toNat).bind fun m => some (true, execVpackE5m2Lo g (up.extractLsb' 12 4) (up.extractLsb' 8 4) (up.extractLsb' 4 4) m)
  else if lo = 9#5 ∧ up.extractLsb' 3 1 = 0#1 then (RMode.ofCode (up.extractLsb' 0 3).toNat).bind fun m => some (true, execVpackE5m2Hi g (up.extractLsb' 12 4) (up.extractLsb' 8 4) (up.extractLsb' 4 4) m)
  else if lo = 10#5 ∧ up.extractLsb' 0 4 = 0#4 then some (true, execVpackI16 g (up.extractLsb' 12 4) (up.extractLsb' 8 4) (up.extractLsb' 4 4))
  else if lo = 11#5 ∧ up.extractLsb' 0 4 = 0#4 then some (true, execVpackI8Lo g (up.extractLsb' 12 4) (up.extractLsb' 8 4) (up.extractLsb' 4 4))
  else if lo = 12#5 ∧ up.extractLsb' 0 4 = 0#4 then some (true, execVpackI8Hi g (up.extractLsb' 12 4) (up.extractLsb' 8 4) (up.extractLsb' 4 4))
  else if lo = 13#5 ∧ up.extractLsb' 1 7 = 0#7 then some (true, execVunpkF16 g (up.extractLsb' 12 4) (up.extractLsb' 8 4) (up.extractLsb' 0 1))
  else if lo = 14#5 ∧ up.extractLsb' 1 7 = 0#7 then some (true, execVunpkBf16 g (up.extractLsb' 12 4) (up.extractLsb' 8 4) (up.extractLsb' 0 1))
  else if lo = 15#5 ∧ up.extractLsb' 2 6 = 0#6 then some (true, execVunpkE4m3 g (up.extractLsb' 12 4) (up.extractLsb' 8 4) (up.extractLsb' 0 2))
  else if lo = 16#5 ∧ up.extractLsb' 2 6 = 0#6 then some (true, execVunpkE5m2 g (up.extractLsb' 12 4) (up.extractLsb' 8 4) (up.extractLsb' 0 2))
  else if lo = 17#5 ∧ up.extractLsb' 6 2 = 0#2 ∧ up.extractLsb' 2 2 = 0#2 then some (true, execVunpkTc8 g (up.extractLsb' 12 4) (up.extractLsb' 8 4) (up.extractLsb' 4 2) (up.extractLsb' 0 2))
  else if lo = 18#5 ∧ up.extractLsb' 1 7 = 0#7 then some (true, execVunpkI16 g (up.extractLsb' 12 4) (up.extractLsb' 8 4) (up.extractLsb' 0 1))
  else if lo = 19#5 ∧ up.extractLsb' 2 6 = 0#6 then some (true, execVunpkI8 g (up.extractLsb' 12 4) (up.extractLsb' 8 4) (up.extractLsb' 0 2))
  else none

def leafMaj47 (g : BitVec 3) (lo : BitVec 5) (up : BitVec 16) : Option Leaf :=
  if lo = 0#5 ∧ up.extractLsb' 3 5 = 0#5 then (RMode.ofCode (up.extractLsb' 0 3).toNat).bind fun m => some (true, execVredAddF g (up.extractLsb' 12 4) (up.extractLsb' 8 4) m)
  else if lo = 1#5 ∧ up.extractLsb' 0 8 = 0#8 then some (true, execVredMinF g (up.extractLsb' 12 4) (up.extractLsb' 8 4))
  else if lo = 2#5 ∧ up.extractLsb' 0 8 = 0#8 then some (true, execVredMaxF g (up.extractLsb' 12 4) (up.extractLsb' 8 4))
  else if lo = 3#5 ∧ up.extractLsb' 0 8 = 0#8 then some (true, execVredAddI g (up.extractLsb' 12 4) (up.extractLsb' 8 4))
  else if lo = 4#5 ∧ up.extractLsb' 0 8 = 0#8 then some (true, execVredMinI g (up.extractLsb' 12 4) (up.extractLsb' 8 4))
  else if lo = 5#5 ∧ up.extractLsb' 0 8 = 0#8 then some (true, execVredMaxI g (up.extractLsb' 12 4) (up.extractLsb' 8 4))
  else if lo = 6#5 ∧ up.extractLsb' 0 8 = 0#8 then some (true, execVredMinU g (up.extractLsb' 12 4) (up.extractLsb' 8 4))
  else if lo = 7#5 ∧ up.extractLsb' 0 8 = 0#8 then some (true, execVredMaxU g (up.extractLsb' 12 4) (up.extractLsb' 8 4))
  else if lo = 8#5 ∧ up.extractLsb' 3 5 = 0#5 then (RMode.ofCode (up.extractLsb' 0 3).toNat).bind fun m => some (true, execVscanAddF g (up.extractLsb' 12 4) (up.extractLsb' 8 4) m)
  else if lo = 9#5 ∧ up.extractLsb' 0 8 = 0#8 then some (true, execVscanAddI g (up.extractLsb' 12 4) (up.extractLsb' 8 4))
  else none

def leafMaj48 (g : BitVec 3) (lo : BitVec 5) (up : BitVec 16) : Option Leaf :=
  if lo = 0#5 ∧ up.extractLsb' 0 8 = 0#8 then some (true, execVmov g (up.extractLsb' 12 4) (up.extractLsb' 8 4))
  else if lo = 1#5 ∧ up.extractLsb' 0 12 = 0#12 then some (true, execViota g (up.extractLsb' 12 4))
  else none

def leafMaj50 (g : BitVec 3) (lo : BitVec 5) (up : BitVec 16) : Option Leaf :=
  if lo = 0#5 ∧ up.extractLsb' 8 4 = 0#4 ∧ up.extractLsb' 0 3 = 0#3 then some (true, execVld g (up.extractLsb' 12 4) (up.extractLsb' 3 5))
  else if lo = 1#5 ∧ up.extractLsb' 8 4 = 0#4 ∧ up.extractLsb' 0 3 = 0#3 then some (true, execVldL g (up.extractLsb' 12 4) (up.extractLsb' 3 5))
  else if lo = 2#5 ∧ up.extractLsb' 8 4 = 0#4 ∧ up.extractLsb' 0 3 = 0#3 then some (true, execVldx g (up.extractLsb' 12 4) (up.extractLsb' 3 5))
  else if lo = 3#5 ∧ up.extractLsb' 8 4 = 0#4 then some (true, execVlds g (up.extractLsb' 12 4) (up.extractLsb' 3 5) (up.extractLsb' 0 3))
  else if lo = 4#5 ∧ up.extractLsb' 8 4 = 0#4 then some (true, execVldsL g (up.extractLsb' 12 4) (up.extractLsb' 3 5) (up.extractLsb' 0 3))
  else if lo = 5#5 ∧ up.extractLsb' 0 3 = 0#3 then some (true, execVgth g (up.extractLsb' 12 4) (up.extractLsb' 8 4) (up.extractLsb' 3 5))
  else if lo = 6#5 ∧ up.extractLsb' 0 3 = 0#3 then some (true, execVgthL g (up.extractLsb' 12 4) (up.extractLsb' 8 4) (up.extractLsb' 3 5))
  else none

def leafMaj51 (g : BitVec 3) (lo : BitVec 5) (up : BitVec 16) : Option Leaf :=
  if lo = 0#5 ∧ up.extractLsb' 12 4 = 0#4 ∧ up.extractLsb' 0 3 = 0#3 then some (true, execVst g (up.extractLsb' 8 4) (up.extractLsb' 3 5))
  else if lo = 1#5 ∧ up.extractLsb' 12 4 = 0#4 ∧ up.extractLsb' 0 3 = 0#3 then some (true, execVstL g (up.extractLsb' 8 4) (up.extractLsb' 3 5))
  else if lo = 2#5 ∧ up.extractLsb' 12 4 = 0#4 then some (true, execVsts g (up.extractLsb' 8 4) (up.extractLsb' 3 5) (up.extractLsb' 0 3))
  else if lo = 3#5 ∧ up.extractLsb' 12 4 = 0#4 then some (true, execVstsL g (up.extractLsb' 8 4) (up.extractLsb' 3 5) (up.extractLsb' 0 3))
  else if lo = 4#5 ∧ up.extractLsb' 0 3 = 0#3 then some (true, execVsct g (up.extractLsb' 12 4) (up.extractLsb' 8 4) (up.extractLsb' 3 5))
  else if lo = 5#5 ∧ up.extractLsb' 0 3 = 0#3 then some (true, execVsctL g (up.extractLsb' 12 4) (up.extractLsb' 8 4) (up.extractLsb' 3 5))
  else if lo = 6#5 ∧ up.extractLsb' 0 3 = 0#3 then some (true, execVstm g (up.extractLsb' 12 4) (up.extractLsb' 8 4) (up.extractLsb' 3 5))
  else if lo = 7#5 ∧ up.extractLsb' 0 3 = 0#3 then some (true, execVstmL g (up.extractLsb' 12 4) (up.extractLsb' 8 4) (up.extractLsb' 3 5))
  else none

def leafMaj52 (g : BitVec 3) (lo : BitVec 5) (up : BitVec 16) : Option Leaf :=
  if lo = 0#5 ∧ up.extractLsb' 0 4 = 0#4 then some (true, execVperm g (up.extractLsb' 12 4) (up.extractLsb' 8 4) (up.extractLsb' 4 4))
  else if lo = 1#5 ∧ up.extractLsb' 6 2 = 0#2 then some (true, execVrot g (up.extractLsb' 12 4) (up.extractLsb' 8 4) (up.extractLsb' 0 6))
  else if lo = 2#5 ∧ up.extractLsb' 6 2 = 0#2 then some (true, execVbcst g (up.extractLsb' 12 4) (up.extractLsb' 8 4) (up.extractLsb' 0 6))
  else if lo = 3#5 ∧ up.extractLsb' 0 4 = 0#4 then some (true, execVzipLo g (up.extractLsb' 12 4) (up.extractLsb' 8 4) (up.extractLsb' 4 4))
  else if lo = 4#5 ∧ up.extractLsb' 0 4 = 0#4 then some (true, execVzipHi g (up.extractLsb' 12 4) (up.extractLsb' 8 4) (up.extractLsb' 4 4))
  else if lo = 5#5 ∧ up.extractLsb' 0 4 = 0#4 then some (true, execVuzpEv g (up.extractLsb' 12 4) (up.extractLsb' 8 4) (up.extractLsb' 4 4))
  else if lo = 6#5 ∧ up.extractLsb' 0 4 = 0#4 then some (true, execVuzpOd g (up.extractLsb' 12 4) (up.extractLsb' 8 4) (up.extractLsb' 4 4))
  else none

def leafMaj53 (g : BitVec 3) (lo : BitVec 5) (up : BitVec 16) : Option Leaf :=
  if lo = 0#5 ∧ up.extractLsb' 7 1 = 0#1 ∧ up.extractLsb' 0 4 = 0#4 then some (true, execVrng g (up.extractLsb' 12 4) (up.extractLsb' 8 4) (up.extractLsb' 4 3))
  else if lo = 1#5 ∧ up.extractLsb' 7 1 = 0#1 ∧ up.extractLsb' 0 4 = 0#4 then some (true, execVrngU g (up.extractLsb' 12 4) (up.extractLsb' 8 4) (up.extractLsb' 4 3))
  else none

def leafMaj54 (g : BitVec 3) (lo : BitVec 5) (up : BitVec 16) : Option Leaf :=
  if lo = 0#5 ∧ up.extractLsb' 4 4 = 0#4 then some (true, execVfromt g (up.extractLsb' 12 4) (up.extractLsb' 8 4) (up.extractLsb' 0 4))
  else if lo = 1#5 ∧ up.extractLsb' 4 4 = 0#4 then some (true, execVtot g (up.extractLsb' 12 4) (up.extractLsb' 8 4) (up.extractLsb' 0 4))
  else if lo = 2#5 ∧ up.extractLsb' 0 1 = 0#1 then some (true, execVext g (up.extractLsb' 11 5) (up.extractLsb' 7 4) (up.extractLsb' 1 6))
  else if lo = 3#5 ∧ up.extractLsb' 0 1 = 0#1 then some (true, execVins g (up.extractLsb' 12 4) (up.extractLsb' 7 5) (up.extractLsb' 1 6))
  else if lo = 4#5 ∧ up.extractLsb' 0 7 = 0#7 then some (true, execVbcs g (up.extractLsb' 12 4) (up.extractLsb' 7 5))
  else none

def leafMaj58 (g : BitVec 3) (lo : BitVec 5) (up : BitVec 16) : Option Leaf :=
  if lo = 0#5 ∧ up.extractLsb' 0 3 = 0#3 then some (true, execTld g (up.extractLsb' 12 4) (up.extractLsb' 8 4) (up.extractLsb' 3 5))
  else if lo = 1#5 ∧ up.extractLsb' 0 3 = 0#3 then some (true, execTldT g (up.extractLsb' 12 4) (up.extractLsb' 8 4) (up.extractLsb' 3 5))
  else if lo = 2#5 ∧ up.extractLsb' 0 3 = 0#3 then some (true, execTldP6 g (up.extractLsb' 12 4) (up.extractLsb' 8 4) (up.extractLsb' 3 5))
  else none

def leafMaj59 (g : BitVec 3) (lo : BitVec 5) (up : BitVec 16) : Option Leaf :=
  if lo = 0#5 ∧ up.extractLsb' 0 3 = 0#3 then some (true, execTst g (up.extractLsb' 12 4) (up.extractLsb' 8 4) (up.extractLsb' 3 5))
  else none

def leafMaj5C (g : BitVec 3) (lo : BitVec 5) (up : BitVec 16) : Option Leaf :=
  if lo = 0#5 ∧ up.extractLsb' 0 8 = 0#8 then some (true, execTmov g (up.extractLsb' 12 4) (up.extractLsb' 8 4))
  else if lo = 1#5 ∧ up.extractLsb' 0 12 = 0#12 then some (true, execTzero g (up.extractLsb' 12 4))
  else none

def leafMaj5D (g : BitVec 3) (lo : BitVec 5) (up : BitVec 16) : Option Leaf :=
  (TileFmt.ofCode (up.extractLsb' 4 4).toNat).bind fun s => (TileFmt.ofCode lo.toNat).bind fun f => some ((let p := (up.extractLsb' 2 2); let k := (up.extractLsb' 0 2); tcvtOk s f p k), execTcvt g (up.extractLsb' 12 4) (up.extractLsb' 8 4) s (up.extractLsb' 2 2) (up.extractLsb' 0 2) f)

def leafMaj5E (g : BitVec 3) (lo : BitVec 5) (up : BitVec 16) : Option Leaf :=
  if up.extractLsb' 6 2 = 0#2 ∧ up.extractLsb' 3 1 = 0#1 then (RMode.ofCode (up.extractLsb' 0 3).toNat).bind fun m => (TileFmt.ofCode lo.toNat).bind fun f => some ((let k := (up.extractLsb' 4 2); f == TileFmt.tc8 || k == 0#2), execTred g (up.extractLsb' 12 4) (up.extractLsb' 8 4) (up.extractLsb' 4 2) m f)
  else none

def leafMaj68 (g : BitVec 3) (lo : BitVec 5) (up : BitVec 16) : Option Leaf :=
  if up.extractLsb' 14 2 = 0#2 ∧ up.extractLsb' 3 1 = 0#1 then (RMode.ofCode (up.extractLsb' 0 3).toNat).bind fun m => (MmaPair.ofCode lo.toNat).bind fun p => some (true, execMma g (up.extractLsb' 12 2) (up.extractLsb' 8 4) (up.extractLsb' 4 4) m p)
  else none

def leafMaj69 (g : BitVec 3) (lo : BitVec 5) (up : BitVec 16) : Option Leaf :=
  if up.extractLsb' 14 2 = 0#2 then (MmaPair.ofCode lo.toNat).bind fun p => some (true, execMmaSp g (up.extractLsb' 12 2) (up.extractLsb' 8 4) (up.extractLsb' 4 4) (up.extractLsb' 0 4) p)
  else none

def leafMaj6A (g : BitVec 3) (lo : BitVec 5) (up : BitVec 16) : Option Leaf :=
  if up.extractLsb' 14 2 = 0#2 then (TcPair.ofCode lo.toNat).bind fun p => some ((let y := (up.extractLsb' 2 2); let x := (up.extractLsb' 0 2); (p.aIsTc8 || x == 0#2) && (p.bIsTc8 || y == 0#2)), execMmaTc g (up.extractLsb' 12 2) (up.extractLsb' 8 4) (up.extractLsb' 4 4) (up.extractLsb' 2 2) (up.extractLsb' 0 2) p)
  else none

def leafMaj6B (g : BitVec 3) (lo : BitVec 5) (up : BitVec 16) : Option Leaf :=
  if lo = 0#5 ∧ up.extractLsb' 14 2 = 0#2 ∧ up.extractLsb' 0 12 = 0#12 then some (true, execCzero g (up.extractLsb' 12 2))
  else if lo = 1#5 ∧ up.extractLsb' 14 2 = 0#2 ∧ up.extractLsb' 10 2 = 0#2 ∧ up.extractLsb' 0 8 = 0#8 then some (true, execCmov g (up.extractLsb' 12 2) (up.extractLsb' 8 2))
  else if lo = 2#5 ∧ up.extractLsb' 14 2 = 0#2 ∧ up.extractLsb' 0 8 = 0#8 then some (true, execCld g (up.extractLsb' 12 2) (up.extractLsb' 8 4))
  else if lo = 3#5 ∧ up.extractLsb' 14 2 = 0#2 ∧ up.extractLsb' 0 8 = 0#8 then some (true, execCst g (up.extractLsb' 12 2) (up.extractLsb' 8 4))
  else none

def leafMaj6C (g : BitVec 3) (lo : BitVec 5) (up : BitVec 16) : Option Leaf :=
  if lo = 0#5 ∧ up.extractLsb' 10 2 = 0#2 ∧ up.extractLsb' 3 1 = 0#1 then (RMode.ofCode (up.extractLsb' 0 3).toNat).bind fun m => some ((let p := (up.extractLsb' 4 4); p == 0#4), execCcvtE4m3 g (up.extractLsb' 12 4) (up.extractLsb' 8 2) (up.extractLsb' 4 4) m)
  else if lo = 1#5 ∧ up.extractLsb' 10 2 = 0#2 ∧ up.extractLsb' 3 1 = 0#1 then (RMode.ofCode (up.extractLsb' 0 3).toNat).bind fun m => some ((let p := (up.extractLsb' 4 4); p == 0#4), execCcvtE5m2 g (up.extractLsb' 12 4) (up.extractLsb' 8 2) (up.extractLsb' 4 4) m)
  else if lo = 2#5 ∧ up.extractLsb' 10 2 = 0#2 ∧ up.extractLsb' 3 1 = 0#1 then (RMode.ofCode (up.extractLsb' 0 3).toNat).bind fun m => some ((let p := (up.extractLsb' 4 4); BitVec.ule p 1#4), execCcvtF16 g (up.extractLsb' 12 4) (up.extractLsb' 8 2) (up.extractLsb' 4 4) m)
  else if lo = 3#5 ∧ up.extractLsb' 10 2 = 0#2 ∧ up.extractLsb' 3 1 = 0#1 then (RMode.ofCode (up.extractLsb' 0 3).toNat).bind fun m => some ((let p := (up.extractLsb' 4 4); BitVec.ule p 1#4), execCcvtBf16 g (up.extractLsb' 12 4) (up.extractLsb' 8 2) (up.extractLsb' 4 4) m)
  else if lo = 4#5 ∧ up.extractLsb' 10 2 = 0#2 ∧ up.extractLsb' 3 1 = 0#1 then (RMode.ofCode (up.extractLsb' 0 3).toNat).bind fun m => some ((let p := (up.extractLsb' 4 4); BitVec.ule p 3#4), execCcvtF32 g (up.extractLsb' 12 4) (up.extractLsb' 8 2) (up.extractLsb' 4 4) m)
  else if lo = 5#5 ∧ up.extractLsb' 10 2 = 0#2 ∧ up.extractLsb' 3 1 = 0#1 then (RMode.ofCode (up.extractLsb' 0 3).toNat).bind fun m => some ((let p := (up.extractLsb' 4 4); BitVec.ule p 1#4), execCcvtF4 g (up.extractLsb' 12 4) (up.extractLsb' 8 2) (up.extractLsb' 4 4) m)
  else if lo = 6#5 ∧ up.extractLsb' 14 2 = 0#2 ∧ up.extractLsb' 10 2 = 0#2 ∧ up.extractLsb' 3 1 = 0#1 then (RMode.ofCode (up.extractLsb' 0 3).toNat).bind fun m => some (true, execCsclR g (up.extractLsb' 12 2) (up.extractLsb' 8 2) (up.extractLsb' 4 4) m)
  else if lo = 7#5 ∧ up.extractLsb' 14 2 = 0#2 ∧ up.extractLsb' 10 2 = 0#2 ∧ up.extractLsb' 3 1 = 0#1 then (RMode.ofCode (up.extractLsb' 0 3).toNat).bind fun m => some (true, execCsclC g (up.extractLsb' 12 2) (up.extractLsb' 8 2) (up.extractLsb' 4 4) m)
  else none

def leafMaj70 (g : BitVec 3) (lo : BitVec 5) (up : BitVec 16) : Option Leaf :=
  if lo = 0#5 ∧ up.extractLsb' 8 4 = 0#4 ∧ up.extractLsb' 0 3 = 0#3 then some (true, execHld g (up.extractLsb' 12 4) (up.extractLsb' 3 5))
  else if lo = 1#5 ∧ up.extractLsb' 8 4 = 0#4 ∧ up.extractLsb' 0 3 = 0#3 then some (true, execHldL g (up.extractLsb' 12 4) (up.extractLsb' 3 5))
  else if lo = 2#5 ∧ up.extractLsb' 12 4 = 0#4 ∧ up.extractLsb' 0 3 = 0#3 then some (true, execHst g (up.extractLsb' 8 4) (up.extractLsb' 3 5))
  else if lo = 3#5 ∧ up.extractLsb' 12 4 = 0#4 ∧ up.extractLsb' 0 3 = 0#3 then some (true, execHstL g (up.extractLsb' 8 4) (up.extractLsb' 3 5))
  else if lo = 4#5 then some (true, execHsetd g (up.extractLsb' 12 4) (up.extractLsb' 8 4) (up.extractLsb' 3 5) (up.extractLsb' 0 3))
  else if lo = 5#5 ∧ up.extractLsb' 0 3 = 0#3 then some (true, execHoff g (up.extractLsb' 12 4) (up.extractLsb' 8 4) (up.extractLsb' 3 5))
  else none

def leafMaj71 (g : BitVec 3) (lo : BitVec 5) (up : BitVec 16) : Option Leaf :=
  if lo = 0#5 ∧ up.extractLsb' 14 2 = 0#2 ∧ up.extractLsb' 0 6 = 0#6 then some (true, execXset g (up.extractLsb' 11 3) (up.extractLsb' 6 5))
  else if lo = 1#5 ∧ up.extractLsb' 9 2 = 0#2 ∧ up.extractLsb' 0 6 = 0#6 then some (true, execXget g (up.extractLsb' 11 5) (up.extractLsb' 6 3))
  else none

def leafMaj72 (g : BitVec 3) (lo : BitVec 5) (up : BitVec 16) : Option Leaf :=
  if lo = 0#5 ∧ up.extractLsb' 0 3 = 0#3 then some ((let s := (up.extractLsb' 3 5); s != 0#5), execCopyG2l g (up.extractLsb' 12 4) (up.extractLsb' 8 4) (up.extractLsb' 3 5))
  else if lo = 1#5 ∧ up.extractLsb' 0 3 = 0#3 then some ((let s := (up.extractLsb' 3 5); s != 0#5), execCopyL2g g (up.extractLsb' 12 4) (up.extractLsb' 8 4) (up.extractLsb' 3 5))
  else if lo = 2#5 then some ((let s := (up.extractLsb' 3 5); s != 0#5), execCopyG2lB g (up.extractLsb' 12 4) (up.extractLsb' 8 4) (up.extractLsb' 3 5) (up.extractLsb' 0 3))
  else if lo = 3#5 then some ((let s := (up.extractLsb' 3 5); s != 0#5), execCopyL2gB g (up.extractLsb' 12 4) (up.extractLsb' 8 4) (up.extractLsb' 3 5) (up.extractLsb' 0 3))
  else if lo = 4#5 ∧ up.extractLsb' 8 8 = 0#8 ∧ up.extractLsb' 0 3 = 0#3 then some ((let s := (up.extractLsb' 3 5); s != 0#5), execCopyResume g (up.extractLsb' 3 5))
  else if lo = 5#5 ∧ up.extractLsb' 8 8 = 0#8 ∧ up.extractLsb' 0 3 = 0#3 then some ((let s := (up.extractLsb' 3 5); s != 0#5), execCopyCancel g (up.extractLsb' 3 5))
  else if lo = 6#5 ∧ up.extractLsb' 8 8 = 0#8 ∧ up.extractLsb' 0 3 = 0#3 then some ((let s := (up.extractLsb' 3 5); s != 0#5), execCopyChk g (up.extractLsb' 3 5))
  else none

def leafMaj74 (g : BitVec 3) (lo : BitVec 5) (up : BitVec 16) : Option Leaf :=
  if lo = 0#5 ∧ up.extractLsb' 14 2 = 0#2 ∧ up.extractLsb' 8 4 = 0#4 ∧ up.extractLsb' 0 3 = 0#3 then some (true, execCbkLd g (up.extractLsb' 12 2) (up.extractLsb' 3 5))
  else if lo = 1#5 ∧ up.extractLsb' 14 2 = 0#2 ∧ up.extractLsb' 8 4 = 0#4 ∧ up.extractLsb' 0 3 = 0#3 then some (true, execCbkLdL g (up.extractLsb' 12 2) (up.extractLsb' 3 5))
  else none

def leafMaj75 (g : BitVec 3) (lo : BitVec 5) (up : BitVec 16) : Option Leaf :=
  if lo = 0#5 ∧ up.extractLsb' 2 2 = 0#2 then some (true, execCbkEncLo g (up.extractLsb' 12 4) (up.extractLsb' 8 4) (up.extractLsb' 4 4) (up.extractLsb' 0 2))
  else if lo = 1#5 ∧ up.extractLsb' 2 2 = 0#2 then some (true, execCbkEncHi g (up.extractLsb' 12 4) (up.extractLsb' 8 4) (up.extractLsb' 4 4) (up.extractLsb' 0 2))
  else if lo = 2#5 ∧ up.extractLsb' 3 1 = 0#1 then (RMode.ofCode (up.extractLsb' 0 3).toNat).bind fun m => some (true, execVencF4 g (up.extractLsb' 12 4) (up.extractLsb' 8 4) (up.extractLsb' 4 4) m)
  else if lo = 3#5 ∧ up.extractLsb' 1 7 = 0#7 then some (true, execVdecF4 g (up.extractLsb' 12 4) (up.extractLsb' 8 4) (up.extractLsb' 0 1))
  else none

def leafMaj78 (g : BitVec 3) (lo : BitVec 5) (up : BitVec 16) : Option Leaf :=
  if lo = 0#5 ∧ up.extractLsb' 0 6 = 0#6 then some ((let d := (up.extractLsb' 11 5); d != 0#5), execSteCfg g (up.extractLsb' 11 5) (up.extractLsb' 6 5))
  else if lo = 1#5 ∧ up.extractLsb' 0 6 = 0#6 then some ((let d := (up.extractLsb' 11 5); d != 0#5), execSteIns g (up.extractLsb' 11 5) (up.extractLsb' 6 5))
  else if lo = 2#5 ∧ up.extractLsb' 0 6 = 0#6 then some ((let d := (up.extractLsb' 11 5); d != 0#5), execSteUpd g (up.extractLsb' 11 5) (up.extractLsb' 6 5))
  else if lo = 3#5 then some ((let d := (up.extractLsb' 11 5); d != 0#5), execSteDraw g (up.extractLsb' 11 5) (up.extractLsb' 6 5) (up.extractLsb' 0 6))
  else if lo = 4#5 ∧ up.extractLsb' 6 5 = 0#5 then some ((let d := (up.extractLsb' 11 5); let q := (up.extractLsb' 0 6); d != 0#5 && BitVec.ule q 4#6), execSteSum g (up.extractLsb' 11 5) (up.extractLsb' 0 6))
  else none

def leafMaj7C (g : BitVec 3) (lo : BitVec 5) (up : BitVec 16) : Option Leaf :=
  if up.extractLsb' 12 4 = 0#4 then (SysReg.ofCode (up.extractLsb' 0 12).toNat).bind fun r => some (true, execSysr g r lo)
  else if up.extractLsb' 12 4 = 1#4 then (SysReg.ofCode (up.extractLsb' 0 12).toNat).bind fun r => some ((r.writable), execSysw g r lo)
  else if up.extractLsb' 12 4 = 2#4 then (SysReg.ofCode (up.extractLsb' 0 12).toNat).bind fun r => some ((r.writable), execSysx g r lo)
  else none

def leafMaj7D (g : BitVec 3) (lo : BitVec 5) (up : BitVec 16) : Option Leaf :=
  if lo = 0#5 ∧ up = 0#16 ∧ g = 0#3 then some (true, execEret)
  else if lo = 1#5 ∧ up = 0#16 ∧ g = 0#3 then some (true, execEretStep)
  else if lo = 2#5 ∧ up.extractLsb' 6 10 = 0#10 then some (true, execBrk g (up.extractLsb' 0 6))
  else if lo = 3#5 ∧ up.extractLsb' 7 4 = 14#4 ∧ up.extractLsb' 0 6 = 0#6 then some (true, execRdus g (up.extractLsb' 11 5) (up.extractLsb' 6 1))
  else if lo = 4#5 ∧ up.extractLsb' 12 4 = 14#4 ∧ up.extractLsb' 0 6 = 0#6 then some (true, execWrus g (up.extractLsb' 11 1) (up.extractLsb' 6 5))
  else if lo = 5#5 ∧ up.extractLsb' 1 10 = 0#10 then some (true, execRdtime g (up.extractLsb' 11 5) (up.extractLsb' 0 1))
  else none

def leafMaj7E (g : BitVec 3) (lo : BitVec 5) (up : BitVec 16) : Option Leaf :=
  if lo = 0#5 ∧ up.extractLsb' 14 2 = 0#2 ∧ up.extractLsb' 5 1 = 0#1 then some (true, execRangeTag g (up.extractLsb' 11 3) (up.extractLsb' 6 5) (up.extractLsb' 0 5))
  else if lo = 1#5 ∧ up.extractLsb' 14 2 = 0#2 ∧ up.extractLsb' 4 7 = 0#7 then some (true, execRangeTagH g (up.extractLsb' 11 3) (up.extractLsb' 0 4))
  else if lo = 2#5 ∧ up.extractLsb' 14 2 = 0#2 ∧ up.extractLsb' 0 11 = 0#11 then some (true, execRangeClr g (up.extractLsb' 11 3))
  else if lo = 3#5 ∧ up.extractLsb' 9 2 = 0#2 ∧ up.extractLsb' 2 4 = 0#4 then some ((let k := (up.extractLsb' 0 2); BitVec.ule k 2#2), execRangeRd g (up.extractLsb' 11 5) (up.extractLsb' 6 3) (up.extractLsb' 0 2))
  else if lo = 4#5 ∧ up.extractLsb' 0 6 = 0#6 then some (true, execNestClaim g (up.extractLsb' 11 5) (up.extractLsb' 6 5))
  else if lo = 5#5 ∧ up.extractLsb' 0 6 = 0#6 then some (true, execPerfRd g (up.extractLsb' 11 5) (up.extractLsb' 6 5))
  else none

/-- A brick's fields by its major, as in `decodeMajor`. -/
def majorLeaf (maj : Nat) (g : BitVec 3) (lo : BitVec 5) (up : BitVec 16) : Option Leaf :=
  if maj = 0x00 then leafMaj00 g lo up
  else if maj = 0x01 then leafMaj01 g lo up
  else if maj = 0x02 then leafMaj02 g lo up
  else if maj = 0x03 then leafMaj03 g lo up
  else if maj = 0x04 then leafMaj04 g lo up
  else if maj = 0x05 then leafMaj05 g lo up
  else if maj = 0x08 then leafMaj08 g lo up
  else if maj = 0x09 then leafMaj09 g lo up
  else if maj = 0x10 then leafMaj10 g lo up
  else if maj = 0x11 then leafMaj11 g lo up
  else if maj = 0x12 then leafMaj12 g lo up
  else if maj = 0x13 then leafMaj13 g lo up
  else if maj = 0x14 then leafMaj14 g lo up
  else if maj = 0x15 then leafMaj15 g lo up
  else if maj = 0x16 then leafMaj16 g lo up
  else if maj = 0x18 then leafMaj18 g lo up
  else if maj = 0x19 then leafMaj19 g lo up
  else if maj = 0x1A then leafMaj1A g lo up
  else if maj = 0x20 then leafMaj20 g lo up
  else if maj = 0x21 then leafMaj21 g lo up
  else if maj = 0x22 then leafMaj22 g lo up
  else if maj = 0x23 then leafMaj23 g lo up
  else if maj = 0x24 then leafMaj24 g lo up
  else if maj = 0x25 then leafMaj25 g lo up
  else if maj = 0x26 then leafMaj26 g lo up
  else if maj = 0x27 then leafMaj27 g lo up
  else if maj = 0x28 then leafMaj28 g lo up
  else if maj = 0x29 then leafMaj29 g lo up
  else if maj = 0x2A then leafMaj2A g lo up
  else if maj = 0x2B then leafMaj2B g lo up
  else if maj = 0x2C then leafMaj2C g lo up
  else if maj = 0x2D then leafMaj2D g lo up
  else if maj = 0x2E then leafMaj2E g lo up
  else if maj = 0x2F then leafMaj2F g lo up
  else if maj = 0x30 then leafMaj30 g lo up
  else if maj = 0x31 then leafMaj31 g lo up
  else if maj = 0x38 then leafMaj38 g lo up
  else if maj = 0x39 then leafMaj39 g lo up
  else if maj = 0x40 then leafMaj40 g lo up
  else if maj = 0x41 then leafMaj41 g lo up
  else if maj = 0x42 then leafMaj42 g lo up
  else if maj = 0x43 then leafMaj43 g lo up
  else if maj = 0x44 then leafMaj44 g lo up
  else if maj = 0x45 then leafMaj45 g lo up
  else if maj = 0x46 then leafMaj46 g lo up
  else if maj = 0x47 then leafMaj47 g lo up
  else if maj = 0x48 then leafMaj48 g lo up
  else if maj = 0x50 then leafMaj50 g lo up
  else if maj = 0x51 then leafMaj51 g lo up
  else if maj = 0x52 then leafMaj52 g lo up
  else if maj = 0x53 then leafMaj53 g lo up
  else if maj = 0x54 then leafMaj54 g lo up
  else if maj = 0x58 then leafMaj58 g lo up
  else if maj = 0x59 then leafMaj59 g lo up
  else if maj = 0x5C then leafMaj5C g lo up
  else if maj = 0x5D then leafMaj5D g lo up
  else if maj = 0x5E then leafMaj5E g lo up
  else if maj = 0x68 then leafMaj68 g lo up
  else if maj = 0x69 then leafMaj69 g lo up
  else if maj = 0x6A then leafMaj6A g lo up
  else if maj = 0x6B then leafMaj6B g lo up
  else if maj = 0x6C then leafMaj6C g lo up
  else if maj = 0x70 then leafMaj70 g lo up
  else if maj = 0x71 then leafMaj71 g lo up
  else if maj = 0x72 then leafMaj72 g lo up
  else if maj = 0x74 then leafMaj74 g lo up
  else if maj = 0x75 then leafMaj75 g lo up
  else if maj = 0x78 then leafMaj78 g lo up
  else if maj = 0x7C then leafMaj7C g lo up
  else if maj = 0x7D then leafMaj7D g lo up
  else if maj = 0x7E then leafMaj7E g lo up
  else none

def majorWfRun (maj : Nat) (g : BitVec 3) (lo : BitVec 5) (up : BitVec 16) : Option Bool :=
  (majorLeaf maj g lo up).map (·.1)

theorem wf_ite {c : Prop} [Decidable c] {a b : Option Instr} {a' b' : Option Leaf}
    (h : a.map Instr.wf = a'.map (·.1)) (k : b.map Instr.wf = b'.map (·.1)) :
    (if c then a else b).map Instr.wf = (if c then a' else b').map (·.1) := by
  split <;> assumption

theorem wf_bind {β : Type} {o : Option β} {f : β → Option Instr} {f' : β → Option Leaf}
    (h : ∀ m, (f m).map Instr.wf = (f' m).map (·.1)) : (o.bind f).map Instr.wf = (o.bind f').map (·.1) := by
  cases o
  · rfl
  · exact h _

theorem leafMaj00_wf (g : BitVec 3) (lo : BitVec 5) (up : BitVec 16) :
    (decodeMaj00 g lo up).map Instr.wf = (leafMaj00 g lo up).map (·.1) := by
  unfold decodeMaj00 leafMaj00
  repeat' first | refine wf_ite ?_ ?_ | refine wf_bind fun _ => ?_ | rfl

theorem leafMaj01_wf (g : BitVec 3) (lo : BitVec 5) (up : BitVec 16) :
    (decodeMaj01 g lo up).map Instr.wf = (leafMaj01 g lo up).map (·.1) := by
  unfold decodeMaj01 leafMaj01
  repeat' first | refine wf_ite ?_ ?_ | refine wf_bind fun _ => ?_ | rfl

theorem leafMaj02_wf (g : BitVec 3) (lo : BitVec 5) (up : BitVec 16) :
    (decodeMaj02 g lo up).map Instr.wf = (leafMaj02 g lo up).map (·.1) := by
  unfold decodeMaj02 leafMaj02
  repeat' first | refine wf_ite ?_ ?_ | refine wf_bind fun _ => ?_ | rfl

theorem leafMaj03_wf (g : BitVec 3) (lo : BitVec 5) (up : BitVec 16) :
    (decodeMaj03 g lo up).map Instr.wf = (leafMaj03 g lo up).map (·.1) := by
  unfold decodeMaj03 leafMaj03
  repeat' first | refine wf_ite ?_ ?_ | refine wf_bind fun _ => ?_ | rfl

theorem leafMaj04_wf (g : BitVec 3) (lo : BitVec 5) (up : BitVec 16) :
    (decodeMaj04 g lo up).map Instr.wf = (leafMaj04 g lo up).map (·.1) := by
  unfold decodeMaj04 leafMaj04
  repeat' first | refine wf_ite ?_ ?_ | refine wf_bind fun _ => ?_ | rfl

theorem leafMaj05_wf (g : BitVec 3) (lo : BitVec 5) (up : BitVec 16) :
    (decodeMaj05 g lo up).map Instr.wf = (leafMaj05 g lo up).map (·.1) := by
  unfold decodeMaj05 leafMaj05
  repeat' first | refine wf_ite ?_ ?_ | refine wf_bind fun _ => ?_ | rfl

theorem leafMaj08_wf (g : BitVec 3) (lo : BitVec 5) (up : BitVec 16) :
    (decodeMaj08 g lo up).map Instr.wf = (leafMaj08 g lo up).map (·.1) := by
  unfold decodeMaj08 leafMaj08
  repeat' first | refine wf_ite ?_ ?_ | refine wf_bind fun _ => ?_ | rfl

theorem leafMaj09_wf (g : BitVec 3) (lo : BitVec 5) (up : BitVec 16) :
    (decodeMaj09 g lo up).map Instr.wf = (leafMaj09 g lo up).map (·.1) := by
  unfold decodeMaj09 leafMaj09
  repeat' first | refine wf_ite ?_ ?_ | refine wf_bind fun _ => ?_ | rfl

theorem leafMaj10_wf (g : BitVec 3) (lo : BitVec 5) (up : BitVec 16) :
    (decodeMaj10 g lo up).map Instr.wf = (leafMaj10 g lo up).map (·.1) := by
  unfold decodeMaj10 leafMaj10
  repeat' first | refine wf_ite ?_ ?_ | refine wf_bind fun _ => ?_ | rfl

theorem leafMaj11_wf (g : BitVec 3) (lo : BitVec 5) (up : BitVec 16) :
    (decodeMaj11 g lo up).map Instr.wf = (leafMaj11 g lo up).map (·.1) := by
  unfold decodeMaj11 leafMaj11
  repeat' first | refine wf_ite ?_ ?_ | refine wf_bind fun _ => ?_ | rfl

theorem leafMaj12_wf (g : BitVec 3) (lo : BitVec 5) (up : BitVec 16) :
    (decodeMaj12 g lo up).map Instr.wf = (leafMaj12 g lo up).map (·.1) := by
  unfold decodeMaj12 leafMaj12
  repeat' first | refine wf_ite ?_ ?_ | refine wf_bind fun _ => ?_ | rfl

theorem leafMaj13_wf (g : BitVec 3) (lo : BitVec 5) (up : BitVec 16) :
    (decodeMaj13 g lo up).map Instr.wf = (leafMaj13 g lo up).map (·.1) := by
  unfold decodeMaj13 leafMaj13
  repeat' first | refine wf_ite ?_ ?_ | refine wf_bind fun _ => ?_ | rfl

theorem leafMaj14_wf (g : BitVec 3) (lo : BitVec 5) (up : BitVec 16) :
    (decodeMaj14 g lo up).map Instr.wf = (leafMaj14 g lo up).map (·.1) := by
  unfold decodeMaj14 leafMaj14
  repeat' first | refine wf_ite ?_ ?_ | refine wf_bind fun _ => ?_ | rfl

theorem leafMaj15_wf (g : BitVec 3) (lo : BitVec 5) (up : BitVec 16) :
    (decodeMaj15 g lo up).map Instr.wf = (leafMaj15 g lo up).map (·.1) := by
  unfold decodeMaj15 leafMaj15
  repeat' first | refine wf_ite ?_ ?_ | refine wf_bind fun _ => ?_ | rfl

theorem leafMaj16_wf (g : BitVec 3) (lo : BitVec 5) (up : BitVec 16) :
    (decodeMaj16 g lo up).map Instr.wf = (leafMaj16 g lo up).map (·.1) := by
  unfold decodeMaj16 leafMaj16
  repeat' first | refine wf_ite ?_ ?_ | refine wf_bind fun _ => ?_ | rfl

theorem leafMaj18_wf (g : BitVec 3) (lo : BitVec 5) (up : BitVec 16) :
    (decodeMaj18 g lo up).map Instr.wf = (leafMaj18 g lo up).map (·.1) := by
  unfold decodeMaj18 leafMaj18
  repeat' first | refine wf_ite ?_ ?_ | refine wf_bind fun _ => ?_ | rfl

theorem leafMaj19_wf (g : BitVec 3) (lo : BitVec 5) (up : BitVec 16) :
    (decodeMaj19 g lo up).map Instr.wf = (leafMaj19 g lo up).map (·.1) := by
  unfold decodeMaj19 leafMaj19
  repeat' first | refine wf_ite ?_ ?_ | refine wf_bind fun _ => ?_ | rfl

theorem leafMaj1A_wf (g : BitVec 3) (lo : BitVec 5) (up : BitVec 16) :
    (decodeMaj1A g lo up).map Instr.wf = (leafMaj1A g lo up).map (·.1) := by
  unfold decodeMaj1A leafMaj1A
  repeat' first | refine wf_ite ?_ ?_ | refine wf_bind fun _ => ?_ | rfl

theorem leafMaj20_wf (g : BitVec 3) (lo : BitVec 5) (up : BitVec 16) :
    (decodeMaj20 g lo up).map Instr.wf = (leafMaj20 g lo up).map (·.1) := by
  unfold decodeMaj20 leafMaj20
  repeat' first | refine wf_ite ?_ ?_ | refine wf_bind fun _ => ?_ | rfl

theorem leafMaj21_wf (g : BitVec 3) (lo : BitVec 5) (up : BitVec 16) :
    (decodeMaj21 g lo up).map Instr.wf = (leafMaj21 g lo up).map (·.1) := by
  unfold decodeMaj21 leafMaj21
  repeat' first | refine wf_ite ?_ ?_ | refine wf_bind fun _ => ?_ | rfl

theorem leafMaj22_wf (g : BitVec 3) (lo : BitVec 5) (up : BitVec 16) :
    (decodeMaj22 g lo up).map Instr.wf = (leafMaj22 g lo up).map (·.1) := by
  unfold decodeMaj22 leafMaj22
  repeat' first | refine wf_ite ?_ ?_ | refine wf_bind fun _ => ?_ | rfl

theorem leafMaj23_wf (g : BitVec 3) (lo : BitVec 5) (up : BitVec 16) :
    (decodeMaj23 g lo up).map Instr.wf = (leafMaj23 g lo up).map (·.1) := by
  unfold decodeMaj23 leafMaj23
  repeat' first | refine wf_ite ?_ ?_ | refine wf_bind fun _ => ?_ | rfl

theorem leafMaj24_wf (g : BitVec 3) (lo : BitVec 5) (up : BitVec 16) :
    (decodeMaj24 g lo up).map Instr.wf = (leafMaj24 g lo up).map (·.1) := by
  unfold decodeMaj24 leafMaj24
  repeat' first | refine wf_ite ?_ ?_ | refine wf_bind fun _ => ?_ | rfl

theorem leafMaj25_wf (g : BitVec 3) (lo : BitVec 5) (up : BitVec 16) :
    (decodeMaj25 g lo up).map Instr.wf = (leafMaj25 g lo up).map (·.1) := by
  unfold decodeMaj25 leafMaj25
  repeat' first | refine wf_ite ?_ ?_ | refine wf_bind fun _ => ?_ | rfl

theorem leafMaj26_wf (g : BitVec 3) (lo : BitVec 5) (up : BitVec 16) :
    (decodeMaj26 g lo up).map Instr.wf = (leafMaj26 g lo up).map (·.1) := by
  unfold decodeMaj26 leafMaj26
  repeat' first | refine wf_ite ?_ ?_ | refine wf_bind fun _ => ?_ | rfl

theorem leafMaj27_wf (g : BitVec 3) (lo : BitVec 5) (up : BitVec 16) :
    (decodeMaj27 g lo up).map Instr.wf = (leafMaj27 g lo up).map (·.1) := by
  unfold decodeMaj27 leafMaj27
  repeat' first | refine wf_ite ?_ ?_ | refine wf_bind fun _ => ?_ | rfl

theorem leafMaj28_wf (g : BitVec 3) (lo : BitVec 5) (up : BitVec 16) :
    (decodeMaj28 g lo up).map Instr.wf = (leafMaj28 g lo up).map (·.1) := by
  unfold decodeMaj28 leafMaj28
  repeat' first | refine wf_ite ?_ ?_ | refine wf_bind fun _ => ?_ | rfl

theorem leafMaj29_wf (g : BitVec 3) (lo : BitVec 5) (up : BitVec 16) :
    (decodeMaj29 g lo up).map Instr.wf = (leafMaj29 g lo up).map (·.1) := by
  unfold decodeMaj29 leafMaj29
  repeat' first | refine wf_ite ?_ ?_ | refine wf_bind fun _ => ?_ | rfl

theorem leafMaj2A_wf (g : BitVec 3) (lo : BitVec 5) (up : BitVec 16) :
    (decodeMaj2A g lo up).map Instr.wf = (leafMaj2A g lo up).map (·.1) := by
  unfold decodeMaj2A leafMaj2A
  repeat' first | refine wf_ite ?_ ?_ | refine wf_bind fun _ => ?_ | rfl

theorem leafMaj2B_wf (g : BitVec 3) (lo : BitVec 5) (up : BitVec 16) :
    (decodeMaj2B g lo up).map Instr.wf = (leafMaj2B g lo up).map (·.1) := by
  unfold decodeMaj2B leafMaj2B
  repeat' first | refine wf_ite ?_ ?_ | refine wf_bind fun _ => ?_ | rfl

theorem leafMaj2C_wf (g : BitVec 3) (lo : BitVec 5) (up : BitVec 16) :
    (decodeMaj2C g lo up).map Instr.wf = (leafMaj2C g lo up).map (·.1) := by
  unfold decodeMaj2C leafMaj2C
  repeat' first | refine wf_ite ?_ ?_ | refine wf_bind fun _ => ?_ | rfl

theorem leafMaj2D_wf (g : BitVec 3) (lo : BitVec 5) (up : BitVec 16) :
    (decodeMaj2D g lo up).map Instr.wf = (leafMaj2D g lo up).map (·.1) := by
  unfold decodeMaj2D leafMaj2D
  repeat' first | refine wf_ite ?_ ?_ | refine wf_bind fun _ => ?_ | rfl

theorem leafMaj2E_wf (g : BitVec 3) (lo : BitVec 5) (up : BitVec 16) :
    (decodeMaj2E g lo up).map Instr.wf = (leafMaj2E g lo up).map (·.1) := by
  unfold decodeMaj2E leafMaj2E
  repeat' first | refine wf_ite ?_ ?_ | refine wf_bind fun _ => ?_ | rfl

theorem leafMaj2F_wf (g : BitVec 3) (lo : BitVec 5) (up : BitVec 16) :
    (decodeMaj2F g lo up).map Instr.wf = (leafMaj2F g lo up).map (·.1) := by
  unfold decodeMaj2F leafMaj2F
  repeat' first | refine wf_ite ?_ ?_ | refine wf_bind fun _ => ?_ | rfl

theorem leafMaj30_wf (g : BitVec 3) (lo : BitVec 5) (up : BitVec 16) :
    (decodeMaj30 g lo up).map Instr.wf = (leafMaj30 g lo up).map (·.1) := by
  unfold decodeMaj30 leafMaj30
  repeat' first | refine wf_ite ?_ ?_ | refine wf_bind fun _ => ?_ | rfl

theorem leafMaj31_wf (g : BitVec 3) (lo : BitVec 5) (up : BitVec 16) :
    (decodeMaj31 g lo up).map Instr.wf = (leafMaj31 g lo up).map (·.1) := by
  unfold decodeMaj31 leafMaj31
  repeat' first | refine wf_ite ?_ ?_ | refine wf_bind fun _ => ?_ | rfl

theorem leafMaj38_wf (g : BitVec 3) (lo : BitVec 5) (up : BitVec 16) :
    (decodeMaj38 g lo up).map Instr.wf = (leafMaj38 g lo up).map (·.1) := by
  unfold decodeMaj38 leafMaj38
  repeat' first | refine wf_ite ?_ ?_ | refine wf_bind fun _ => ?_ | rfl

theorem leafMaj39_wf (g : BitVec 3) (lo : BitVec 5) (up : BitVec 16) :
    (decodeMaj39 g lo up).map Instr.wf = (leafMaj39 g lo up).map (·.1) := by
  unfold decodeMaj39 leafMaj39
  repeat' first | refine wf_ite ?_ ?_ | refine wf_bind fun _ => ?_ | rfl

theorem leafMaj40_wf (g : BitVec 3) (lo : BitVec 5) (up : BitVec 16) :
    (decodeMaj40 g lo up).map Instr.wf = (leafMaj40 g lo up).map (·.1) := by
  unfold decodeMaj40 leafMaj40
  repeat' first | refine wf_ite ?_ ?_ | refine wf_bind fun _ => ?_ | rfl

theorem leafMaj41_wf (g : BitVec 3) (lo : BitVec 5) (up : BitVec 16) :
    (decodeMaj41 g lo up).map Instr.wf = (leafMaj41 g lo up).map (·.1) := by
  unfold decodeMaj41 leafMaj41
  repeat' first | refine wf_ite ?_ ?_ | refine wf_bind fun _ => ?_ | rfl

theorem leafMaj42_wf (g : BitVec 3) (lo : BitVec 5) (up : BitVec 16) :
    (decodeMaj42 g lo up).map Instr.wf = (leafMaj42 g lo up).map (·.1) := by
  unfold decodeMaj42 leafMaj42
  repeat' first | refine wf_ite ?_ ?_ | refine wf_bind fun _ => ?_ | rfl

theorem leafMaj43_wf (g : BitVec 3) (lo : BitVec 5) (up : BitVec 16) :
    (decodeMaj43 g lo up).map Instr.wf = (leafMaj43 g lo up).map (·.1) := by
  unfold decodeMaj43 leafMaj43
  repeat' first | refine wf_ite ?_ ?_ | refine wf_bind fun _ => ?_ | rfl

theorem leafMaj44_wf (g : BitVec 3) (lo : BitVec 5) (up : BitVec 16) :
    (decodeMaj44 g lo up).map Instr.wf = (leafMaj44 g lo up).map (·.1) := by
  unfold decodeMaj44 leafMaj44
  repeat' first | refine wf_ite ?_ ?_ | refine wf_bind fun _ => ?_ | rfl

theorem leafMaj45_wf (g : BitVec 3) (lo : BitVec 5) (up : BitVec 16) :
    (decodeMaj45 g lo up).map Instr.wf = (leafMaj45 g lo up).map (·.1) := by
  unfold decodeMaj45 leafMaj45
  repeat' first | refine wf_ite ?_ ?_ | refine wf_bind fun _ => ?_ | rfl

theorem leafMaj46_wf (g : BitVec 3) (lo : BitVec 5) (up : BitVec 16) :
    (decodeMaj46 g lo up).map Instr.wf = (leafMaj46 g lo up).map (·.1) := by
  unfold decodeMaj46 leafMaj46
  repeat' first | refine wf_ite ?_ ?_ | refine wf_bind fun _ => ?_ | rfl

theorem leafMaj47_wf (g : BitVec 3) (lo : BitVec 5) (up : BitVec 16) :
    (decodeMaj47 g lo up).map Instr.wf = (leafMaj47 g lo up).map (·.1) := by
  unfold decodeMaj47 leafMaj47
  repeat' first | refine wf_ite ?_ ?_ | refine wf_bind fun _ => ?_ | rfl

theorem leafMaj48_wf (g : BitVec 3) (lo : BitVec 5) (up : BitVec 16) :
    (decodeMaj48 g lo up).map Instr.wf = (leafMaj48 g lo up).map (·.1) := by
  unfold decodeMaj48 leafMaj48
  repeat' first | refine wf_ite ?_ ?_ | refine wf_bind fun _ => ?_ | rfl

theorem leafMaj50_wf (g : BitVec 3) (lo : BitVec 5) (up : BitVec 16) :
    (decodeMaj50 g lo up).map Instr.wf = (leafMaj50 g lo up).map (·.1) := by
  unfold decodeMaj50 leafMaj50
  repeat' first | refine wf_ite ?_ ?_ | refine wf_bind fun _ => ?_ | rfl

theorem leafMaj51_wf (g : BitVec 3) (lo : BitVec 5) (up : BitVec 16) :
    (decodeMaj51 g lo up).map Instr.wf = (leafMaj51 g lo up).map (·.1) := by
  unfold decodeMaj51 leafMaj51
  repeat' first | refine wf_ite ?_ ?_ | refine wf_bind fun _ => ?_ | rfl

theorem leafMaj52_wf (g : BitVec 3) (lo : BitVec 5) (up : BitVec 16) :
    (decodeMaj52 g lo up).map Instr.wf = (leafMaj52 g lo up).map (·.1) := by
  unfold decodeMaj52 leafMaj52
  repeat' first | refine wf_ite ?_ ?_ | refine wf_bind fun _ => ?_ | rfl

theorem leafMaj53_wf (g : BitVec 3) (lo : BitVec 5) (up : BitVec 16) :
    (decodeMaj53 g lo up).map Instr.wf = (leafMaj53 g lo up).map (·.1) := by
  unfold decodeMaj53 leafMaj53
  repeat' first | refine wf_ite ?_ ?_ | refine wf_bind fun _ => ?_ | rfl

theorem leafMaj54_wf (g : BitVec 3) (lo : BitVec 5) (up : BitVec 16) :
    (decodeMaj54 g lo up).map Instr.wf = (leafMaj54 g lo up).map (·.1) := by
  unfold decodeMaj54 leafMaj54
  repeat' first | refine wf_ite ?_ ?_ | refine wf_bind fun _ => ?_ | rfl

theorem leafMaj58_wf (g : BitVec 3) (lo : BitVec 5) (up : BitVec 16) :
    (decodeMaj58 g lo up).map Instr.wf = (leafMaj58 g lo up).map (·.1) := by
  unfold decodeMaj58 leafMaj58
  repeat' first | refine wf_ite ?_ ?_ | refine wf_bind fun _ => ?_ | rfl

theorem leafMaj59_wf (g : BitVec 3) (lo : BitVec 5) (up : BitVec 16) :
    (decodeMaj59 g lo up).map Instr.wf = (leafMaj59 g lo up).map (·.1) := by
  unfold decodeMaj59 leafMaj59
  repeat' first | refine wf_ite ?_ ?_ | refine wf_bind fun _ => ?_ | rfl

theorem leafMaj5C_wf (g : BitVec 3) (lo : BitVec 5) (up : BitVec 16) :
    (decodeMaj5C g lo up).map Instr.wf = (leafMaj5C g lo up).map (·.1) := by
  unfold decodeMaj5C leafMaj5C
  repeat' first | refine wf_ite ?_ ?_ | refine wf_bind fun _ => ?_ | rfl

theorem leafMaj5D_wf (g : BitVec 3) (lo : BitVec 5) (up : BitVec 16) :
    (decodeMaj5D g lo up).map Instr.wf = (leafMaj5D g lo up).map (·.1) := by
  unfold decodeMaj5D leafMaj5D
  repeat' first | refine wf_ite ?_ ?_ | refine wf_bind fun _ => ?_ | rfl

theorem leafMaj5E_wf (g : BitVec 3) (lo : BitVec 5) (up : BitVec 16) :
    (decodeMaj5E g lo up).map Instr.wf = (leafMaj5E g lo up).map (·.1) := by
  unfold decodeMaj5E leafMaj5E
  repeat' first | refine wf_ite ?_ ?_ | refine wf_bind fun _ => ?_ | rfl

theorem leafMaj68_wf (g : BitVec 3) (lo : BitVec 5) (up : BitVec 16) :
    (decodeMaj68 g lo up).map Instr.wf = (leafMaj68 g lo up).map (·.1) := by
  unfold decodeMaj68 leafMaj68
  repeat' first | refine wf_ite ?_ ?_ | refine wf_bind fun _ => ?_ | rfl

theorem leafMaj69_wf (g : BitVec 3) (lo : BitVec 5) (up : BitVec 16) :
    (decodeMaj69 g lo up).map Instr.wf = (leafMaj69 g lo up).map (·.1) := by
  unfold decodeMaj69 leafMaj69
  repeat' first | refine wf_ite ?_ ?_ | refine wf_bind fun _ => ?_ | rfl

theorem leafMaj6A_wf (g : BitVec 3) (lo : BitVec 5) (up : BitVec 16) :
    (decodeMaj6A g lo up).map Instr.wf = (leafMaj6A g lo up).map (·.1) := by
  unfold decodeMaj6A leafMaj6A
  repeat' first | refine wf_ite ?_ ?_ | refine wf_bind fun _ => ?_ | rfl

theorem leafMaj6B_wf (g : BitVec 3) (lo : BitVec 5) (up : BitVec 16) :
    (decodeMaj6B g lo up).map Instr.wf = (leafMaj6B g lo up).map (·.1) := by
  unfold decodeMaj6B leafMaj6B
  repeat' first | refine wf_ite ?_ ?_ | refine wf_bind fun _ => ?_ | rfl

theorem leafMaj6C_wf (g : BitVec 3) (lo : BitVec 5) (up : BitVec 16) :
    (decodeMaj6C g lo up).map Instr.wf = (leafMaj6C g lo up).map (·.1) := by
  unfold decodeMaj6C leafMaj6C
  repeat' first | refine wf_ite ?_ ?_ | refine wf_bind fun _ => ?_ | rfl

theorem leafMaj70_wf (g : BitVec 3) (lo : BitVec 5) (up : BitVec 16) :
    (decodeMaj70 g lo up).map Instr.wf = (leafMaj70 g lo up).map (·.1) := by
  unfold decodeMaj70 leafMaj70
  repeat' first | refine wf_ite ?_ ?_ | refine wf_bind fun _ => ?_ | rfl

theorem leafMaj71_wf (g : BitVec 3) (lo : BitVec 5) (up : BitVec 16) :
    (decodeMaj71 g lo up).map Instr.wf = (leafMaj71 g lo up).map (·.1) := by
  unfold decodeMaj71 leafMaj71
  repeat' first | refine wf_ite ?_ ?_ | refine wf_bind fun _ => ?_ | rfl

theorem leafMaj72_wf (g : BitVec 3) (lo : BitVec 5) (up : BitVec 16) :
    (decodeMaj72 g lo up).map Instr.wf = (leafMaj72 g lo up).map (·.1) := by
  unfold decodeMaj72 leafMaj72
  repeat' first | refine wf_ite ?_ ?_ | refine wf_bind fun _ => ?_ | rfl

theorem leafMaj74_wf (g : BitVec 3) (lo : BitVec 5) (up : BitVec 16) :
    (decodeMaj74 g lo up).map Instr.wf = (leafMaj74 g lo up).map (·.1) := by
  unfold decodeMaj74 leafMaj74
  repeat' first | refine wf_ite ?_ ?_ | refine wf_bind fun _ => ?_ | rfl

theorem leafMaj75_wf (g : BitVec 3) (lo : BitVec 5) (up : BitVec 16) :
    (decodeMaj75 g lo up).map Instr.wf = (leafMaj75 g lo up).map (·.1) := by
  unfold decodeMaj75 leafMaj75
  repeat' first | refine wf_ite ?_ ?_ | refine wf_bind fun _ => ?_ | rfl

theorem leafMaj78_wf (g : BitVec 3) (lo : BitVec 5) (up : BitVec 16) :
    (decodeMaj78 g lo up).map Instr.wf = (leafMaj78 g lo up).map (·.1) := by
  unfold decodeMaj78 leafMaj78
  repeat' first | refine wf_ite ?_ ?_ | refine wf_bind fun _ => ?_ | rfl

theorem leafMaj7C_wf (g : BitVec 3) (lo : BitVec 5) (up : BitVec 16) :
    (decodeMaj7C g lo up).map Instr.wf = (leafMaj7C g lo up).map (·.1) := by
  unfold decodeMaj7C leafMaj7C
  repeat' first | refine wf_ite ?_ ?_ | refine wf_bind fun _ => ?_ | rfl

theorem leafMaj7D_wf (g : BitVec 3) (lo : BitVec 5) (up : BitVec 16) :
    (decodeMaj7D g lo up).map Instr.wf = (leafMaj7D g lo up).map (·.1) := by
  unfold decodeMaj7D leafMaj7D
  repeat' first | refine wf_ite ?_ ?_ | refine wf_bind fun _ => ?_ | rfl

theorem leafMaj7E_wf (g : BitVec 3) (lo : BitVec 5) (up : BitVec 16) :
    (decodeMaj7E g lo up).map Instr.wf = (leafMaj7E g lo up).map (·.1) := by
  unfold decodeMaj7E leafMaj7E
  repeat' first | refine wf_ite ?_ ?_ | refine wf_bind fun _ => ?_ | rfl

@[csimp] theorem majorWf_run : @majorWf = @majorWfRun := by
  funext maj g lo up
  unfold majorWf majorWfRun decodeMajor majorLeaf
  refine wf_ite (leafMaj00_wf g lo up) ?_
  refine wf_ite (leafMaj01_wf g lo up) ?_
  refine wf_ite (leafMaj02_wf g lo up) ?_
  refine wf_ite (leafMaj03_wf g lo up) ?_
  refine wf_ite (leafMaj04_wf g lo up) ?_
  refine wf_ite (leafMaj05_wf g lo up) ?_
  refine wf_ite (leafMaj08_wf g lo up) ?_
  refine wf_ite (leafMaj09_wf g lo up) ?_
  refine wf_ite (leafMaj10_wf g lo up) ?_
  refine wf_ite (leafMaj11_wf g lo up) ?_
  refine wf_ite (leafMaj12_wf g lo up) ?_
  refine wf_ite (leafMaj13_wf g lo up) ?_
  refine wf_ite (leafMaj14_wf g lo up) ?_
  refine wf_ite (leafMaj15_wf g lo up) ?_
  refine wf_ite (leafMaj16_wf g lo up) ?_
  refine wf_ite (leafMaj18_wf g lo up) ?_
  refine wf_ite (leafMaj19_wf g lo up) ?_
  refine wf_ite (leafMaj1A_wf g lo up) ?_
  refine wf_ite (leafMaj20_wf g lo up) ?_
  refine wf_ite (leafMaj21_wf g lo up) ?_
  refine wf_ite (leafMaj22_wf g lo up) ?_
  refine wf_ite (leafMaj23_wf g lo up) ?_
  refine wf_ite (leafMaj24_wf g lo up) ?_
  refine wf_ite (leafMaj25_wf g lo up) ?_
  refine wf_ite (leafMaj26_wf g lo up) ?_
  refine wf_ite (leafMaj27_wf g lo up) ?_
  refine wf_ite (leafMaj28_wf g lo up) ?_
  refine wf_ite (leafMaj29_wf g lo up) ?_
  refine wf_ite (leafMaj2A_wf g lo up) ?_
  refine wf_ite (leafMaj2B_wf g lo up) ?_
  refine wf_ite (leafMaj2C_wf g lo up) ?_
  refine wf_ite (leafMaj2D_wf g lo up) ?_
  refine wf_ite (leafMaj2E_wf g lo up) ?_
  refine wf_ite (leafMaj2F_wf g lo up) ?_
  refine wf_ite (leafMaj30_wf g lo up) ?_
  refine wf_ite (leafMaj31_wf g lo up) ?_
  refine wf_ite (leafMaj38_wf g lo up) ?_
  refine wf_ite (leafMaj39_wf g lo up) ?_
  refine wf_ite (leafMaj40_wf g lo up) ?_
  refine wf_ite (leafMaj41_wf g lo up) ?_
  refine wf_ite (leafMaj42_wf g lo up) ?_
  refine wf_ite (leafMaj43_wf g lo up) ?_
  refine wf_ite (leafMaj44_wf g lo up) ?_
  refine wf_ite (leafMaj45_wf g lo up) ?_
  refine wf_ite (leafMaj46_wf g lo up) ?_
  refine wf_ite (leafMaj47_wf g lo up) ?_
  refine wf_ite (leafMaj48_wf g lo up) ?_
  refine wf_ite (leafMaj50_wf g lo up) ?_
  refine wf_ite (leafMaj51_wf g lo up) ?_
  refine wf_ite (leafMaj52_wf g lo up) ?_
  refine wf_ite (leafMaj53_wf g lo up) ?_
  refine wf_ite (leafMaj54_wf g lo up) ?_
  refine wf_ite (leafMaj58_wf g lo up) ?_
  refine wf_ite (leafMaj59_wf g lo up) ?_
  refine wf_ite (leafMaj5C_wf g lo up) ?_
  refine wf_ite (leafMaj5D_wf g lo up) ?_
  refine wf_ite (leafMaj5E_wf g lo up) ?_
  refine wf_ite (leafMaj68_wf g lo up) ?_
  refine wf_ite (leafMaj69_wf g lo up) ?_
  refine wf_ite (leafMaj6A_wf g lo up) ?_
  refine wf_ite (leafMaj6B_wf g lo up) ?_
  refine wf_ite (leafMaj6C_wf g lo up) ?_
  refine wf_ite (leafMaj70_wf g lo up) ?_
  refine wf_ite (leafMaj71_wf g lo up) ?_
  refine wf_ite (leafMaj72_wf g lo up) ?_
  refine wf_ite (leafMaj74_wf g lo up) ?_
  refine wf_ite (leafMaj75_wf g lo up) ?_
  refine wf_ite (leafMaj78_wf g lo up) ?_
  refine wf_ite (leafMaj7C_wf g lo up) ?_
  refine wf_ite (leafMaj7D_wf g lo up) ?_
  refine wf_ite (leafMaj7E_wf g lo up) ?_
  rfl

end Sys2Proof.Machine
end

