-- ==== Sys2Proof/Machine/Imx.lean ====
section
/-! DEFINITION. The prefix `IMX` (R46 to R48): the following RI or M word decodes, runs and traps with it as one
instruction of eight bytes whose own address is the prefix. -/

namespace Sys2Proof.Machine

/-- Whether the fields of an RI or M word, its immediate aside, are those of an instruction (R47, R52, R53, R105). -/
def pairFields (p0 p1 : BitVec 16) : Bool :=
  let d := p0.extractLsb' 0 5
  match majorOf p0 with
  | 0x08 => (p1.extractLsb' 12 4).ult 10#4
  | 0x09 => d.ult 8#5
  | 0x2C => d.ult 2#5
  | _ => true

/-- The body of an RI or M word with the immediate of a pair, or none where its fields or the immediate are out of
range (R44, R52, R53, R105). -/
def pairBody (p0 p1 : BitVec 16) (imm : Word) : Option (State → Effect) :=
  let d := p0.extractLsb' 0 5
  let f := p1.extractLsb' 12 4
  let shift (body : Word → BitVec 5 → State → Effect) : Option (State → Effect) :=
    if imm.ult 64#64 then some (body imm d) else none
  match majorOf p0 with
  | 0x08 =>
    match f.toNat with
    | 0 => some (moviBody imm d)
    | 1 => some (addiBody imm d)
    | 2 => some (andiBody imm d)
    | 3 => some (oriBody imm d)
    | 4 => some (xoriBody imm d)
    | 5 => shift shliBody
    | 6 => shift shriBody
    | 7 => shift sraiBody
    | 8 => some (muliBody imm d)
    | 9 => some (movhBody imm d)
    | _ => none
  | 0x09 =>
    if d.ult 8#5 then
      (ICmpCc.ofCode (f.extractLsb' 0 2).toNat).map fun c => icmpiBody imm (f.extractLsb' 2 2) c (d.extractLsb' 0 3)
    else none
  | 0x20 => some (ldBBody imm f d)
  | 0x21 => some (ldBuBody imm f d)
  | 0x22 => some (ldHBody imm f d)
  | 0x23 => some (ldHuBody imm f d)
  | 0x24 => some (ldWBody imm f d)
  | 0x25 => some (ldWuBody imm f d)
  | 0x26 => some (ldDBody imm f d)
  | 0x27 => some (ldxDBody imm f d)
  | 0x28 => some (stBBody imm f d)
  | 0x29 => some (stHBody imm f d)
  | 0x2A => some (stWBody imm f d)
  | 0x2B => some (stDBody imm f d)
  | 0x2C => if d.ult 2#5 then some (prefBody imm f (d.extractLsb' 0 1)) else none
  | _ => none

/-- Whether the brick is one that decode accepts, where it is not of format RI or M (R47). -/
def validBrick (p0 p1 : BitVec 16) : Bool :=
  majorWf (majorOf p0) (p0.extractLsb' 5 3) (p0.extractLsb' 0 5) p1 == some true

/-- The scalar registers that the second word of a pair reads (R44, R52, R53). -/
def pairReads (p0 p1 : BitVec 16) : List (BitVec 5) :=
  let d := p0.extractLsb' 0 5
  let maj := majorOf p0
  if maj = 0x08 then (if p1.extractLsb' 12 4 = 0#4 then [] else [d])
  else if maj = 0x09 then []
  else if 0x28 ≤ maj ∧ maj ≤ 0x2B then [baseReg (p1.extractLsb' 12 4), d]
  else [baseReg (p1.extractLsb' 12 4)]

namespace State

/-- The lowest enabled breakpoint at an address, at user level (R210). -/
def breakpointAt (s : State) (a : Word) : Option Nat :=
  if s.me.level || s.me.skip then none
  else (List.range 8).find? fun n =>
    let b := s.me.bp.toList.getD n 0
    b.getLsbD 0 && (b &&& 0x0000FFFFFFFFFFFE#64) == a

/-- Whether an active pair's loop ends at an address (R116). -/
def loopEndsAt (s : State) (a : Word) : Bool := (List.range 4).any fun n => s.me.endsAt (BitVec.ofNat 2 n) a

/-- The pair of the prefix at the pc with the brick `p0`, `p1` after it (R47, R117). A following word of major 0x7F whose reserved bits
are not zero fits two rows of R47's table; here its major decides, and it is PREFIX_MISUSE (log 70). -/
def runPair (s : State) (p : BitVec 4) (q p0 p1 : BitVec 16) : State :=
  let next := s.own + 4#64
  let misuse := s.raise .prefixMisuse next
  if majorOf p0 = 0x7F then misuse
  else if extendsImm (majorOf p0) then
    match pairBody p0 p1 (immPair p q (p1.extractLsb' 0 12)) with
    | none => s.raise .illegal (if pairFields p0 p1 then 0 else next)
    | some body =>
      if s.loopEndsAt next || (s.breakpointAt next).isSome then misuse
      else if s.loopEndsAt (next + 2#64) then s.raise .illegal 0
      else
        let g := p0.extractLsb' 5 3
        if s.readP g && (pairReads p0 p1).any s.me.isPending then
          s.holdFor (.operands ((pairReads p0 p1).map fun n => (.s, s.me.bankOf n)))
        else s.guarded g 8 body
  else if validBrick p0 p1 then misuse
  else s.raise .illegal next

end State

/-- The skip bit covers both words of a pair, and no more (R210). -/
def State.clearSkip (s : State) : State := s.setMe { s.me with skip := false }

/-- `IMX` (R46, R47). -/
def execImx (p : BitVec 4) (q : BitVec 16) (s : State) : Out :=
  let next := s.own + 4#64
  .next ((match s.fetchWord next with
    | (t, .error f) => t.fetchFailed (f.named next)
    | (t, .ok [p0, p1]) => t.runPair p q p0 p1
    | (t, .ok _) => t.raise .prefixMisuse next).clearSkip)

end Sys2Proof.Machine
end

