-- ==== Sys2Proof/Machine/Names.lean ====
section
/-! DEFINITION. What the fields of a word say before it executes: the registers that it reads and writes (R38, R40, R94), its
engine and its occupancy (R170, R172), and whether its stream waits for it (R19, R95). -/

namespace Sys2Proof.Machine

/-! ## What the fields of a word say -/

/-- The scalar registers that a word reads, from its parcels (R38, R40, and the formats of the majors). Fields that a
word leaves unused are 0 and name `S0`, which is never awaited. -/
def scalarReads : List (BitVec 16) → List (BitVec 5)
  | [p] =>
    let fa := p.extractLsb' 5 5
    let fb := p.extractLsb' 0 5
    match (p.extractLsb' 10 5).toNat with
    | 0x01 | 0x0B | 0x0D => [fb]
    | 0x0E | 0x0F => []
    | _ => [fa, fb]
  | [p0, p1] =>
    let lo := p0.extractLsb' 0 5
    let d := p1.extractLsb' 11 5
    let a := p1.extractLsb' 6 5
    let b := p1.extractLsb' 1 5
    let k := p1.extractLsb' 0 5
    let sv := p1.extractLsb' 3 5
    let base := baseReg (p1.extractLsb' 12 4)
    match majorOf p0 with
    | 0x00 | 0x01 | 0x03 | 0x10 | 0x12 | 0x13 | 0x14 | 0x16 => [a, b]
    | 0x02 => if lo = 13#5 then [d, a, b] else [a, b]
    | 0x04 => if lo = 2#5 ∨ lo = 3#5 ∨ lo = 5#5 ∨ lo = 7#5 then [a] else []
    | 0x05 => if lo.ult 2#5 then [d, a, b] else [a, b]
    | 0x08 => if p1.extractLsb' 12 4 = 0#4 then [] else [lo]
    | 0x15 => if lo.extractLsb' 1 1 = 0#1 then [d, a, b] else [a]
    | 0x19 => [d]
    | 0x1A => [p1.extractLsb' 9 5]
    | 0x20 | 0x21 | 0x22 | 0x23 | 0x24 | 0x25 | 0x26 | 0x27 | 0x2C => [base]
    | 0x28 | 0x29 | 0x2A | 0x2B => [base, lo]
    | 0x2D => if lo = 14#5 ∨ lo = 15#5 then [d, a, b] else [a, b]
    | 0x2E => if lo.ult 2#5 then [a] else [a, b]
    | 0x2F => [a, b]
    | 0x31 | 0x39 => [a]
    | 0x38 => if lo = 3#5 then [a, 1#5, 2#5, 3#5, 4#5] else [a]
    | 0x78 => if 2 ≤ lo.toNat ∧ lo.toNat ≤ 4 then [d, a] else [a]
    | 0x50 | 0x51 | 0x58 | 0x59 | 0x5A | 0x5B | 0x70 | 0x74 => [sv]
    | 0x72 => if lo.ult 4#5 then [] else [sv]
    | 0x54 => if lo = 3#5 ∨ lo = 4#5 then [p1.extractLsb' 7 5] else []
    | 0x71 => if lo = 0#5 then [a] else []
    | 0x7C => if p1.extractLsb' 12 4 = 0#4 then [] else [lo]
    | 0x7D => if lo = 4#5 then [a] else []
    | 0x7E => if lo = 0#5 then [a, k] else if lo = 4#5 ∨ lo = 5#5 then [a] else []
    | _ => []
  | _ => []

/-- The engine that takes a word, from its parcels (R170). The global form of `CBK.LD` is the tile-memory unit's, as
R172 has it (log 68); the fences, `TASK` words and tree commands hold no engine (log 69). -/
def engineOf : List (BitVec 16) → Option Engine
  | [p] =>
    if (p.extractLsb' 10 5).toNat = 0x0B ∨ (p.extractLsb' 10 5).toNat = 0x0C then some .loadStore else none
  | p0 :: _ :: _ =>
    let maj := majorOf p0
    let lo := p0.extractLsb' 0 5
    if (0x40 ≤ maj ∧ maj ≤ 0x4B) ∨ (0x52 ≤ maj ∧ maj ≤ 0x54) ∨ maj = 0x75 then some .vector
    else if 0x58 ≤ maj ∧ maj ≤ 0x5E then some .tileMem
    else if maj = 0x6B ∧ (lo = 2#5 ∨ lo = 3#5) then some .tileMem
    else if 0x68 ≤ maj ∧ maj ≤ 0x6C then some .matrix
    else if maj = 0x74 then some .tileMem
    else if maj = 0x72 then some .copy
    else if (0x20 ≤ maj ∧ maj ≤ 0x2F) ∨ maj = 0x31 ∨ maj = 0x50 ∨ maj = 0x51 then some .loadStore
    else if maj = 0x70 then (if lo.ult 4#5 then some .loadStore else none)
    else if maj = 0x7E ∧ lo = 4#5 then some .loadStore
    else none
  | _ => none

/-- The cycles for which a word occupies its engine at full width (R158, R172); 1 where the spec names no figure. -/
def occupancyOf : List (BitVec 16) → Nat
  | p0 :: _ :: _ =>
    let maj := majorOf p0
    let lo := (p0.extractLsb' 0 5).toNat
    if (maj = 0x40 ∧ lo = 3) ∨ (maj = 0x41 ∧ lo < 5) then 4
    else if maj = 0x47 then 2
    else if maj = 0x68 ∨ maj = 0x6A then 64
    else if maj = 0x69 then 32
    else if maj = 0x6B ∧ 2 ≤ lo then 128
    else if maj = 0x6B ∨ maj = 0x6C then 16
    else if 0x58 ≤ maj ∧ maj ≤ 0x5E then 16
    else if maj = 0x74 then 4
    else 1
  | _ => 1

/-- Words that wait for their guard and their operands whatever the guard is: transfers (R41, R95), `XSET`, `SYSW`,
`SYSX`, `RANGE.TAG` and `RANGE.CLR` (R127, R131, R395). -/
def waitsAlways : List (BitVec 16) → Bool
  | [p0, p1] =>
    let maj := majorOf p0
    let lo := p0.extractLsb' 0 5
    maj == 0x18 || maj == 0x19 || (maj == 0x71 && lo == 0#5) ||
      (maj == 0x7C && p1.extractLsb' 12 4 != 0#4) || (maj == 0x7E && lo.ult 3#5)
  | _ => false

/-- The guard under which a word reads its registers: none for a bat and for a word that waits in any case. -/
def guardOf (ps : List (BitVec 16)) : BitVec 3 :=
  match ps with
  | [p0, _] => if waitsAlways ps then 0#3 else p0.extractLsb' 5 3
  | _ => 0#3

/-- Words that block their stream until their data or their reply has come (R19): scalar loads (R234), `ATOM` forms (R245),
`NEST.CLAIM`, `TASK.SPAWN` and `CANCEL`. -/
def awaitsReply : List (BitVec 16) → Bool
  | [p] => (p.extractLsb' 10 5).toNat == 0x0B
  | [p0, _] =>
    let maj := majorOf p0
    let lo := p0.extractLsb' 0 5
    (0x20 ≤ maj && maj ≤ 0x27) || (maj == 0x2D && lo.ult 17#5) || (maj == 0x2E && lo.ult 2#5) ||
      (maj == 0x38 && (lo == 0#5 || lo == 4#5)) || (maj == 0x7E && lo == 4#5)
  | _ => false

/-- Words that fetch or their stream cannot go past while an operand has not been produced: `JR`, the transfers and
`LOOP` (R95), those of R127, R131 and R395, and those for whose reply the stream blocks: scalar loads, `ATOM` forms,
`NEST.CLAIM`, `TASK.SPAWN` and `CANCEL` (R19). -/
def blocksStream : List (BitVec 16) → Bool
  | [p] => let op := (p.extractLsb' 10 5).toNat
    op == 0x0B || op == 0x0D
  | [p0, p1] =>
    let maj := majorOf p0
    let lo := p0.extractLsb' 0 5
    waitsAlways [p0, p1] || (maj == 0x1A && lo == 0#5) || awaitsReply [p0, p1]
  | _ => false

/-- Words that take a physical register for a token or a reply: copies, `COPY.RESUME` and the tree commands (R262, R379). -/
def takesToken : List (BitVec 16) → Bool
  | [p0, _] => (majorOf p0 == 0x72 && (p0.extractLsb' 0 5).ult 5#5) || majorOf p0 == 0x78
  | _ => false

/-- Words with an operand that decides where fetch goes on (R95): a guarded branch, a transfer through a register, `LOOP`. -/
def steersFetch : List (BitVec 16) → Bool
  | [p] => (p.extractLsb' 10 5).toNat == 0x0D
  | [p0, _] =>
    let maj := majorOf p0
    (maj == 0x18 && p0.extractLsb' 5 3 != 0#3) || maj == 0x19 || (maj == 0x1A && p0.extractLsb' 0 5 == 0#5)
  | _ => false

/-- `ERET` and `ERET.STEP`, which are serialising (R208). -/
def isEret : List (BitVec 16) → Bool
  | [p0, _] => majorOf p0 == 0x7D && (p0.extractLsb' 0 5).ult 2#5
  | _ => false

/-- The guard field of a word: none for a bat (R41). -/
def guardField : List (BitVec 16) → BitVec 3
  | [p0, _] => p0.extractLsb' 5 3
  | _ => 0#3

/-- Words whose effect reaches other agents at once, or that wait for every older entry (R208, R284, R305): they take
effect as the oldest entry of their partition, so that no squash can make them take effect twice (log 67). -/
def actsOnce : List (BitVec 16) → Bool
  | [p0, _] =>
    let maj := majorOf p0
    let lo := p0.extractLsb' 0 5
    (maj == 0x2D && lo.ult 17#5) || (maj == 0x2F && lo != 2#5 && lo != 3#5) || maj == 0x30 || maj == 0x31 ||
      (maj == 0x38 && lo != 5#5) || maj == 0x39 || (maj == 0x72 && !lo.ult 2#5) || (maj == 0x7D && lo.ult 2#5) ||
      (maj == 0x7E && (lo.ult 3#5 || lo == 4#5))
  | _ => false

/-! ## Registers by name -/

/-- The name of S[n] in a stream: at supervisor level `S28` and `S29` are the supervisor bank (R199). -/
def Stream.scalarName (t : Stream) (n : BitVec 5) : RegName := (.s, t.bankOf n)

/-- Names of one file, and of every predicate. -/
def namesIn (f : RegFile) (l : List Nat) : List RegName := l.map fun n => (f, n)

/-- Whether `TCVT` to format code `fd` from `fs` keeps a part of its destination, which it then reads: `fd` has more elements in
a tile row than `fs` (R184). -/
def keepsTile (fd fs : Nat) : Bool :=
  match TileFmt.ofCode fd, TileFmt.ofCode fs with
  | some d, some s => decide (s.elems < d.elems)
  | _, _ => false

/-- The registers other than scalars that a word reads, from its parcels. -/
def otherReads : List (BitVec 16) → List RegName
  | [p0, p1] =>
    let lo := p0.extractLsb' 0 5
    let n := lo.toNat
    let d := field p1 12 4
    let a := field p1 8 4
    let b := field p1 4 4
    let c := field p1 0 4
    let guard := namesIn .p (if p0.extractLsb' 5 3 = 0#3 then [] else [field p0 5 3])
    guard ++ match majorOf p0 with
    | 0x04 => if n = 6 then namesIn .p [1, 2, 3, 4, 5, 6, 7] else if n = 0 ∨ n = 1 ∨ n = 4 then [(.l, field p1 6 2)] else []
    | 0x09 => [(.l, field p1 14 2)]
    | 0x11 => namesIn .p [field p1 6 3, field p1 1 3]
    | 0x12 => [(.p, field p0 0 3)]
    | 0x1A => if n = 1 then [(.l, field p1 14 2)] else []
    | 0x40 => namesIn .v (if n = 6 ∨ n = 7 then [d, a, b] else [a, b])
    | 0x41 => namesIn .v (if n = 7 then [a, b] else [a])
    | 0x42 => namesIn .v (if n = 13 ∨ n = 14 then [a] else if n = 15 then [d, a, b] else [a, b])
    | 0x43 => namesIn .v (if n < 4 ∨ (5 ≤ n ∧ n < 8) then [a, b] else [a])
    | 0x44 => namesIn .v [a, b]
    | 0x45 => namesIn .v (if n = 0 then [a, b, c] else [a])
    | 0x46 =>
      if n = 17 then [(.v, a), (.k, field p1 4 2)]
      else namesIn .v (if 6 ≤ n ∧ n < 10 ∨ n = 11 ∨ n = 12 then [d, a, b] else if n = 4 ∨ n = 5 ∨ n = 10 then [a, b] else [a])
    | 0x47 => [(.v, a)]
    | 0x48 => if n = 0 then [(.v, a)] else []
    | 0x50 => if n = 5 ∨ n = 6 then [(.v, a)] else []
    | 0x51 => namesIn .v (if 4 ≤ n then [d, a] else [a])
    | 0x52 => namesIn .v (if n = 1 ∨ n = 2 then [a] else [a, b])
    | 0x53 => [(.v, a)]
    | 0x54 =>
      if n = 0 then [(.t, a)] else if n = 1 then [(.t, d), (.v, a)] else if n = 2 then [(.v, field p1 7 4)]
      else if n = 3 then [(.v, d)] else []
    | 0x58 => [(.h, a)]
    | 0x59 => [(.t, d), (.h, a)]
    | 0x5C => if n = 0 then [(.t, a)] else []
    | 0x5D => (.t, a) :: ((if keepsTile n b then [(.t, d)] else []) ++ if b = 6 then [(.k, field p1 0 2)] else [])
    | 0x5E => if n = 6 then [(.t, a), (.k, field p1 4 2)] else [(.t, a)]
    | 0x68 => [(.c, field p1 12 2), (.t, a), (.t, b)]
    | 0x69 => [(.c, field p1 12 2), (.t, a), (.t, b), (.t, c)]
    | 0x6A => [(.c, field p1 12 2), (.t, a), (.t, b)] ++ (if n = 2 ∨ n = 4 then [] else [(.k, field p1 2 2)]) ++
      (if n = 1 ∨ n = 3 then [] else [(.k, field p1 0 2)])
    | 0x6B =>
      if n = 1 then [(.c, field p1 8 2)] else if n = 2 then [(.h, a)]
      else if n = 3 then [(.c, field p1 12 2), (.h, a)] else []
    | 0x6C => if n < 6 then [(.t, d), (.c, field p1 8 2)] else [(.c, field p1 8 2), (.v, b)]
    | 0x70 => if n < 2 then [] else if n < 4 then [(.h, a)] else [(.h, d)]
    | 0x72 => if n < 4 then [(.h, d), (.h, a)] else []
    | 0x75 =>
      if n < 2 then [(.v, d), (.v, a), (.v, b), (.k, field p1 0 2)] else namesIn .v (if n = 2 then [a, b] else [a])
    | 0x7E => if n = 1 then [(.h, c)] else []
    | _ => []
  | _ => []

/-- The registers that a word reads. -/
def Stream.readNames (t : Stream) (ps : List (BitVec 16)) : List RegName :=
  ((scalarReads ps).filter (· != 0#5)).map t.scalarName ++ otherReads ps

/-- The scalar register that a word writes with its own result; a token or a reply comes later. -/
def scalarWrite : List (BitVec 16) → Option (BitVec 5)
  | [p] =>
    match (p.extractLsb' 10 5).toNat with
    | 0x0C | 0x0D | 0x0E => none
    | 0x0F => some 31#5
    | _ => some (p.extractLsb' 5 5)
  | [p0, p1] =>
    let lo := p0.extractLsb' 0 5
    let n := lo.toNat
    let d := p1.extractLsb' 11 5
    match majorOf p0 with
    | 0x00 | 0x01 | 0x02 | 0x03 | 0x05 | 0x12 | 0x14 | 0x15 | 0x16 => some d
    | 0x04 => if n = 0 ∨ n = 1 ∨ n = 4 ∨ n = 6 ∨ n = 8 then some d else none
    | 0x08 | 0x20 | 0x21 | 0x22 | 0x23 | 0x24 | 0x25 | 0x26 | 0x27 => some lo
    | 0x18 | 0x19 => if lo.extractLsb' 0 4 = 1#4 then some 31#5 else none
    | 0x2D => if n < 17 then some d else none
    | 0x2E | 0x2F => if n < 2 then some d else none
    | 0x31 => if n = 2 then some d else none
    | 0x38 => if n = 4 ∨ n = 5 then some d else none
    | 0x39 => if n = 3 then some d else none
    | 0x54 => if n = 2 then some d else none
    | 0x71 => if n = 1 then some d else none
    | 0x7C => if p1.extractLsb' 12 4 = 1#4 then none else some lo
    | 0x7D => if n = 3 ∨ n = 5 then some d else none
    | 0x7E => if 3 ≤ n then some d else none
    | _ => none
  | _ => none

/-- The registers other than scalars that a word writes. -/
def otherWrites : List (BitVec 16) → List RegName
  | [p0, p1] =>
    let n := field p0 0 5
    let d := field p1 12 4
    let p : List RegName := [(.p, field p1 11 3)]
    match majorOf p0 with
    | 0x04 => if n = 2 ∨ n = 3 ∨ n = 5 then [(.l, field p1 11 2)] else if n = 7 then namesIn .p [1, 2, 3, 4, 5, 6, 7] else []
    | 0x09 => [(.p, field p0 0 3)]
    | 0x10 | 0x11 | 0x13 => p
    | 0x1A => [(.l, field p1 14 2)]
    | 0x2F => if n = 4 ∨ n = 6 ∨ n = 8 then p else []
    | 0x38 => if n = 0 then p else []
    | 0x39 => if n = 0 ∨ n = 2 ∨ n = 4 then p else []
    | 0x40 | 0x41 | 0x42 | 0x43 | 0x44 | 0x46 | 0x47 | 0x48 | 0x50 | 0x52 | 0x53 | 0x75 => [(.v, d)]
    | 0x45 => if n = 0 then [(.v, d)] else [(.p, field p1 12 3)]
    | 0x54 => if n = 1 then [(.t, d)] else if n = 2 then [] else [(.v, d)]
    | 0x58 | 0x5C | 0x5D | 0x5E => [(.t, d)]
    | 0x68 | 0x69 | 0x6A => [(.c, field p1 12 2)]
    | 0x6B => if n < 3 then [(.c, field p1 12 2)] else []
    | 0x6C => if n < 6 then [(.t, d)] else [(.c, field p1 12 2)]
    | 0x70 => if n < 2 ∨ n = 4 ∨ n = 5 then [(.h, d)] else []
    | 0x74 => [(.k, field p1 12 2)]
    | _ => []
  | _ => []

/-- The registers that a word produces; `S0` and `P0` take no write. -/
def Stream.writeNames (t : Stream) (ps : List (BitVec 16)) : List RegName :=
  (match scalarWrite ps with
    | some n => if n = 0#5 then [] else [t.scalarName n]
    | none => []) ++ (otherWrites ps).filter (· != (.p, 0))

/-- The global instructions of which the tile-memory unit holds at most 8 that have not completed: those whose handle
describes global memory, and the global form of `CBK.LD` (R172). -/
def Stream.holdsTileUnit (t : Stream) (ps : List (BitVec 16)) : Bool :=
  match ps with
  | [p0, p1] =>
    let maj := majorOf p0
    let n := field p0 0 5
    let isLocal := Handle.space (t.h.toList.getD (field p1 8 4) 0)
    (maj == 0x74 && n == 0) || ((maj == 0x58 || maj == 0x59 || (maj == 0x6B && (n == 2 || n == 3))) && !isLocal)
  | _ => false

end Sys2Proof.Machine
end

