-- ==== Sys2Proof/Machine/Trb.lean ====
section
/-! DEFINITION. What an entry of the TRB waits for (R94, R164, R171): its sources, and a physical register for each of its
destinations. -/

namespace Sys2Proof.Machine

/-- Whether register `n` has been produced as the word behind the entries of a list reads it: its youngest writer among
them, if there is one, has completed (R94, R164). -/
def producedBehind (older : List TrbEntry) (n : RegName) : Bool :=
  match older.reverse.find? fun e => e.writes.contains n with
  | some e => e.completed
  | none => true

namespace Stream

/-- The entries of a partition that are older than the one with the given number. -/
def olderThan (t : Stream) (seq : Nat) : List TrbEntry := t.trb.filter fun e => decide (e.seq < seq)

/-- Whether what is not renamed may be written: every older word that names the codebook has completed (R162), and every
older reader of the handle has issued (R123). -/
def mayOverwrite (older : List TrbEntry) (n : RegName) : Bool :=
  match n.1 with
  | .k => older.all fun f => f.completed || !(f.reads.contains n || f.writes.contains n)
  | .h => older.all fun f => f.begun || !f.reads.contains n
  | _ => true

/-- Every source of an entry has been produced, and what it overwrites is no longer needed. What R169 asks of its accesses holds
when its word takes effect. -/
def sourcesReady (t : Stream) (e : TrbEntry) : Bool :=
  let older := t.olderThan e.seq
  e.reads.all (producedBehind older) && e.writes.all (mayOverwrite older)

/-- The registers of a list that a word at the pc would still have to wait for: no token is still to come, and no engine
has yet to write them. -/
def unproduced (t : Stream) (l : List RegName) : List RegName :=
  l.filter fun n => (n.1 == .s && t.pending.any fun e => e.reg == n.2) || !producedBehind t.trb n

end Stream

/-- Physical registers of a core beyond those of the committed values (R164). -/
def spareRegisters : RegFile → Option Nat
  | .s => some 132
  | .v => some 32
  | .t => some 96
  | .c => some 8
  | _ => none

namespace State

/-- The streams of a core. -/
def streamsAt (c : Nat) : List Nat := (List.range 4).map fun i => 4 * c + i

/-- The entries of a core's partitions with their streams. -/
def coreEntries (s : State) (c : Nat) : List (Nat × TrbEntry) :=
  ((List.range 4).map fun j => (s.stream (4 * c + j)).trb.map fun e => (j, e)).flatten

/-- A change of one entry of a stream. -/
def mapEntry (s : State) (q seq : Nat) (f : TrbEntry → TrbEntry) : State :=
  let t := s.stream q
  s.setStream q { t with trb := t.trb.map fun e => if e.seq = seq then f e else e }

/-- The tokens and STE replies of a core's streams that are still to be written: of the copies whose records have not stopped,
and of the tree commands and their replies on the way. -/
def tokensOut (s : State) (c : Nat) : Nat :=
  let live (r : CopyRec) : Bool := match r.phase with
    | .faulted .. => false
    | _ => true
  ((s.core c).copies.filter fun e => live e.2).length +
    (s.net.filter fun m => match m with
      | .steCmd _ x => x.stream / 4 == c
      | .steReply q _ _ _ => q / 4 == c
      | _ => false).length +
    ((s.stes.map fun e => (e.2.queue.filter fun x => x.stream / 4 = c).length).foldl (· + ·) 0)

/-- Physical registers of a file that a core's entries have taken. A token's or a reply's register stays allocated until it is
written, whatever becomes of the name it was taken for (R164, R262). -/
def registersTaken (s : State) (c : Nat) (f : RegFile) : Nat :=
  (((s.coreEntries c).filter fun x => x.2.issued).map fun x => (x.2.writes.filter fun n => n.1 == f).length).foldl (· + ·) 0 +
    (if f = .s then s.tokensOut c else 0)

/-- A free physical register for the token of a copy, or for the reply of a tree command (R262). -/
def tokenRoom (s : State) (c : Nat) : Bool := decide (s.registersTaken c .s < (spareRegisters .s).getD 0)

/-- The entry of stream `q` with the given number completes: its read is no longer counted (R165, R397). -/
def completeEntry (s : State) (q seq : Nat) : State :=
  let t := s.stream q
  let done (e : TrbEntry) : TrbEntry := if e.seq = seq then { e with issued := true, completed := true, counted := [] } else e
  let counts := (t.trb.filter fun e => e.seq == seq).flatMap TrbEntry.counted
  s.setStream q ({ t with trb := t.trb.map done }.uncount counts)

/-- A physical register is free for each destination of an entry (R164). -/
def poolRoom (s : State) (c : Nat) (e : TrbEntry) : Bool :=
  [RegFile.s, .v, .t, .c].all fun f =>
    let n := (e.writes.filter fun n => n.1 == f).length
    n == 0 || (match spareRegisters f with
      | some k => decide (s.registersTaken c f + n ≤ k)
      | none => true)

/-- An entry that takes no engine completes once its sources are there, a register is free for each destination, and its
word does not wait (R93, R165). -/
def settleEntry (s : State) (q : Nat) (e : TrbEntry) : State :=
  let t := s.stream q
  if e.engine.isNone && !e.completed && t.sourcesReady e && s.poolRoom (q / 4) e && !(t.atWait && e.seq == t.seqNext) then
    s.completeEntry q e.seq
  else s

/-- The front-end entries of a stream complete as far as they can, oldest first. -/
def settleTrb (s : State) (q : Nat) : State := (s.stream q).trb.foldl (fun u e => u.settleEntry q e) s

end State

end Sys2Proof.Machine
end

