-- ==== Sys2Proof/Machine/Front.lean ====
section
/-! DEFINITION. The front of a stream's decoder: what the parcels of a word say (R38, R40), the engines (R170), events
(R167, R201, R202), decode slots and TRB entries (R163). -/

namespace Sys2Proof.Machine

/-! ## Words and prefixes -/

/-- Whether the parcels are an instruction (R49, step 3). -/
def validWord : List (BitVec 16) → Bool
  | [p] => match decodeBatChecked p with
    | .ok _ => true
    | .error _ => false
  | [p0, p1] =>
    if majorOf p0 = 0x7F then p0.extractLsb' 0 4 == 0#4
    else assignedMajor (majorOf p0) && validBrick p0 p1
  | _ => false

/-- Whether the first parcel is that of a prefix. -/
def isPrefix : List (BitVec 16) → Bool
  | p0 :: _ => isBrick p0 && majorOf p0 == 0x7F
  | [] => false

/-! ## Events (R167, R201, R202) -/

/-- The event that would be taken first, with its `SYS.EADDR` (R200, R201). -/
def Stream.firstEvent (t : Stream) : Option (Cause × Word) :=
  if t.pend.getLsbD 4 then some (.cancelled, ((t.task.getD {}).tag).setWidth 64)
  else if t.pend.getLsbD 3 then some (.groupBroken, t.brokenGroup.setWidth 64)
  else if t.pend.getLsbD 2 then some (.hostIrq, t.hval.setWidth 64)
  else if t.pend.getLsbD 1 then some (.timer, 0)
  else if t.pend.getLsbD 0 then some (.migrate, t.meshBefore)
  else none

/-- The event that the stream takes at its event point: none at supervisor level (R204), while a word is
single-stepped (R209), for an idle stream, or for one that a SERVE launch placed in `TASK.NEXT` (R202). -/
def Stream.dueEvent (t : Stream) : Option (Cause × Word) :=
  if t.level || t.step || t.run = .idle || t.run = .moving || t.wait = .taskNext true then none else t.firstEvent

namespace State

/-! ## Blocking (R19) -/

/-- Whether what a blocked stream waits for has arrived. -/
def released (s0 : State) (q : Nat) : Bool :=
  let s := { s0 with cur := q }
  match s.me.wait with
  | .operands l => (s.me.unproduced l).isEmpty
  | .room => decide (s.me.trb.length < Config.trbPartition)
  | .reads l => !(l.any (s.rangeHeld q)) && (s.drainOver l).2 &&
      !s.me.countFull (s.me.tracking s.myCore l)
  | .agentRoom => !agentFull (SMap.get {} (s.die s.myDie).agents (agentOf s.myCore))
  | .link _ rows _ => rows.all s.rowCarries
  | .fills => !s.heldBack s.cur
  | .data n => !(s.me.trb.any fun e => e.seq == n && !e.completed)
  | .older => s.drainAll.2 && (s.steCommands q).isEmpty
  | .retired => s.me.trb.isEmpty
  | _ => false

/-- A blocked stream becomes ready when what it waits for has arrived (R19). -/
def release (s : State) (q : Nat) : State :=
  let t := s.stream q
  if t.run = .blocked ∧ s.released q then s.setStream q { t with run := .ready, wait := .none } else s

/-- The streams of a core become ready as far as what they wait for has arrived. -/
def releaseCore (s : State) (c : Nat) : State := (List.range 4).foldl (fun t j => t.release (4 * c + j)) s

/-- Whether the decoder may take a word of the stream: it is ready. While its core moves, a stream runs no further than
the end of its handler (R206, R219). -/
def decodes (s : State) (q : Nat) : Bool :=
  (s.stream q).run = .ready && ((s.stream q).level || !(s.core (q / 4)).moving)

/-- Taking a decode slot: the rotation and the course of the core (R25). -/
def takeSlot (s : State) (q : Nat) : State :=
  let k := s.core (q / 4)
  let course := if q % 4 ≤ k.lastStream then k.course + 1 else k.course
  s.setCore (q / 4) { k with
    lastStream := q % 4
    decodedAt := if h : q % 4 < 4 then k.decodedAt.set (q % 4) k.cycle else k.decodedAt
    course := course }

/-- The word of the running stream enters its partition of the TRB (R163), with the registers before it. `ps` are the
parcels of the word, those of the second word for a prefixed pair. Its number is `seqNext`. With a false guard it takes no
engine and no register (R41, R196). -/
def enterTrb (s : State) (ps : List (BitVec 16)) : State :=
  let t := s.me
  let on := s.readP (guardField ps)
  let e : TrbEntry := {
    seq := t.seqNext + 1, engine := if on then engineOf ps else none, course := (s.core s.myCore).course
    occ := if on then occupancyOf ps else 1
    reads := if on then t.readNames ps else namesIn .p [(guardField ps).toNat]
    writes := if on then t.writeNames ps else [], isGlobal := on && t.holdsTileUnit ps, once := actsOnce ps
    before := t.regs }
  s.setMe { t with seqNext := t.seqNext + 1, trb := t.trb ++ [e], run := .ready, wait := .none }

/-- The word of the running stream's entry `seq` awaits its data or its reply: the stream is blocked until the entry has
completed (R19). -/
def awaitData (s : State) (q seq : Nat) : State :=
  let t := s.stream q
  if t.run = .ready ∧ t.wait = .none then s.setStream q { t with run := .blocked, wait := .data seq } else s

/-- A partition that has no entry left blocks its stream (R19, R163). -/
def blockIfFull (s : State) (q : Nat) : State :=
  let t := s.stream q
  if t.run = .ready ∧ t.wait = .none ∧ Config.trbPartition ≤ t.trb.length then
    s.setStream q { t with run := .blocked, wait := .room }
  else s

/-- What words behind it have read ahead and read again once the word has been decoded: `ERET`, which is serialising, all of it
(R208); a word whose operand decides where fetch goes on, their home reads, which follow what led there (R95, R280, R436,
log 28). -/
def orderReads (s : State) (q : Nat) (ps : List (BitVec 16)) : State :=
  { s with ahead := s.ahead.filter fun a => !(a.stream == q && (isEret ps || (a.via == .home && steersFetch ps))) }

/-- The word of stream `q` of state `s`, entered as number `seq`, has been executed, and the state is `v`. A word that is
held leaves its entry and keeps its skip bit, and its stream is blocked where R19 lists its wait. Any other word has been
decoded: its bank counts it (R404), its entry completes when it can, and it blocks its stream where it awaits its data or its
reply. -/
def ran (v s : State) (seq : Nat) (ps : List (BitVec 16)) : State :=
  let q := s.cur
  let x := v.stream q
  if x.wait.holds then
    v.setStream q { (x.dropEntries fun e => e.seq == seq) with
      skip := s.me.skip
      wait := match s.me.wait, x.wait with
        | .link n _ _, .link _ l a => .link n l a
        | _, w => w
      run := if x.wait != .retry && blocksStream ps then .blocked else .ready }
  else
    let w := ((v.orderReads q ps).addBank s.myDie s.myCtxId 46 1).mapEntry q seq fun e => { e with acted := e.once }
    let y := if awaitsReply ps && s.readP (guardField ps) && w.inTrb q seq then w.awaitData q seq else w
    (y.settleTrb q).blockIfFull q

/-- The word of the running stream of `s` has raised a cause or stopped its stream, in `v`, while older entries of its partition
have not retired, or a stepped word's write would find no room in the store queue: it is held until they have (R166, R209,
R234). -/
def tooEarly (s v : State) : Bool :=
  (v.stream s.cur).trb.isEmpty &&
    (!s.me.trb.isEmpty || (s.me.step && decide (Config.storeQueueSize ≤ s.me.storeQ.length)))

/-- The message of a completion or a release that is on its way to a stream that waits at a barrier. -/
def barrierNews (s : State) (q : Nat) : Option Nat :=
  s.net.findIdx? fun m => match m with
    | .barDone p _ _ _ _ => p == q
    | .barBroken p _ _ => p == q
    | _ => false

/-- A completion or a release on its way to stream `q` arrives: the group's order puts it before an event that meets the
wait (R318). -/
def hearBarrier (s : State) (q n : Nat) : State :=
  let t := { s with net := s.net.eraseIdx n }
  match s.net[n]? with
  | some (.barDone p g k err _) => if p = q then t.barDone q g k err else s
  | some (.barBroken p g _) => if p = q then t.barReleased q g else s
  | _ => s

/-- The home's answer to the full/empty request that stream `q` waits with is on its way. -/
def fullNews (s : State) (q : Nat) : Option Nat :=
  s.net.findIdx? fun m => match m with
    | .feReply p _ _ => p == q
    | _ => false

/-- The answer to a full/empty request reaches stream `q`: its word completes with the value (R249). -/
def hearFull (s : State) (q : Nat) : State :=
  match (s.fullNews q).bind fun n => (s.net[n]?).map fun m => (n, m) with
  | some (n, .feReply _ r _) =>
    let t := { s with net := s.net.eraseIdx n }
    match (t.stream q).wait with
    | .fe d _ _ _ _ =>
      t.completeFor q fun u => match r with
        | .value v => .done (u.writeS d v)
        | .poisoned k => u.stopAt k
        | _ => .done u
    | _ => t
  | _ => s

/-- An event meets stream `q` (R167, R201): what it has not issued is squashed, and once every older entry has retired it is
taken at the event point. A wait is withdrawn with what its word has done so far
(R250, R308, R318); `MON.WAIT` wakes with reason 3 first, and at supervisor level or with step = 1, where the event
stays pending, it only wakes (R204, R209, R258, log 87); a barrier word whose phase has completed, and a
full/empty word that was served, complete first, and a task that the heap has delivered starts, and the event stays pending
(R268, R308, R318). A stream whose atomic awaits its reply takes the event after it. -/
def takeEvent (s : State) (q : Nat) : State :=
  let t := s.stream q
  match t.dueEvent with
  | none => match t.wait with
    | .mon d _ => if t.run = .waiting ∧ t.firstEvent.isSome then s.completeFor q fun v => v.monWake d 3 else s
    | _ => s
  | some (c, ea) =>
    let at' (u : State) : State :=
      let v := (u.settleTrb q).toEventPoint q
      if v.atEventPoint q then v.raiseAt q c (v.stream q).pc ea else v
    match t.wait with
    | .reply _ => s
    | .mon d _ => at' (s.completeFor q fun v => v.monWake d 3)
    | .bar _ g _ arrived =>
      match s.barrierNews q with
      | some n => s.hearBarrier q n
      | none =>
        if arrived then at' (s.withdrawArrival (((s.ownerOf (q / 4)).map (·.1)).getD 0) g (s.memberIndex q)) else at' s
    | .barWait _ _ _ | .barArr _ _ _ =>
      match s.barrierNews q with
      | some n => s.hearBarrier q n
      | none => at' s
    | .fe _ _ _ _ _ => if (s.fullNews q).isSome then s.hearFull q else at' s
    | .taskNext _ => if (s.taskNews q).isSome then s.hearTask q else at' s
    | _ => at' s

/-- The cause, with its fault address, that the decoder of the running stream finds in a word before the word executes
(R49, steps 2 to 4). Where a loop ends inside a word (R117), `ILLEGAL` is found here, before the checks of PRIV (log 70). -/
def frontCause (s : State) (ps : List (BitVec 16)) : Option (Cause × Word) :=
  match s.breakpointAt s.me.pc with
  | some n => some (.brk, BitVec.ofNat 64 (0x100 + n))
  | none =>
    if !validWord ps then some (.illegal, 0)
    else if ps.length = 2 ∧ s.loopEndsAt (s.me.pc + 2#64) then some (.illegal, 0)
    else none

/-- A word with a cause at its decode takes an entry, ends the skip of breakpoints, and raises its cause when it is the
oldest (R163, R166, R198); it is held until then. -/
def raiseAtDecode (s : State) (ps : List (BitVec 16)) (raise : State → State) : State :=
  if s.me.trb.isEmpty then raise ((s.enterTrb ps).addBank s.myDie s.myCtxId 46 1).clearSkip
  else s.holdFor .retired

/-- Fetching the word at the pc of the running stream, and the word after a prefix: the parcels of the word, and those that
say what it does, which for a prefixed pair are the second word's (R46). Whatever its low bits, a word of major 0x7F has
the word behind it fetched (R49, log 70). A fetch of that word that fails names its address (R47). -/
def fetchAll (s : State) : State × Except FetchFault (List (BitVec 16) × List (BitVec 16)) :=
  match s.fetchWord s.me.pc with
  | (t, .error f) => (t, .error f)
  | (t, .ok ps) =>
    if isPrefix ps then
      match t.fetchWord (t.me.pc + 4#64) with
      | (u, .error f) => (u, .error (f.named (u.me.pc + 4#64)))
      | (u, .ok [p0, p1]) => (u, .ok (ps, if extendsImm (majorOf p0) then [p0, p1] else ps))
      | (u, .ok _) => (u, .ok (ps, ps))
    else (t, .ok (ps, ps))

end State

end Sys2Proof.Machine
end

