-- ==== Sys2Proof/Machine/Boot.lean ====
section
/-! DEFINITION. The boot: the configuration record, the key block, the firmware image, and how they are checked
(R373, R374, R422 to R425). -/

namespace Sys2Proof.Machine

namespace Boot

/-- `n` bytes from offset `o` of the flash or of the recovery buffer. -/
def bytes (f : List Host.Cell) (o n : Nat) : List Byte := (List.range n).map fun i => Memory.get f (o + i)

def nat (f : List Host.Cell) (o n : Nat) : Nat := leNat (bytes f o n)

/-- Big-endian, as the signatures and hashes are compared. -/
def hashOf (l : List Byte) : BitVec 384 := BitVec.ofNat 384 (leNat l.reverse)

/-! ## The configuration record (R373) -/

/-- The layout of the record: what its table fixes. -/
def recordGood (f : List Host.Cell) : Bool :=
  bytes f 0 4 == [0x59, 0x37, 0x43, 0x52] && nat f 4 2 == 1 && nat f 6 1 == 2 && nat f 7 1 == 0 &&
    nat f 0x18 8 == 0 && nat f 0x1C30 16 == 0 &&
    [0x20, 0x40].all (fun o => decide (nat f o 32 < 2 ^ 132) && popCount (nat f o 32) 132 == 128) &&
    (bytes f 0x60 256).all (fun b => decide (b.toNat < 132)) &&
    (bytes f 0x160 64).all (fun b => decide (b.toNat < 34)) &&
    (List.range 128).all (fun i =>
      nat f (0x1A0 + 4 * i + 3) 1 == 0 && decide (nat f (0x1A0 + 4 * i + 1) 1 / 16 < 8))

/-- What the record's signatures cover. -/
def recordSigned (f : List Host.Cell) : List Byte := bytes f 0 0x1C40

/-- The HMAC of the record's first bytes under the key of the package (R373, R374). -/
def bindingGood (f : List Host.Cell) : Bool := Config.pufBinding (bytes f 0 0x1C00) == hashOf (bytes f 0x1C00 48)

/-- The image of address-range entry `i` that the record carries. -/
def homeDefault (f : List Host.Cell) (i : Nat) : BitVec 256 := BitVec.ofNat 256 (nat f (0x1BC0 + 32 * i) 32)

/-! ## Keys and signatures (R423, R425) -/

/-- The RSA key matches its fused hash, and verifies a signature. -/
def rsaGood (b : Board) (signed sig : List Byte) : Bool :=
  Config.sha384 (bytes b.flash 0x10008 0x184) == b.keyHash0 &&
    Config.rsaVerify (bytes b.flash 0x10008 384) (bytes b.flash 0x10188 4) signed sig

/-- The SLH-DSA key matches its fused hash, and verifies a signature. -/
def slhGood (b : Board) (signed sig : List Byte) : Bool :=
  Config.sha384 (bytes b.flash 0x10190 48) == b.keyHash1 && Config.slhVerify (bytes b.flash 0x10190 48) signed sig

/-! ## The firmware image (R425) -/

/-- The code length that the header of the image at `o` gives. -/
def codeLength (f : List Host.Cell) (o : Nat) : Nat := nat f (o + 0x10) 8
def rollback (f : List Host.Cell) (o : Nat) : Nat := nat f (o + 8) 4

def headerGood (f : List Host.Cell) (o : Nat) : Bool :=
  let n := codeLength f o
  bytes f o 4 == [0x59, 0x37, 0x46, 0x57] && nat f (o + 4) 2 == 1 && nat f (o + 6) 2 == 0 &&
    decide (rollback f o ≤ 64) && nat f (o + 0xC) 4 == 0 && n % 64 == 0 && decide (2 ^ 16 ≤ n ∧ n ≤ 2 ^ 24) &&
    decide (nat f (o + 0x18) 8 < n) && nat f (o + 0x18) 8 % 4 == 0 && nat f (o + 0x20) 32 == 0

/-- The header and the code, which the image's signatures cover. -/
def imageSigned (f : List Host.Cell) (o : Nat) : List Byte := bytes f o (64 + codeLength f o)
def imageRsa (f : List Host.Cell) (o : Nat) : List Byte := bytes f (o + 64 + codeLength f o) 384
def imageSlh (f : List Host.Cell) (o : Nat) : List Byte := bytes f (o + 64 + codeLength f o + 384) 16224

/-- Why the boot fails, 0 where it does not: the steps of R423 in their order. The image stands at `o` of `f`. -/
def reason (b : Board) (f : List Host.Cell) (o : Nat) (trains : Bool) : Nat :=
  if !recordGood b.flash then 1
  else if !bindingGood b.flash then 2
  else if !rsaGood b (recordSigned b.flash) (bytes b.flash 0x1C40 384) then 3
  else if !slhGood b (recordSigned b.flash) (bytes b.flash 0x1DC0 16224) then 4
  else if !headerGood f o then 5
  else if !rsaGood b (imageSigned f o) (imageRsa f o) then 6
  else if !slhGood b (imageSigned f o) (imageSlh f o) then 7
  else if rollback f o < b.fuses then 8
  else if !trains then 9
  else 0

end Boot

namespace State

/-- Everything but what a reset cannot touch is as after reset: the flash, the fuses, the recovery buffer, host memory,
what has reached the host, and the model's own counters stay (R423). -/
def heldInReset (s : State) : State :=
  { State.reset with
    cells := s.cells.filter fun e => decide (2 ^ 52 ≤ e.1)
    sectors := s.sectors.filter fun e => decide (2 ^ 52 ≤ 32 * e.1)
    agenda := s.agenda
    freeCtr := s.freeCtr
    nextId := s.nextId
    board := {
      flash := s.board.flash
      keyHash0 := s.board.keyHash0
      keyHash1 := s.board.keyHash1
      fuses := s.board.fuses
      recovery := s.board.recovery
      egAlert := s.board.egAlert
      msix := s.board.msix
      hostReads := s.board.hostReads } }

/-- The two address-range entries that the record sets (R356); an image with v = 0 leaves its entry invalid. -/
def loadHomes (s : State) : State :=
  [0, 1].foldl (fun t i =>
    let b := Boot.homeDefault s.board.flash i
    if b.getLsbD 0 then { t with ranges := SMap.set t.ranges i b } else t) s

/-- The boot of a machine held in reset, its image at offset `o` of `f` (R422, R423, R424). -/
def boot (s : State) (f : List Host.Cell) (o : Nat) : State :=
  let (t, k) := s.freshFree
  let r := Boot.reason t.board f o (Config.bootTrains k)
  if r = 0 then
    let u := t.loadHomes
    { u with board := { u.board with
      bootState := 2
      bootReason := 0
      runningRollback := Boot.rollback f o
      sealed := ((Config.firmwareRanges k).map fun e => (e.1 / 65536 * 65536, e.2 / 65536 * 65536)).take 16 } }
  else
    { t with board := { t.board with bootState := 3, bootReason := BitVec.ofNat 8 r } }.toHost 0 13 (BitVec.ofNat 64 r)

/-- The image of a boot from flash lies at offset 0x2_0000 (R425). -/
def bootFlash (s : State) : State := s.heldInReset.boot s.board.flash 0x20000

/-- A write of 1 to the reboot register (R424): from state 3 the image comes from the recovery buffer (log 12). -/
def rebootOf (s : State) (v : Word) : State :=
  if v ≠ 1 then s
  else if s.board.bootState = 3#4 then s.heldInReset.boot s.board.recovery 0
  else if s.board.bootState = 2#4 then s.bootFlash
  else s

/-- The rollback commit (R425): the fuses are blown up to the running image's number, and never restored. -/
def commitRollback (s : State) (v : Word) : State :=
  if v = 1 ∧ s.board.bootState = 2#4 then
    { s with board := { s.board with fuses := max s.board.fuses s.board.runningRollback } }
  else s

end State

/-- `COLD_RESET` (R423). -/
def execColdReset (s : State) : Out := .next s.bootFlash

/-- `REBOOT` (R424). -/
def execReboot (v : Word) (s : State) : Out := .next (s.rebootOf v)

/-- `ROLLBACK_COMMIT` (R425). -/
def execRollbackCommit (v : Word) (s : State) : Out := .next (s.commitRollback v)

end Sys2Proof.Machine
end

