-- ==== Sys2Proof/Machine/Clocks.lean ====
section
/-! DEFINITION. Die time, its calibration (R407, R408), the regulators' levels (R412), the alarms and the core clock
(R426, R427). -/

namespace Sys2Proof.Machine

namespace State

/-- The regulators of a die's two stacks (R228, R411). -/
def ofDieKey (d key : Nat) : Bool := key / 64 / 2 == d

/-- What the passing of `n` increments of a die's time does beside time itself: levels refill, and the waits and the
narrow modules of the die are counted (R404, R412, R414). -/
def timePassed (s : State) (d n : Nat) : State :=
  let waiting := s.regulators.filter fun e => ofDieKey d e.1 && !e.2.held.isEmpty
  let s1 := waiting.foldl (fun t e => t.addBank d (e.1 % 64) (48 + e.1 / 64) n) s
  let s2 := { s1 with
    regulators := SMap.mapVal (fun k r => if ofDieKey d k then r.refill n else r) s1.regulators }
  let narrow := s.modules.filter fun e => e.2.narrow && e.2.inService
  narrow.foldl (fun t e => t.addTelemetry d (0x808 + 0x20 * e.1) n) s2

/-- The accumulator of a die grows by `v` units of 2⁻⁴⁰ ns. -/
def addTime (s : State) (d v : Nat) : State :=
  let t := s.setDie d { s.die d with time := (s.die d).time + BitVec.ofNat 104 v }
  t.timePassed d (t.now d - s.now d)

/-- A tick's increment: 2⁴⁰ + RATE, with RATE an int(32). -/
def tickOf (rate : BitVec 32) : Nat := (2 ^ 40 + rate.toInt).toNat

/-- How far die 1's reading, converted to the time base of die 0, lies from die 0's own, in ns (R408). -/
def skew (s : State) : Nat := (((s.now 1 : Int) + (s.die 1).txofs.toInt) - (s.now 0 : Int)).natAbs

/-- A tick of a die's oscillator. The ticks of the two dies come so that converted readings stay within 10 ns of each other
(R408, log 83). -/
def tick (s : State) (d : Nat) : State :=
  let t := s.addTime d (tickOf (s.die d).trate)
  if t.skew ≤ max 10 s.skew then t else s

/-- A step of a die's time by `v` ns; with it the offset of die 1 is rewritten, so that converted readings stay where they were
(R407, R408, log 83). -/
def stepTime (s : State) (d v : Nat) : State :=
  let t := s.addTime d (v * 2 ^ 40)
  let x := t.die 1
  t.setDie 1 { x with txofs := if d = 0 then x.txofs + BitVec.ofNat 64 v else x.txofs - BitVec.ofNat 64 v }

end State

/-- `OSCILLATOR_TICK` (R407). -/
def execOscillatorTick (die : Nat) (s : State) : Out := ofDie die (s.tick die)

/-- `TIME_STEP` (R407, R420): the host window adds whole ns to a die's accumulator. -/
def execTimeStep (die : Nat) (v : Word) (s : State) : Out :=
  ofDie die (if s.board.bootState = 2#4 ∧ s.sends .hostPort (.command die) then s.stepTime die v.toNat else s)

/-- `TIME_CALIBRATION` (R408): die 1 takes a rate and the offset that brings its readings to those of die 0, from an exchange
over Mortar. -/
def execTimeCalibration (s : State) : Out :=
  .next (
    if !s.reaches (.command 0) (.command 1) then s else
    let (t, k) := s.freshFree
    let offset : Int := (t.now 0 : Int) - t.now 1 + (Config.calibratedError k).val - 10
    t.setDie 1 { t.die 1 with txofs := BitVec.ofInt 64 offset, trate := Config.calibratedRate k })

/-- `REGULATOR_WRITE` (R411, R412, R415). -/
def execRegulatorWrite (stack ctx : Nat) (v : Word) (s : State) : Out :=
  agent (decide (stack < 4 ∧ ctx < 64)) (
    if s.board.bootState = 2#4 ∧ s.sends .hostPort (.slice (16 * stack)) then
      s.setRegulator (stack * 64 + ctx) ((s.regulator (stack * 64 + ctx)).write v)
    else s)

/-- `REGULATOR_ADMIT` (R412): of the first `n` held transfers of a context those begin, in the order in which they came, that
the level allows. The transfers join them where their accesses are made (R413). -/
def execRegulatorAdmit (stack ctx n : Nat) (s : State) : Out :=
  agent (decide (stack < 4 ∧ ctx < 64)) (
    let r := s.regulator (stack * 64 + ctx)
    if r.en then s.setRegulator (stack * 64 + ctx) (r.letGo n) else s)

/-- `POWER_ALARM` (R426). -/
def execPowerAlarm (src : AlarmSource) (s : State) : Out :=
  .next { s with board := { s.board with narrow := true, alarms := s.board.alarms.filter (· ≠ src) ++ [src] } }

/-- `ALARM_CLEAR` (R426): an alarm has stayed clear for 1 ms; with the last one, narrow returns to 0. -/
def execAlarmClear (src : AlarmSource) (s : State) : Out :=
  .next (
    let l := s.board.alarms.filter (· ≠ src)
    { s with board := { s.board with alarms := l, narrow := s.board.narrow && !l.isEmpty } })

/-- `CLOCK_STEP_DOWN` (R427), in steps of 100 MHz. -/
def execClockStepDown (s : State) : Out :=
  .next (if s.board.narrow ∧ Config.clockFloor < s.board.clock then
    { s with board := { s.board with clock := s.board.clock - 1 } } else s)

/-- `CLOCK_STEP_UP` (R427). -/
def execClockStepUp (s : State) : Out :=
  .next (if !s.board.narrow ∧ s.board.clock < Config.clockTop then
    { s with board := { s.board with clock := s.board.clock + 1 } } else s)

end Sys2Proof.Machine
end

