-- ==== Sys2Proof/Machine/Launches.lean ====
section
/-! DEFINITION. The command queues and their launches (R28, R29, R291 to R294), and the host-event register (R418). -/

namespace Sys2Proof.Machine

/-- The fields of a launch entry (R292). -/
structure Launch where
  kind : Nat
  die : Nat
  count : Nat
  task : Task
  flags : Nat
  target : Nat
  streams : Nat
  shape : Nat
  gen : Nat
  status : Nat
  deriving DecidableEq, Repr

def Launch.ofImage (b : BitVec 512) : Launch :=
  { kind := field b 0 8
    die := field b 8 8
    count := field b 16 16
    task := {
      key := b.extractLsb' 32 32
      entry := b.extractLsb' 64 64
      args := #v[b.extractLsb' 128 64, b.extractLsb' 192 64, b.extractLsb' 256 64, b.extractLsb' 320 64]
      tag := b.extractLsb' 384 16
      group := b.extractLsb' 400 8
      hasGroup := b.getLsbD 408
      bound := b.getLsbD 409 }
    flags := field b 408 8
    target := field b 416 8
    streams := field b 424 8
    shape := field b 432 16
    gen := field b 448 16
    status := field b 464 48 }

namespace Launch

/-- The task fields are all 0. -/
def noTask (l : Launch) (exceptTag : Bool) : Bool :=
  l.task.key == 0 && l.task.entry == 0 && l.task.args == Vector.replicate 4 0 && l.task.group == 0 && l.flags == 0 &&
    (exceptTag || l.task.tag == 0)

def logical (l : Launch) (w : Nat) : Nat := l.target / 16 * w + l.target % 16

/-- Check 1 of R293: the kind, reserved bits, unused fields, the count, the entry address or the status address. Which fields
a kind does not use: log 80. -/
def malformed (l : Launch) : Bool :=
  let n := popCount l.streams 4
  let plain := l.die == 0 && l.count == 0
  let kindOk := match l.kind with
    | 0 => plain
    | 1 => decide (l.die ≤ 1) && decide (1 ≤ l.count ∧ l.count ≤ 4096)
    | 2 => plain && n == 1
    | 3 => plain && l.noTask false && decide (1 ≤ n)
    | 4 => plain && l.noTask true && l.target == 0 && l.streams == 0
    | _ => false
  !kindOk || decide (4 ≤ l.flags) || decide (16 ≤ l.streams) || l.task.entry.getLsbD 0 ||
    neverFetched l.task.entry || l.status % 8 != 0

end Launch

namespace State

/-- The firmware runs (R422): queues and windows are served only in boot state 2. -/
def running (s : State) : Bool := s.board.bootState == 2#4

/-! ## Rings (R291, R343) -/

/-- The entry of `n` bytes at an index of a ring, as its 64 bytes; none where its data cannot be used. -/
def ringEntry (s : State) (r : Ring) : State × Option (BitVec 512) :=
  match s.readHome (r.base + 64 * r.head) 64 (.unit none) with
  | (t, .ok l) => (t, some (BitVec.ofNat 512 (leNat l)))
  | (t, .error _) => (t, none)

/-- Whether the command processor of a die reaches the homes of `n` bytes at a device address (R12, R13). -/
def unitReaches (s : State) (die a n : Nat) : Bool := (cut a n).all fun p => s.reaches (.command die) (s.siteOf p.1)

/-- Whether it reaches the next entry of a ring, and the ring's head word. -/
def ringReaches (s : State) (die : Nat) (r : Ring) : Bool :=
  s.unitReaches die (r.base + 64 * r.head) 64 && s.unitReaches die r.headAddr 8

/-- An 8-byte word that a command processor writes at a device address. -/
def unitWord (s : State) (die place : Nat) (x : Word) : State :=
  s.homeWrite die unitWriter (placed place (leBytes 8 x.toNat))

/-- A command queue of a context. -/
def queueOf (s : State) (c die : Nat) : Ring := (s.ctx c).queues.toList.getD die {}

def setQueueOf (s : State) (c die : Nat) (r : Ring) : State :=
  let x := s.ctx c
  s.setCtx c { x with queues := if h : die < 2 then x.queues.set die r else x.queues }

/-- One launch less of a die's queue is in flight for the tags that met it. -/
def passLaunch (die : Nat) (l : List (Nat × BitVec 16 × Nat)) : List (Nat × BitVec 16 × Nat) :=
  l.filterMap fun e => if e.1 ≠ die then some e else if e.2.2 ≤ 1 then none else some (e.1, e.2.1, e.2.2 - 1)

/-- The head of a queue goes past an entry, and its head word follows. -/
def advanceQueue (s : State) (c die : Nat) : State :=
  let r := s.queueOf c die
  let head := (r.head + 1) % 2 ^ r.n
  let t := s.setQueueOf c die { r with head := head }
  (t.setCtx c { t.ctx c with cancels := passLaunch die (t.ctx c).cancels }).unitWord die r.headAddr (BitVec.ofNat 64 head)

/-- A notification error of a context (R291, R419). -/
def notifyError (s : State) (c : Nat) (v : Word) (die : Nat := 0) : State := s.toHost (1 + c) 2 v die

/-- The launch-status word (R293): [7:0] the code, [63:32] the count. -/
def writeStatus (s : State) (die c status code count : Nat) : State :=
  if status = 0 then s
  else
    let x := BitVec.ofNat 64 (code + count * 2 ^ 32)
    match (s.knowOnDie die c status).translateOnDie die c status .store with
    | .ok place _ => ((s.knowOnDie die c status).unitWord die place x).toHost (1 + c) 3 (BitVec.ofNat 64 status) die
    | .malformed level a =>
      (s.toHost 0 3 (BitVec.ofNat 64 (a + level * 2 ^ 56 + c * 2 ^ 58)) die).notifyError c (BitVec.ofNat 64 status) die
    | _ => s.notifyError c (BitVec.ofNat 64 status) die

/-- Whether the command processor of a die reaches the launch-status word at an address of a context, and the tables that
translate it. -/
def statusReaches (s : State) (die c status : Nat) : Bool :=
  status == 0 || (s.walkReachesFrom (.command die) c status && match s.translateOnDie die c status .store with
    | .ok place _ => s.reaches (.command die) (s.siteOf place)
    | _ => true)

/-- Whether it reaches what a launch of kind 0 to 4 needs: the status word, and the heaps that the launch changes. -/
def launchReaches (s : State) (die c : Nat) (l : Launch) : Bool :=
  s.statusReaches die c l.status && (match l.kind with
    | 1 => s.reaches (.command die) (.heap l.die)
    | 4 => [0, 1].all fun d => s.reaches (.command die) (.heap d)
    | _ => true)

/-- Whether a context's queue of a die is to be served: not while a switch-out waits, nor for a contained context. -/
def queueWaits (s : State) (die c : Nat) : Bool :=
  match s.ctx? c with
  | none => false
  | some x =>
    let r := s.queueOf c die
    r.present && r.head != r.tail && !x.contained && !x.leaving

/-- The context whose queue is served next, in the order of R28. -/
def nextQueue (s : State) (die : Nat) : Option Nat :=
  ((List.range 64).map fun i => ((s.die die).served + 1 + i) % 64).find? (s.queueWaits die)

/-! ## Checks and effects (R293, R294) -/

/-- The checks of an entry but the one that its target makes: the code, 0 where all pass. -/
def launchCode (s : State) (c : Nat) (l : Launch) : Nat :=
  let x := s.ctx c
  if l.malformed then 1
  else if l.shape ≠ 0 ∧ l.shape ≠ x.h * 256 + x.w then 2
  else if Config.generation < l.gen then 3
  else if (l.kind = 2 ∨ l.kind = 3) ∧ (x.w ≤ l.target % 16 ∨ x.h ≤ l.target / 16) then 6
  else if !s.groupNamed c l.task then 7
  else if l.kind = 1 ∧ s.heapRoom l.die c < l.count then 5
  else 0

/-- A start message of the context is on its way. -/
def startsOut (s : State) (c : Nat) : Bool :=
  s.net.any fun m => match m with
    | .start x _ _ _ _ _ _ => x == c
    | _ => false

/-- The tasks of a TASKS launch, in order. -/
def launchTasks (l : Launch) (owner : BitVec 16) : List Task :=
  (List.range l.count).map fun i =>
    { l.task with owner := owner, args := l.task.args.set 3 (l.task.args[3] + BitVec.ofNat 64 i) }

/-- The insertion of a TASKS launch. Where its tag was cancelled while it was in flight, its tasks are inserted and then
removed, and no stream starts them (R29). -/
def insertLaunch (s : State) (die c : Nat) (l : Launch) : State :=
  let first := (s.die l.die).inserted
  let t := (launchTasks l (s.ctx c).owner).foldl (fun t k => t.insertTask c l.die k) s
  if l.task.tag ≠ 0 ∧ (s.ctx c).cancels.any fun e => e.1 == die && e.2.1 == l.task.tag then
    t.removeTasks l.die fun k => decide (first ≤ k.seq)
  else t

/-- The effect of an entry that passes the checks, its status word included; a start message brings its own. -/
def launchEffect (s : State) (die c : Nat) (l : Launch) : State :=
  let owner := (s.ctx c).owner
  match l.kind with
  | 1 => (s.insertLaunch die c l).writeStatus die c l.status 0 0
  | 2 | 3 =>
    s.post (.start c (l.logical (s.ctx c).w) (BitVec.ofNat 4 l.streams) (l.kind == 3) { l.task with owner := owner }
      l.status die)
  | 4 =>
    let r := s.cancelTag c l.task.tag
    r.1.writeStatus die c l.status 0 r.2
  | _ => s.writeStatus die c l.status 0 0

/-- The command processor of a die reads the entry that is next, where it is of a kind that `kind` names. Code 1 for a
misaligned status address has no word to go to, and is reported (log 80). -/
def serveQueue (s : State) (die ctx : Nat) (kind : Nat → Bool) : State :=
  if !s.running ∨ s.nextQueue die ≠ some ctx ∨ !s.ringReaches die (s.queueOf ctx die) then s
  else match s.ringEntry (s.queueOf ctx die) with
    | (t, none) =>
      if kind 0 then ((t.setDie die { t.die die with served := ctx }).advanceQueue ctx die).notifyError ctx 0 die else s
    | (t, some b) =>
      let l := Launch.ofImage b
      if !kind (if 5 ≤ l.kind then 0 else l.kind) then s
      else if (l.kind = 0 ∧ t.startsOut ctx) ∨ !t.launchReaches die ctx l then s
      else
        let u := t.setDie die { t.die die with served := ctx }
        let code := u.launchCode ctx l
        let v := if code = 0 then u.launchEffect die ctx l
          else if code = 1 ∧ l.status % 8 ≠ 0 then u.notifyError ctx (BitVec.ofNat 64 l.status) die
          else u.writeStatus die ctx l.status code 0
        v.advanceQueue ctx die

def serve (s : State) (die ctx kind : Nat) : Out := ofDie die (s.serveQueue die ctx fun k => k == kind)

end State

/-! ## The steps -/

/-- `LAUNCH_WRITE` (R291, R417): a host write to the notification register of a die in the page of a context, once the link has carried
it to that die (R14). R421's refusal of host writes by a frozen port is taken to be that of writes to memory, whose sectors the
freeze protects (R233): a write of a register is performed (log 91). -/
def execLaunchWrite (page die : Nat) (v : Word) (s : State) : Out :=
  ofDie die (
    let c := field v 16 6
    let r := s.queueOf c die
    let good := c == page && (s.ctx? c).any (fun x => !x.contained) && r.present && decide (field v 0 16 < 2 ^ r.n)
    if !s.running ∨ 64 ≤ page ∨ !s.sends .hostPort (.command die) then s
    else if good then s.setQueueOf c die { r with tail := field v 0 16 }
    else s.notifyError page v die)

/-- `LAUNCH_NOP` (R294); an entry whose kind is none, or whose data cannot be used, ends here too. -/
def execLaunchNop (die ctx : Nat) (s : State) : Out := s.serve die ctx 0
/-- `LAUNCH_TASKS` (R294). -/
def execLaunchTasks (die ctx : Nat) (s : State) : Out := s.serve die ctx 1
/-- `LAUNCH_START` (R293, R294). -/
def execLaunchStart (die ctx : Nat) (s : State) : Out := s.serve die ctx 2
/-- `LAUNCH_SERVE` (R293, R294). -/
def execLaunchServe (die ctx : Nat) (s : State) : Out := s.serve die ctx 3
/-- `LAUNCH_CANCEL` (R294). -/
def execLaunchCancel (die ctx : Nat) (s : State) : Out := s.serve die ctx 4

namespace State

/-- A stream that may be started or placed (R293, check 4). -/
def startable (s : State) (q : Nat) : Bool := (s.stream q).run == .idle && !(s.stream q).faultMark

/-- A SERVE launch places a stream in `TASK.NEXT` (R294, R308). -/
def placeServed (s : State) (q : Nat) : State :=
  let d := dieOfCore (q / 4)
  let x := s.die d
  let s1 := s.setDie d { x with takes := x.takes ++ [q] }
  s1.setStream q { s1.stream q with run := .waiting, wait := .taskNext true, task := none }

/-- A start message at its core: check 4 and the start or the placement, in one step. -/
def arriveStart (s : State) (c j : Nat) (streams : BitVec 4) (serve : Bool) (task : Task) (status : Nat) : State :=
  let core := (s.ctx c).position j
  let qs := ((List.range 4).filter fun i => streams.getLsbD i).map fun i => 4 * core + i
  let d := dieOfCore core
  if qs.all s.startable then
    let t := if serve then qs.foldl placeServed s else qs.foldl (fun u q => u.taskStart q task) s
    t.writeStatus d c status 0 0
  else s.writeStatus d c status 4 0

end State

/-- `START` (R293, R303): a start message arrives; a core that moves holds it (R218). -/
def execStart (n : Nat) (s : State) : Out :=
  .next (match s.net[n]? with
    | some (.start c j streams serve task status _) =>
      if (s.ctx? c).isNone then s.takeMsg n
      else if (s.core ((s.ctx c).position j)).moving ∨ !s.arrives n ∨
          !s.statusReaches (dieOfCore ((s.ctx c).position j)) c status then s
      else (s.takeMsg n).arriveStart c j streams serve task status
    | _ => s)

/-- `HOST_EVENT_WRITE` (R418, R202): `HOSTIRQ` with a value for a stream of the context of the page, once the link has carried it to
that stream's die (R14). A frozen port refuses writes to memory, and performs this one (log 91). -/
def execHostEventWrite (page : Nat) (v : Word) (s : State) : Out :=
  .next (
    if !s.running ∨ 64 ≤ page then s
    else match s.ctx? page with
      | none => s.notifyError page v
      | some x =>
        if x.w ≤ field v 32 4 ∨ x.h ≤ field v 36 4 then s.notifyError page v
        else
          let q := 4 * x.position (field v 36 4 * x.w + field v 32 4) + field v 40 2
          let t := s.stream q
          let value := v.extractLsb' 0 32
          if !s.sends .hostPort (.core (q / 4)) then s
          else s.setStream q (if t.pend.getLsbD 2 then { t with hostQueue := t.hostQueue ++ [value] }
            else { t with pend := t.pend ||| 4#5, hval := value }))

end Sys2Proof.Machine
end

