-- ==== Sys2Proof/Machine/Control.lean ====
section
/-! DEFINITION. The control rings and the commands that change tables and registers (R343 to R346, R354, R358 to R362,
R366, R369 to R372). -/

namespace Sys2Proof.Machine

/-! ## Entries (R343) -/

/-- A control entry. -/
structure Control where
  kind : Nat
  ctx : Nat
  op0 : Word
  op1 : Word
  op2 : Word
  status : Nat
  clean : Bool
  deriving DecidableEq, Repr

def Control.ofImage (b : BitVec 512) : Control :=
  { kind := field b 0 8
    ctx := field b 8 8
    op0 := b.extractLsb' 64 64
    op1 := b.extractLsb' 128 64
    op2 := b.extractLsb' 192 64
    status := field b 448 64
    clean := field b 16 48 == 0 && field b 320 128 == 0 }

namespace Control

/-- A kind of R344. -/
def known (c : Control) : Bool := decide (1 ≤ c.kind ∧ c.kind ≤ 13)

def malformed (c : Control) : Bool :=
  !c.known || !c.clean || decide (64 ≤ c.ctx) || c.status % 8 != 0 ||
    ((c.kind == 1 || c.kind == 10 || c.kind == 12) && c.ctx != 0)

/-- The command names a resident context. -/
def namesContext (c : Control) : Bool := !(c.kind == 1 || c.kind == 7 || c.kind == 9 || c.kind == 10 || c.kind == 12)

end Control

/-- How far a command has come: still under way, or ended with a code and a result. -/
abbrev CtlEnd := State × Option (Nat × Nat)

namespace State

def endCtl (s : State) (code : Nat) : CtlEnd := (s, some (code, 0))

/-- Whether a control ring holds an entry that its processor has not carried out. -/
def controlWaits (s : State) (die : Nat) : Bool :=
  let r := (s.die die).control
  decide (4 ≤ r.n ∧ r.n ≤ 16) && r.head != r.tail

/-- The status word of a command, and the ring's head and head word after it. A status word that no address takes is
reported instead. -/
def finishControl (s : State) (die : Nat) (c : Control) (code result : Nat) : State :=
  let s1 := if c.status % 8 = 0 ∧ c.status < 2 ^ 38 then
      let t := s.unitWord die c.status (BitVec.ofNat 64 (code + result * 2 ^ 8))
      if (t.ctx? c.ctx).isSome then t.toHost (1 + c.ctx) 3 (BitVec.ofNat 64 c.status) die else t
    else s.toHost 0 4 (BitVec.ofNat 64 c.status) die
  let r := (s1.die die).control
  let head := (r.head + 1) % 2 ^ r.n
  (s1.setDie die { s1.die die with control := { r with head := head } }).unitWord die r.headAddr (BitVec.ofNat 64 head)

/-- The core images of a context. -/
def imageSpans (x : Ctx) : List (Nat × Nat) := (List.range x.cores).map fun j => (x.image j, 630784)

/-- The bytes of device memory that a command reads or writes. -/
def controlSpans (s : State) (c : Control) : List (Nat × Nat) :=
  (c.status, 8) :: match c.kind with
    | 1 | 2 => [(c.op0.toNat, 64)]
    | 4 | 5 | 6 => (if c.kind = 5 then [(c.op0.toNat, 2 * c.op1.toNat)] else []) ++ imageSpans (s.ctx c.ctx)
    | 7 => match s.saved.find? fun x => field (x.table.getD 0 0) 16 32 = s.natAt c.op0.toNat 16 / 2 ^ 16 % 2 ^ 32 with
      | some x => (c.op0.toNat, 16 * x.table.length) :: imageSpans { desc := x.desc, table := x.table }
      | none => [(c.op0.toNat, 16)]
    | 10 => [(c.op1.toNat, 32)]
    | 11 => [(c.op2.toNat, 8)]
    | 13 => [(c.op1.toNat, 128)]
    | _ => []

/-- Whether the command processor of a die reaches them all (R12, R13); an address outside device memory needs no home. -/
def controlReaches (s : State) (die : Nat) (c : Control) : Bool :=
  (s.controlSpans c).all fun e => decide (2 ^ 38 < e.1 + e.2) || s.unitReaches die e.1 e.2

/-- A step of the command processor of a die at the head of its control ring, where that is of kind `kind`. An entry of
no kind, or whose data cannot be used, ends in the step of kind 1. -/
def control (s : State) (die kind : Nat) (body : State → Control → CtlEnd) : Out :=
  ofDie die (
    if !s.running || !s.controlWaits die || !s.ringReaches die (s.die die).control then s
    else match s.ringEntry (s.die die).control with
      | (t, none) => if kind = 1 then t.finishControl die (Control.ofImage 0) 1 0 else s
      | (t, some b) =>
        let c := Control.ofImage b
        if (if c.known then c.kind else 1) ≠ kind ∨ !s.controlReaches die c then s
        else if c.malformed then t.finishControl die c 1 0
        else if c.namesContext ∧ (t.ctx? c.ctx).isNone then t.finishControl die c 2 0
        else if c.namesContext ∧ (t.ctx c.ctx).contained then
          let (u, k) := t.freshFree
          u.finishControl die c (Config.containedCode k).toNat 0
        else match body t c with
          | (u, none) => u
          | (u, some (code, result)) => u.finishControl die c code result)

/-- `n` bytes that a command reads at a device address, charged to context `x` (R413); none where they cannot be used. -/
def image (s : State) (a n : Nat) (x : Option Nat := none) : State × Option (List Byte) :=
  if 2 ^ 38 < a + n then (s, none)
  else match s.readHome a n (.unit x) with
    | (t, .ok l) => (t, some l)
    | (t, .error _) => (t, none)

/-- One of the alternatives that the spec leaves open. -/
def pickAny (s : State) (l : List Nat) : State × Option Nat :=
  let (t, k) := s.freshFree
  (t, l[Config.anyOf k % l.length]?)

/-! ## Placement (R363, R365) -/

/-- Positions of the rectangle of a context of width `w` and height `h`. -/
def rectangle (x0 y0 w h : Nat) : List Nat :=
  (List.range (w * h)).map fun j => coreAt (x0 + j % w) (y0 + j / w)

/-- A move will come to this position. -/
def reserved (s : State) (c : Nat) : Bool := s.moves.any fun m => m.started && m.dst == c

/-- A free core (R365). -/
def isFree (s : State) (c : Nat) : Bool :=
  let k := s.core c
  k.owner.isNone && k.peg.isNone && !k.errored && !s.reserved c

/-- A core of a pitch, other than that of context `except`. -/
def heldByOther (s : State) (c : Nat) (except : Option Nat) : Bool :=
  match (s.core c).owner with
  | none => false
  | some (x, _) => some x != except

/-- The entry of a route row (R363). -/
def hop (dx dy : Int) : BitVec 16 := 0x8000#16 ||| (BitVec.ofInt 5 dx).setWidth 16 ||| ((BitVec.ofInt 5 dy).setWidth 16 <<< 8)

/-- The route row of a core of a context, from the positions of the core table. -/
def routeRow (x : Ctx) (c : Nat) : List (BitVec 16) :=
  (List.range x.cores).map fun j =>
    hop ((meshX (x.position j) : Int) - meshX c) ((meshY (x.position j) : Int) - meshY c)

/-- The scratchpad map with the pages that a quota backs (R366). -/
def backPages (spq : Nat) (pages : SMap PageState) : SMap PageState :=
  (List.range 256).map fun p => (p, { SMap.get {} pages p with backed := decide (p < 128 + spq) })

/-- A mesh core joins a context: owner, backed pages, route row. -/
def joinPitch (s : State) (id j : Nat) : State :=
  let x := s.ctx id
  let c := x.position j
  let k := s.core c
  s.setCore c { k with owner := some (id, j), pages := backPages x.spq k.pages, route := routeRow x c }

/-- The banks and the regulators of an ID that is newly assigned (R404, R411). -/
def freshId' (s : State) (id : Nat) : State :=
  { s with
    dies := SMap.mapVal (fun _ d => { d with banks := d.banks.filter fun e => e.1 / 52 ≠ id }) s.dies
    regulators := SMap.mapVal (fun k r => if k % 64 = id then r.stop else r) s.regulators }

/-- Free context IDs, and free owner numbers (R361). -/
def freeIds (s : State) : List Nat := (List.range 64).filter fun c => (s.ctx? c).isNone
def freeOwners (s : State) : List Nat :=
  let used := (s.ctxs.map fun e => e.2.owner) ++ s.saved.map fun x => x.desc.extractLsb' 64 16
  ((List.range 65535).map (· + 1)).filter fun o => !used.contains (BitVec.ofNat 16 o)

/-! ## Contexts (R344, R360 to R362) -/

/-- A descriptor image has only listed fields. -/
def descClean (b : BitVec 512) : Bool :=
  field b 304 208 == 0 && field b 248 20 == 0 && field b 200 24 == 0 && field b 180 12 == 0 && field b 101 27 == 0 &&
    field b 93 3 == 0 && field b 64 16 == 0 && field b 48 16 == 0 && field b 0 12 == 0

def waysGood (x : Ctx) : Bool := x.way 0 != 0 && x.way 1 != 0
def spqGood (x : Ctx) : Bool := decide (x.spq ≤ 128)

def rectangleGood (x0 y0 w h : Nat) : Bool :=
  decide (1 ≤ w ∧ w ≤ 16) && decide (1 ≤ h ∧ h ≤ 16) && decide (x0 + w ≤ 16) && decide (y0 + h ≤ 16)

/-- The descriptor image at an address; none where it is malformed. -/
def descImage (s : State) (a : Word) : State × Option (BitVec 512) :=
  match s.image a.toNat 64 with
  | (t, some l) =>
    let b := BitVec.ofNat 512 (leNat l)
    (t, if descClean b then some b else none)
  | (t, none) => (t, none)

/-- `CTXCREATE`. -/
def ctxCreate (s : State) (c : Control) : CtlEnd :=
  match s.descImage c.op0 with
  | (t, none) => t.endCtl 1
  | (t, some b) =>
    let x : Ctx := { desc := b, table := [] }
    let cores := rectangle x.x0 x.y0 x.w x.h
    if !rectangleGood x.x0 x.y0 x.w x.h || !waysGood x || !spqGood x then t.endCtl 1
    else if cores.any (t.heldByOther · none) then t.endCtl 4
    else if !cores.all t.isFree then t.endCtl 3
    else match t.pickAny t.freeIds with
      | (_, none) => t.endCtl 5
      | (t1, some id) => match t1.pickAny t1.freeOwners with
        | (_, none) => t.endCtl 5
        | (t2, some owner) =>
          let (t3, k) := t2.freshFree
          let table := cores.zipIdx.map fun e =>
            BitVec.ofNat 128 (meshX e.1 + meshY e.1 * 2 ^ 4 + 2 ^ 8 + (Config.coreImage k e.2).toNat * 2 ^ 16 +
              (Config.coreBacking k e.2).toNat * 2 ^ 84)
          let u := (t3.freshId' id).setCtx id { desc := setField b 64 16 owner, table := table }
          ((List.range cores.length).foldl (fun v j => v.joinPitch id j) u, some (0, id + owner * 2 ^ 8))

/-- Every page of a context's cores follows a new scratchpad quota. -/
def requota (s : State) (id : Nat) : State :=
  let x := s.ctx id
  (List.range x.cores).foldl (fun t j =>
    let c := x.position j
    let k := t.core c
    t.setCore c { k with pages := backPages x.spq k.pages }) s

/-- A write or a full/empty request of a context that has used a translation of the range and not performed. -/
def usesRange (s : State) (id lo n : Nat) : Bool :=
  let x := s.ctx id
  let hit (a : Nat) : Bool := decide (lo ≤ a) && decide (a < lo + n)
  (List.range (4 * x.cores)).any fun i =>
    let t := s.stream (s.memberStream id i)
    (t.storeQ.any fun e => hit (field e.va 0 48) || e.ranges.any fun r => r.1 == 0 && decide (r.2.1 < lo + n) &&
      decide (lo < r.2.1 + r.2.2)) ||
    (match t.wait with
      | .fe _ _ va _ _ => hit va.toNat
      | .reply _ => true
      | _ => false)

/-- A move of the context is under way. -/
def isMovingCtx (s : State) (id : Nat) : Bool := s.moves.any fun m => m.ctx == id && m.started

/-- `INVTLB` of a range (R354, R372): it ends when no access still uses a removed translation. -/
def invalidate (s : State) (id lo n : Nat) : CtlEnd :=
  if s.isMovingCtx id then (s, none)
  else
    let t := s.dropTranslations id lo n
    (t, if t.usesRange id lo n then none else some (0, 0))

/-- `INVTLB`. -/
def invTlb (s : State) (c : Control) : CtlEnd :=
  if c.op0.toNat % 65536 ≠ 0 ∨ c.op1.toNat % 65536 ≠ 0 then s.endCtl 1
  else if c.op1 = 0 then s.invalidate c.ctx 0 (2 ^ 48)
  else s.invalidate c.ctx c.op0.toNat c.op1.toNat

/-- A descriptor with the fields that a selector names taken from an image (R344). -/
def takeFields (d b : BitVec 512) (sel : Nat) : BitVec 512 :=
  let d0 := if sel.testBit 0 then setField d 128 32 (field b 128 32) else d
  let d1 := if sel.testBit 1 then setField d0 160 20 (field b 160 20) else d0
  let d2 := if sel.testBit 2 then setField d1 192 8 (field b 192 8) else d1
  let d3 := if sel.testBit 3 then setField d2 224 24 (field b 224 24) else d2
  if sel.testBit 4 then setField d3 12 36 (field b 12 36) else d3

/-- `CTXSET` (R361, R366, R369, R370). -/
def ctxSet (s : State) (c : Control) : CtlEnd :=
  match s.descImage c.op0 with
  | (t, none) => t.endCtl 1
  | (t, some b) =>
    let sel := field c.op1 0 5
    let x : Ctx := { desc := b, table := [] }
    if (sel.testBit 0 && !waysGood x) || (sel.testBit 2 && !spqGood x) then t.endCtl 1
    else
      let y := t.ctx c.ctx
      let u := t.setCtx c.ctx { y with desc := takeFields y.desc b sel }
      let v := if sel.testBit 2 then u.requota c.ctx else u
      if sel.testBit 4 then v.invalidate c.ctx 0 (2 ^ 48) else v.endCtl 0

/-- The stream that lx, ly and a stream index name in a context. -/
def namedStream (s : State) (id lx ly i : Nat) : Option Nat :=
  let x := s.ctx id
  if x.w ≤ lx ∨ x.h ≤ ly then none else some (4 * x.position (ly * x.w + lx) + i)

/-- `CLRFAULT` (R214, R314). -/
def clrFault (s : State) (c : Control) : CtlEnd :=
  match s.namedStream c.ctx (field c.op0 0 4) (field c.op0 4 4) (field c.op0 8 2) with
  | none => s.endCtl 1
  | some q =>
    let t := s.stream q
    if t.faultMark then
      ((t.groups.foldl (fun u m => u.leave c.ctx q m.group) (s.setStream q { t with faultMark := false })).endCtl 0)
    else s.endCtl 0

/-! ### Destruction -/

/-- Streams of the cores of a context. -/
def streamsOf (s : State) (id : Nat) : List Nat := (List.range (4 * (s.ctx id).cores)).map (s.memberStream id)
def coresOf (s : State) (id : Nat) : List Nat := (List.range (s.ctx id).cores).map (s.ctx id).position

/-- Whether a message is addressed to one of the streams. -/
def goesTo (qs : List Nat) : Msg → Bool
  | .barDone q _ _ _ _ => qs.contains q
  | .barBroken q _ _ => qs.contains q
  | .steReply q _ _ _ => qs.contains q
  | .feReply q _ _ => qs.contains q
  | .taskGiven q _ _ => qs.contains q
  | _ => false

/-- A command of the context is queued at an engine or on its way there. -/
def steBusy (s : State) (id : Nat) : Bool :=
  (s.stes.any fun e => e.2.queue.any fun c => c.ctx == id) ||
    s.net.any fun m => match m with
      | .steCmd _ c => c.ctx == id
      | _ => false

/-- Work that streams of a context have handed over and that has not ended. -/
def busyCtx (s : State) (id : Nat) : Bool :=
  s.steBusy id || s.startsOut id || s.isMovingCtx id ||
    ((s.streamsOf id).any fun q => !(s.stream q).storeQ.isEmpty) ||
    ((s.coresOf id).any fun c => (s.core c).copies.any fun e => match e.2.phase with
      | .faulted _ _ _ => false
      | _ => true) ||
    (s.dies.any fun e => e.2.agents.any fun a => a.2.out.any fun r => (s.streamsOf id).contains r.stream)

/-- The tasks of an owner leave both dies. -/
def dropTasks (s : State) (owner : BitVec 16) : State :=
  (s.removeTasks 0 fun t => t.owner == owner).removeTasks 1 fun t => t.owner == owner

/-- The trees of an owner are cleared (R375). -/
def dropTrees (s : State) (owner : BitVec 16) : State :=
  let clear (d : BitVec 256) : BitVec 256 := if SteDesc.held d && SteDesc.owner d == owner then 0 else d
  { s with stes := SMap.mapVal (fun _ e => { e with trees := e.trees.map clear }) s.stes }

/-- The parked arms that a test keeps, and the filter bits they leave set (R257). -/
def keepParked (s : State) (keep : ParkedArm → Bool) : State :=
  { s with dies := SMap.mapVal (fun _ d =>
      let l := d.parked.filter keep
      { d with parked := l, filters := (l.map fun p => s.filterBit p.line).eraseDups }) s.dies }

/-- What an owner number stands for ends (R361). -/
def dropOwner (s : State) (owner : BitVec 16) : State :=
  let t := ((s.dropTasks owner).dropTrees owner).keepParked fun p => p.owner ≠ owner
  { t with
    groupErrs := t.groupErrs.filter fun e => e.1 ≠ owner
    feMaps := t.feMaps.filter fun e => e.1 ≠ owner }

/-- A core leaves its context: its pages are written back, and its tables are empty. -/
def freeCore (s : State) (c : Nat) : State :=
  let t := (List.range 256).foldl (fun u p => u.evictPage c p) (s.forgetCore c)
  t.setCore c { t.core c with
    owner := none
    moving := false
    l1d := []
    l1i := []
    tlb := []
    pages := []
    lru := []
    copies := []
    route := [] }

/-- A stream leaves its context: nothing of the context's stays with it. Its registers keep their values (log 24). -/
def Stream.vacate (t : Stream) : Stream :=
  { t with
    run := .idle
    faultMark := false
    wait := .none
    task := none
    groups := []
    pend := 0
    hostQueue := []
    m := Vector.replicate 4 {}
    pending := []
    trb := [] }

/-- The lines of a group table are locked no more (R367). -/
def unlockTable (s : State) (gtab : Nat) : State :=
  { s with locks := s.locks.filter fun l =>
      !(l.ctx.isNone && decide (gtab ≤ l.line) && decide (l.line < gtab + 131072)) }

/-- A resident context ends. -/
def removeCtx (s : State) (id : Nat) : State :=
  let qs := s.streamsOf id
  let cs := s.coresOf id
  let s1 := (s.dropOwner (s.ctx id).owner).dropTranslations id 0 (2 ^ 48)
  let s2 := qs.foldl (fun t q => t.setStream q (Stream.vacate (t.stream q))) s1
  let s3 := cs.foldl freeCore s2
  let unpeg (_ : Nat) (k : Core) : Core := if k.peg.any fun p => p.ctx == id then { k with peg := none } else k
  let s4 := { s3 with cores := SMap.mapVal unpeg s3.cores }
  { s4 with
    ctxs := SMap.erase s4.ctxs id
    regulators := SMap.mapVal (fun k r => if k % 64 = id then r.stop else r) s4.regulators
    monEntries := s4.monEntries.filter fun e => !qs.contains e.stream
    locks := (s4.unlockTable (s.ctx id).gtab).locks.filter fun l => l.ctx ≠ some id
    net := s4.net.filter fun m => !goesTo qs m && match m with
      | .marker x _ _ _ => x != id
      | _ => true }

/-- `CTXDESTROY` (R344): of a resident context whose streams are all idle, or of the saved context that last held the
ID (log 25). -/
def ctxDestroy (s : State) (c : Control) : CtlEnd :=
  match s.ctx? c.ctx with
  | some _ =>
    if (s.streamsOf c.ctx).any fun q => (s.stream q).run ≠ .idle then s.endCtl 7
    else if s.busyCtx c.ctx then (s, none)
    else (s.removeCtx c.ctx).endCtl 0
  | none => match s.saved.reverse.find? fun x => x.lastId = c.ctx with
    | none => s.endCtl 2
    | some x =>
      let owner := x.desc.extractLsb' 64 16
      let t := (s.dropOwner owner).unlockTable ({ desc := x.desc, table := [] } : Ctx).gtab
      ({ t with saved := t.saved.filter fun y => y.desc.extractLsb' 64 16 ≠ owner }, some (0, 0))

/-! ## Homes (R356, R358, R359) -/

/-- The image of an entry is one that R356 and R358 allow. -/
def homeImageGood (b : BitVec 256) : Bool :=
  let r := rangeEntry b
  let n := popCount r.slices 64
  field b 224 32 == 0 && field b 112 16 == 0 && field b 48 37 == 0 && field b 6 15 == 0 &&
    decide (field b 1 5 ≤ 14) && (!r.valid ||
      (r.size != 0 && n != 0 && r.lbase % r.stride == 0 &&
        decide (r.lbase + (r.size + n * r.stride - 1) / (n * r.stride) * r.stride ≤ 2 ^ 32)))

/-- The rank of bit `k` among the set bits of a mask. -/
def rankOf (b k : Nat) : Nat := popCount b k

/-- The addresses below 2^38 whose home is a key of `cells`: one for each valid entry that could place it there, and the
default one. -/
def addressesOf (t : SMap (BitVec 256)) (key : Nat) : List Nat :=
  let k := key / 2 ^ 32
  let b := key % 2 ^ 32
  let viaEntry := (List.range 64).filterMap fun i =>
    let r := rangeEntry (SMap.get 0 t i)
    if r.valid ∧ r.slices.testBit k ∧ r.lbase ≤ b then
      let row := (b - r.lbase) / r.stride
      some (r.base + (row * popCount r.slices 64 + rankOf r.slices k) * r.stride + (b - r.lbase) % r.stride)
    else none
  let block := b / 128 * 2 ^ 13
  let byDefault := block + ((k ^^^ homeHash block) % 64) * 128 + b % 128
  ((byDefault :: viaEntry).filter fun a => decide (a < 2 ^ 38) && homeOfDevice t a == (k, b)).eraseDups

/-- Whether an entry covers an address. -/
def covers (b : BitVec 256) (a : Nat) : Bool :=
  let r := rangeEntry b
  r.valid && decide (r.base ≤ a) && decide (a < r.base + r.size)

/-- The bytes and sector records of device memory as another table places them: those at addresses that `moved` names
go to their new backing. -/
def rehome (s : State) (t : SMap (BitVec 256)) (moved : Nat → Bool) : State :=
  let key (a : Nat) : Nat := (homeOfDevice t a).1 * 2 ^ 32 + (homeOfDevice t a).2
  let isDevice (k : Nat) : Bool := decide (k < 2 ^ 38)
  let taken (k : Nat) : Bool := isDevice k && (addressesOf t k).any moved
  let from' (k : Nat) : List Nat := if isDevice k then ((addressesOf s.ranges k).filter moved).map key else []
  { s with
    cells := s.cells.foldl (fun l e => (from' e.1).foldl (fun m k => Memory.put m k e.2) l)
      (s.cells.filter fun e => !taken e.1)
    sectors := s.sectors.foldl (fun l e => (from' (32 * e.1)).foldl (fun m k => SMap.set m (k / 32) e.2) l)
      (s.sectors.filter fun e => !taken (32 * e.1))
    ranges := t }

/-- Parked arms and filter bits stand at the home of their line. -/
def rehomeParked (s : State) : State :=
  let all := (s.dies.map fun e => e.2.parked).flatten
  (List.range 2).foldl (fun t d =>
    let l := all.filter fun p => t.homeDie p.line = d
    t.setDie d { t.die d with parked := l, filters := (l.map fun p => t.filterBit p.line).eraseDups }) s

/-- The L2 slices have no line any more that moves. A lock on such a line goes with it: what becomes of a lock, the spec does not
say, and here it holds the way of the same number at the line's new home (R251, log 93). -/
def rehomeLines (s : State) (moved : Nat → Bool) : State :=
  let t := { s with l2 := SMap.mapVal (fun _ l => l.filter fun e => !moved e.line) s.l2 }
  (t.locks.filter fun k => moved k.line).foldl (fun u k =>
    { u with locks := u.locks.filter fun j => j != k }.lockInWay k.ctx k.line k.way) t

/-- `SETHOME` (R359). -/
def setHome (s : State) (c : Control) : CtlEnd :=
  match s.image c.op1.toNat 32 with
  | (t, none) => t.endCtl 1
  | (t, some l) =>
    let i := c.op0.toNat
    let b := BitVec.ofNat 256 (leNat l)
    if 64 ≤ i ∨ !homeImageGood b then t.endCtl 1
    else
      let moved (a : Nat) : Bool := covers (SMap.get 0 t.ranges i) a || covers b a
      let u := t.rehome (SMap.set t.ranges i b) moved
      let keep (l : SMap Line) : SMap Line := l.filter fun e => !moved e.1
      let v := { u with
        dies := SMap.mapVal (fun _ d => { d with guest := keep d.guest }) u.dies
        cores := SMap.mapVal (fun _ k => { k with l1d := keep k.l1d }) u.cores }
      (v.rehomeLines moved).rehomeParked.endCtl 0

/-! ## Queues and spill (R346) -/

/-- `SETQUEUE`. -/
def setQueue (s : State) (c : Control) : CtlEnd :=
  let n := field c.op1 0 5
  let e := field c.op1 8 1
  let r := s.queueOf c.ctx e
  if c.op0.toNat % 4096 ≠ 0 ∨ n < 4 ∨ 16 < n ∨ c.op2.toNat % 8 ≠ 0 ∨ (r.present ∧ r.head ≠ r.tail) then s.endCtl 1
  else ((s.setQueueOf c.ctx e ⟨true, c.op0.toNat, n, c.op2.toNat, 0, 0⟩).unitWord e c.op2.toNat 0).endCtl 0

/-- `SETSPILL`. -/
def setSpill (s : State) (die : Nat) (c : Control) : CtlEnd :=
  let n := c.op1.toNat
  if c.op0.toNat % 4096 ≠ 0 ∨ n % 4096 ≠ 0 ∨ 2 ^ 24 < n ∨ !(s.die die).spill.isEmpty then s.endCtl 1
  else (s.setDie die { s.die die with spillRegion := if n = 0 then none else some (c.op0.toNat, n) }).endCtl 0

/-! ## Registers (R345) -/

/-- The registers that a set-up image gives a stream. -/
def setUp (s : State) (l : List Byte) (q : Nat) : State :=
  let w (o : Nat) : Word := BitVec.ofNat 64 (leNat ((l.drop o).take 8))
  let put (r : SysReg) (v : Word) (t : State) : State := (t.sysWrite v r).getD t
  let s0 := { s with cur := q }
  let s1 := s0.setMe { s0.me with sb28 := w 0, sb29 := w 8 }
  let s2 := put .fewait (w 0x28) (put .nftrap (w 0x20) (put .srseed (w 0x18) (put .trapbase (w 0x10) s1)))
  let s3 := (List.range 8).foldl (fun t n => put (.bp (BitVec.ofNat 3 n)) (w (0x40 + 8 * n)) t) s2
  { s3 with cur := s.cur }

/-- `STREAMSET`. -/
def streamSet (s : State) (c : Control) : CtlEnd :=
  let x := s.ctx c.ctx
  let lx := field c.op0 0 4
  let ly := field c.op0 4 4
  let every := c.op0.getLsbD 12
  match s.image c.op1.toNat 128 with
  | (t, none) => t.endCtl 1
  | (t, some l) =>
    if leNat ((l.drop 0x30).take 16) ≠ 0 ∨ (every ∧ (lx ≠ 0 ∨ ly ≠ 0)) ∨ (!every ∧ (x.w ≤ lx ∨ x.h ≤ ly)) then t.endCtl 1
    else
      let cores := if every then t.coresOf c.ctx else [x.position (ly * x.w + lx)]
      let qs := (cores.map fun k => ((List.range 4).filter fun i => c.op0.getLsbD (8 + i)).map fun i => 4 * k + i).flatten
      if qs.any fun q => (t.stream q).run ≠ .idle ∨ (t.stream q).task.isSome then t.endCtl 7
      else (qs.foldl (setUp · l) t).endCtl 0

end State

/-! ## The steps -/

/-- `CTXCREATE` (R344). -/
def execCtxcreate (die : Nat) (s : State) : Out := s.control die 1 State.ctxCreate
/-- `CTXSET` (R344). -/
def execCtxset (die : Nat) (s : State) : Out := s.control die 2 State.ctxSet
/-- `INVTLB` (R354). -/
def execInvtlb (die : Nat) (s : State) : Out := s.control die 3 State.invTlb
/-- `CLRFAULT` (R214). -/
def execClrfault (die : Nat) (s : State) : Out := s.control die 8 State.clrFault
/-- `CTXDESTROY` (R344). -/
def execCtxdestroy (die : Nat) (s : State) : Out := s.control die 9 State.ctxDestroy
/-- `SETHOME` (R359). -/
def execSethome (die : Nat) (s : State) : Out := s.control die 10 State.setHome
/-- `SETQUEUE` (R346). -/
def execSetqueue (die : Nat) (s : State) : Out := s.control die 11 State.setQueue
/-- `SETSPILL` (R346). -/
def execSetspill (die : Nat) (s : State) : Out := s.control die 12 fun t c => t.setSpill die c
/-- `STREAMSET` (R345). -/
def execStreamset (die : Nat) (s : State) : Out := s.control die 13 State.streamSet

end Sys2Proof.Machine
end

