-- ==== Sys2Proof/Machine/SteEngine.lean ====
section
/-! DEFINITION. The sum-tree engines carry out their commands (R380 to R391). -/

namespace Sys2Proof.Machine

namespace State

/-- The end of a command: the engine's state after it, and its reply word; or the failure that stops it. -/
abbrev SteEnd := State × Except SteFail Word

def steFail (s : State) (status : Nat) : SteEnd := (s, .error { status := status })

/-- The reply word that names a leaf (R380). -/
def leafReply (status gen mass : Nat) : Word := BitVec.ofNat 64 (status + gen * 2 ^ 16 + mass * 2 ^ 32)
def valueReply (x : Nat) : Word := BitVec.ofNat 64 (x * 256)

/-- The end of a command that writes records: it waits while the home of one is out of reach. -/
def steStored (s : State) (cmd : SteCmd) (l : List (Nat × Nat × Nat)) (w : Word) : SteEnd :=
  if s.steReaches cmd.tree cmd.ctx l then (s.steWrite cmd.tree cmd.ctx l, .ok w) else (s, .error ⟨0, none, true⟩)

/-- The same, with the tree's descriptor changed. -/
def steStoredAs (s : State) (cmd : SteCmd) (l : List (Nat × Nat × Nat)) (d : BitVec 256) (w : Word) : SteEnd :=
  let r := s.steStored cmd l w
  (if r.2.toOption.isSome then r.1.setTree cmd.tree d else r.1, r.2)

/-! ## Insert and update (R383) -/

/-- The internal nodes above leaf `i`, the lowest first. -/
def pathAbove (leaves k i : Nat) : List Nat := (List.range k).map fun j => (leaves + i) / 2 ^ (j + 1)

/-- Values of nodes by number. -/
def nodeValue (d : BitVec 256) (n x : Nat) : NodeVal :=
  if n < SteDesc.leaves d then NodeVal.ofNode x else NodeVal.ofLeaf x

/-- The nodes of the path with a leaf's mass changed from `old` to `m`. -/
def pathValues (m old : Nat) : List Nat → SMap NodeVal → SMap NodeVal
  | [], v => v
  | n :: l, v =>
    let at' (j : Nat) := SMap.get ⟨0, 0⟩ v j
    pathValues m old l (SMap.set v n
      ⟨((at' n).sum + 2 ^ 56 + m - old) % 2 ^ 56, minNonzero (at' (2 * n)).minnz (at' (2 * n + 1)).minnz⟩)

/-- The records that the command may not touch as it does. -/
def steTouches (s : State) (k c : Nat) (l : List (Nat × Nat)) (acc : Acc) : List SteFail :=
  (l.map fun r => s.steSpan k c r.1 r.2 acc).flatten

/-- `STE.INS` and `STE.UPD` carried out; `gen` is the generation that an update expects. -/
def stePut (s : State) (cmd : SteCmd) (gen : Option Nat) : SteEnd :=
  let d := s.tree cmd.tree
  let k := cmd.tree / 16
  let L := SteDesc.leaves d
  let i := field cmd.sa 0 24
  if !s.ownsTree cmd.tree cmd.owner || decide (L ≤ i) then s.steFail 6
  else match massOf (SteDesc.scale d) (field cmd.sa 32 32) with
    | none => s.steFail 3
    | some m =>
      let path := pathAbove L (SteDesc.k d) i
      let written := (L + i) :: path
      let sides := (path.map fun n => [2 * n, 2 * n + 1]).flatten.filter fun n => !written.contains n
      let recs (l : List Nat) := l.map (SteDesc.record d)
      match steWorst (s.steTouches k cmd.ctx (recs written) .both ++ s.steTouches k cmd.ctx (recs sides) .load) with
      | some e => (s, .error e)
      | none => match s.steReads k cmd.ctx (recs (written ++ sides)) with
        | (t, .error e) => (t, .error e)
        | (t, .ok xs) =>
          let x := xs.headD 0
          let u := t.steTouch k cmd.ctx ((recs (written ++ sides)).map (·.1))
          if gen.any (· ≠ leafGen x) then
            (u.setTree cmd.tree (setField d 224 32 (min (SteDesc.drops d + 1) (2 ^ 32 - 1))),
              .ok (leafReply 1 (leafGen x) (leafMass x)))
          else
            let g := if gen.isSome then leafGen x else (leafGen x + 1) % 2 ^ 16
            let v0 : SMap NodeVal := ((written ++ sides).zip xs).map fun e => (e.1, nodeValue d e.1 e.2)
            let v := pathValues m (leafMass x) path (SMap.set v0 (L + i) (NodeVal.ofLeaf m))
            let leaf := SteDesc.record d (L + i)
            let out := (leaf.1, leaf.2, leafRec m g) ::
              path.map fun n => ((SteDesc.record d n).1, 16, (SMap.get ⟨0, 0⟩ v n).toNode)
            u.steStored cmd out (leafReply 0 g m)

/-! ## Sums (R387) -/

/-- One record read, with its checks in the order of R381. -/
def steFetch (s : State) (cmd : SteCmd) (n : Nat) (reply : Nat → Word) : SteEnd :=
  let r := SteDesc.record (s.tree cmd.tree) n
  match s.steRead (cmd.tree / 16) cmd.ctx r.1 r.2 with
  | (t, .error e) => (t, .error e)
  | (t, .ok x) => (t.steTouch (cmd.tree / 16) cmd.ctx [r.1], .ok (reply x))

/-- `STE.SUM` carried out. -/
def steSum (s : State) (cmd : SteCmd) : SteEnd :=
  let d := s.tree cmd.tree
  let i := field cmd.sd 8 24
  if !s.ownsTree cmd.tree cmd.owner || (cmd.k6 == 4#6 && decide (SteDesc.leaves d ≤ i)) then s.steFail 6
  else if cmd.k6 = 0#6 then s.steFetch cmd 1 fun x => valueReply (NodeVal.ofNode x).sum
  else if cmd.k6 = 1#6 then s.steFetch cmd 1 fun x => valueReply (NodeVal.ofNode x).minnz
  else if cmd.k6 = 2#6 then (s, .ok (valueReply (SteDesc.drops d)))
  else if cmd.k6 = 3#6 then (s, .ok (valueReply (SteDesc.epoch d)))
  else s.steFetch cmd (SteDesc.leaves d + i) fun x => leafReply 0 (leafGen x) (leafMass x)

/-! ## Draws (R384 to R386) -/

/-- The weight of a leaf (R385), as an FP32 code. -/
def drawWeight (beta mmin m : Nat) : Nat :=
  let r := Rnd.nearest
  let lg (x : Nat) : Val := Fmt.fp32.value (Fmt.fp32.log2 r 0 (.fin false x 0))
  let df := Fmt.fp32.sum r 0 [lg mmin, (lg m).neg]
  let e := Fmt.fp32.ofVal r 0 ((Fmt.fp32.value beta).mul (Fmt.fp32.value df))
  Fmt.fp32.exp2 r 0 (Fmt.fp32.value e)

/-- The target of draw `j` of `b` (R384). -/
def drawTarget (seed : Word) (epoch t b j : Nat) : Nat :=
  let lo := j * t / b
  let hi := (j + 1) * t / b
  lo + (genG seed (BitVec.ofNat 64 (epoch * 64 + j))).toNat * (hi - lo) / 2 ^ 64

/-- One descent from node `n`, `fuel` levels above the leaves: the leaf's node. -/
def descend (s : State) (k c : Nat) (d : BitVec 256) : Nat → Nat → Nat → State × Except SteFail Nat
  | 0, n, _ => (s, .ok n)
  | fuel + 1, n, u =>
    let r := SteDesc.record d (2 * n)
    match s.steRead k c r.1 r.2 with
    | (t0, .error e) => (t0, .error e)
    | (t0, .ok x) =>
      let t := t0.steTouch k c [r.1]
      let sum := (nodeValue d (2 * n) x).sum
      if u < sum then t.descend k c d fuel (2 * n) u else t.descend k c d fuel (2 * n + 1) (u - sum)

/-- The leaf record of a draw: (leaf, contents). -/
def drawOne (s : State) (k c : Nat) (d : BitVec 256) (u : Nat) : State × Except SteFail (Nat × Nat) :=
  match s.descend k c d (SteDesc.k d) 1 u with
  | (t, .error e) => (t, .error e)
  | (t, .ok n) =>
    let r := SteDesc.record d n
    match t.steRead k c r.1 r.2 with
    | (v, .error e) => (v, .error e)
    | (v, .ok x) => (v.steTouch k c [r.1], .ok (n - SteDesc.leaves d, x))

/-- Every draw, each on its own. -/
def drawAll (s : State) (k c : Nat) (d : BitVec 256) : List Nat → State × List (Except SteFail (Nat × Nat))
  | [] => (s, [])
  | u :: l =>
    let r := s.drawOne k c d u
    let rest := r.1.drawAll k c d l
    (rest.1, r.2 :: rest.2)

/-- The failure that those of a list give (R381). -/
def firstFail {α : Type} (l : List (Except SteFail α)) : Option SteFail :=
  steWorst (l.filterMap fun x => match x with
    | .error e => some e
    | .ok _ => none)

/-- `STE.DRAW` carried out. -/
def steDraw (s : State) (cmd : SteCmd) : SteEnd :=
  let d := s.tree cmd.tree
  let k := cmd.tree / 16
  let b := cmd.k6.toNat + 1
  let buf := cmd.sa.toNat
  let reg := SteDesc.region d
  if !s.ownsTree cmd.tree cmd.owner then s.steFail 6
  else if buf < reg.1 + reg.2 ∧ reg.1 < buf + 16 * b then s.steFail 9
  else match steWorst (s.steSpan k cmd.ctx buf (16 * b) .store ++ s.steSpan k cmd.ctx (SteDesc.record d 1).1 16 .load) with
    | some e => (s, .error e)
    | none => match s.steRead k cmd.ctx (SteDesc.record d 1).1 16 with
      | (t, .error e) => (t, .error e)
      | (t0, .ok root) =>
        let t := t0.steTouch k cmd.ctx [(SteDesc.record d 1).1]
        let v := NodeVal.ofNode root
        if v.sum = 0 then t.steFail 2
        else
          let r := t.drawAll k cmd.ctx d ((List.range b).map fun j =>
            drawTarget (SteDesc.seed d) (SteDesc.epoch d) v.sum b j)
          match firstFail r.2 with
          | some e => (r.1, .error e)
          | none =>
            let got := r.2.filterMap fun x => match x with
              | .ok y => some y
              | .error _ => none
            let out := got.zipIdx.map fun e =>
              let m := leafMass e.1.2
              (buf + 16 * e.2, 16, e.1.1 + leafGen e.1.2 * 2 ^ 32 + m * 2 ^ 64 +
                drawWeight (SteDesc.beta d) v.minnz m * 2 ^ 96)
            r.1.steStoredAs cmd out (setField d 192 32 (SteDesc.epoch d + 1)) (valueReply v.sum)

/-! ## Configuration (R382) -/

/-- The nodes of the level above a level. -/
def levelUp : List NodeVal → List NodeVal
  | a :: b :: l => a.join b :: levelUp l
  | _ => []

/-- The internal nodes, by number, above a level of `2 ^ k` nodes. -/
def levelsUp : Nat → List NodeVal → List (Nat × NodeVal)
  | 0, _ => []
  | k + 1, l =>
    let up := levelUp l
    levelsUp k up ++ up.zipIdx.map fun e => (2 ^ k + e.2, e.1)

/-- β is finite, not negative and not −0. -/
def goodBeta (x : Nat) : Bool := decide (x < 0x7F800000)

/-- R382, for the op of the image. -/
def malformedCfg (img : BitVec 512) : Bool :=
  let op := field img 0 8
  let k := field img 16 8
  let base := field img 64 64
  let zero (lo w : Nat) : Bool := field img lo w == 0
  !zero 224 288 ||
    (if op < 2 then k == 0 || decide (24 < k) || !goodBeta (field img 32 32) || base % 4096 != 0 ||
        decide (2 ^ 48 < base + 24 * 2 ^ k)
      else if op = 2 then !zero 16 16 || !zero 64 64 || !goodBeta (field img 32 32)
      else if op = 3 then !zero 16 208
      else true)

/-- The descriptor that CREATE and BUILD make. -/
def newDesc (img : BitVec 512) (owner : BitVec 16) (drops : Nat) : BitVec 256 :=
  BitVec.ofNat 256 (field img 64 48 + field img 16 5 * 2 ^ 48 + 2 ^ 63 + owner.toNat * 2 ^ 64 +
    field img 24 8 * 2 ^ 88 + field img 32 32 * 2 ^ 96 + field img 128 64 * 2 ^ 128 + field img 192 32 * 2 ^ 192 +
    drops * 2 ^ 224)

/-- CREATE: a region of zeros. -/
def steCreate (s : State) (cmd : SteCmd) : SteEnd :=
  let k := cmd.tree / 16
  let d := newDesc cmd.image cmd.owner 0
  let reg := SteDesc.region d
  match steWorst (s.steSpan k cmd.ctx reg.1 reg.2 .store) with
  | some e => (s, .error e)
  | none =>
    let out := (List.range (reg.2 / 16)).map fun j => (reg.1 + 16 * j, 16, 0)
    (s.steTouch k cmd.ctx (out.map (·.1))).steStoredAs cmd out d (valueReply 0)

/-- BUILD: every internal node from the leaves. -/
def steBuild (s : State) (cmd : SteCmd) : SteEnd :=
  let k := cmd.tree / 16
  let d := newDesc cmd.image cmd.owner (SteDesc.drops (s.tree cmd.tree))
  let L := SteDesc.leaves d
  let base := SteDesc.base d
  match steWorst (s.steSpan k cmd.ctx base (16 * L) .store ++ s.steSpan k cmd.ctx (base + 16 * L) (8 * L) .load) with
  | some e => (s, .error e)
  | none => match s.steReads k cmd.ctx ((List.range L).map fun i => SteDesc.record d (L + i)) with
    | (t, .error e) => (t, .error e)
    | (t, .ok xs) =>
      if xs.any fun x => decide (2 ^ 48 ≤ x) then t.steFail 7
      else
        let nodes := levelsUp (SteDesc.k d) (xs.map NodeVal.ofLeaf)
        let out := (base, 16, 0) :: nodes.map fun e => (base + 16 * e.1, 16, e.2.toNode)
        let u := t.steTouch k cmd.ctx ((List.range (24 * L / 16)).map fun j => base + 16 * j)
        u.steStoredAs cmd out d (valueReply ((nodes.head?.map (·.2.sum)).getD 0))

/-- SET: β, seed and epoch. -/
def steSet (s : State) (cmd : SteCmd) : SteEnd :=
  let d := s.tree cmd.tree
  match s.steFetch cmd 1 fun x => valueReply (NodeVal.ofNode x).sum with
  | (t, .error e) => (t, .error e)
  | (t, .ok w) =>
    (t.setTree cmd.tree (setField (setField (setField d 96 32 (field cmd.image 32 32)) 128 64 (field cmd.image 128 64))
      192 32 (field cmd.image 192 32)), .ok w)

/-- `STE.CFG` carried out. -/
def steCfg (s : State) (cmd : SteCmd) : SteEnd :=
  let d := s.tree cmd.tree
  let op := field cmd.image 0 8
  if op < 2 ∧ SteDesc.held d ∧ SteDesc.owner d ≠ cmd.owner then s.steFail 8
  else if (op = 2 ∨ op = 3) ∧ !s.ownsTree cmd.tree cmd.owner then s.steFail 6
  else if malformedCfg cmd.image then s.steFail 7
  else if op = 0 then s.steCreate cmd
  else if op = 1 then s.steBuild cmd
  else if op = 2 then s.steSet cmd
  else (s.setTree cmd.tree (setField (setField d 63 1 0) 64 16 0), .ok 0)

/-- A command carried out, whatever it is (R381). -/
def steCarryOut (s : State) (cmd : SteCmd) : SteEnd :=
  if (s.ste (cmd.tree / 16)).frozen then s.steFail 16
  else if cmd.minor = 0#5 then s.steCfg cmd
  else if cmd.minor = 1#5 then s.stePut cmd none
  else if cmd.minor = 2#5 then s.stePut cmd (some (field cmd.sd 0 16))
  else if cmd.minor = 3#5 then s.steDraw cmd
  else s.steSum cmd

/-- The reply of a command is sent, and the command has performed (R380, R388). -/
def steReply (s : State) (cmd : SteCmd) (w : Word) : State :=
  (s.setStream cmd.stream ((s.stream cmd.stream).uncount cmd.counted)).post (.steReply cmd.stream cmd.replyId w cmd.ste)

/-- The oldest queued command of a tree. -/
def steHead (s : State) (tree : Nat) : Option SteCmd := (s.ste (tree / 16)).queue.find? fun c => c.tree = tree

/-- What a command of a tree asks for before it is carried out, as `t` has it after that: the walks of its die, and the fills that
its context pays for (R412, R413). -/
def steBegin (s t : State) (tree : Nat) (cmd : SteCmd) : State :=
  let d := tree / 32
  let u := { s with regulators := t.regulators, l2 := t.l2 }.setDie d
    { s.die d with tlb := (t.die d).tlb, walks := (t.die d).walks }
  let mark (c : SteCmd) : SteCmd := if c.replyId = cmd.replyId then { c with begun := true } else c
  u.setSte (tree / 16) { s.ste (tree / 16) with queue := (s.ste (tree / 16)).queue.map mark }

/-- The end of a command is told. -/
def steEnd (s : State) (tree : Nat) (cmd : SteCmd) : Except SteFail Word → State
  | .ok w => s.steReply cmd w
  | .error e =>
    let u := match e.report with
      | some v => s.toHost 0 3 (BitVec.ofNat 64 v) (tree / 32)
      | none => s
    u.steReply cmd (BitVec.ofNat 64 e.status)

/-- The engine of a tree carries out its oldest command, where `kind` allows it (R389): once what it needs is in reach (R336) and
the regulators of the stacks have let its transfers go (R412). -/
def steTurn (s : State) (tree : Nat) (kind : SteCmd → Bool) : State :=
  match s.steHead tree with
  | none => s
  | some cmd =>
    if kind cmd && !s.heldCtx cmd.ctx then
      let x := s.ste (tree / 16)
      let s1 := s.setSte (tree / 16) { x with queue := x.queue.filter fun c => c.replyId ≠ cmd.replyId }
      let (t, r) := s1.steCarryOut cmd
      let away : Bool := match r with
        | .error e => e.away
        | .ok _ => false
      if away then s
      else if cmd.begun then { t with regulators := s.regulators }.steEnd tree cmd r
      else if t.heldCtx cmd.ctx then s.steBegin t tree cmd
      else t.steEnd tree cmd r
    else s

/-- The op of a configuration command; 4 for one that names none. -/
def cfgOp (c : SteCmd) : Nat := min (field c.image 0 8) 4

/-- A step of the engine of a tree. -/
def ofTree (s : State) (t : Nat) (kind : SteCmd → Bool) : Out := agent (decide (t < 64)) (s.steTurn t kind)

end State

/-- `STE_CFG_CREATE` (R382); a configuration whose op is no op ends here too. -/
def execSteCfgCreate (t : Nat) (s : State) : Out :=
  s.ofTree t fun c => c.minor == 0#5 && (State.cfgOp c == 0 || State.cfgOp c == 4)
/-- `STE_CFG_BUILD` (R382). -/
def execSteCfgBuild (t : Nat) (s : State) : Out := s.ofTree t fun c => c.minor == 0#5 && State.cfgOp c == 1
/-- `STE_CFG_SET` (R382). -/
def execSteCfgSet (t : Nat) (s : State) : Out := s.ofTree t fun c => c.minor == 0#5 && State.cfgOp c == 2
/-- `STE_CFG_RELEASE` (R382). -/
def execSteCfgRelease (t : Nat) (s : State) : Out := s.ofTree t fun c => c.minor == 0#5 && State.cfgOp c == 3
/-- `STE_INS_EXEC` (R383). -/
def execSteInsExec (t : Nat) (s : State) : Out := s.ofTree t fun c => c.minor == 1#5
/-- `STE_UPD_EXEC` (R383). -/
def execSteUpdExec (t : Nat) (s : State) : Out := s.ofTree t fun c => c.minor == 2#5
/-- `STE_DRAW_EXEC` (R384). -/
def execSteDrawExec (t : Nat) (s : State) : Out := s.ofTree t fun c => c.minor == 3#5
/-- `STE_SUM_EXEC` (R387). -/
def execSteSumExec (t : Nat) (s : State) : Out := s.ofTree t fun c => c.minor == 4#5

/-! ## Messages -/

namespace State

/-- Whether an earlier message brings a command of the same stream to the same engine. -/
def steBehind (s : State) (n ste stream : Nat) : Bool :=
  (s.net.take n).any fun m => match m with
    | .steCmd k c => k == ste && c.stream == stream
    | _ => false

end State

/-- `STECMD` (R379, R389): a command packet, which sets out once its word has retired, is queued at its engine, a stream's
commands in program order (R287). -/
def execStecmd (n : Nat) (s : State) : Out :=
  .next (match s.net[n]? with
    | some (.steCmd k c) =>
      let x := s.ste k
      if s.inTrb c.stream c.seq ∨ s.steBehind n k c.stream ∨ 256 ≤ x.queue.length ∨
          !s.sends (.core (c.stream / 4)) (.ste k) then s
      else (s.takeMsg n).setSte k { x with queue := x.queue ++ [c] }
    | _ => s)

/-- `STEREP` (R380): the reply word is written into the register that awaits it; a core that moves receives it after
the move (R218), and what waited for it goes on (R19). Of the lines that the tree's commands have written, those that a
cache of the reader holds as they were before are replaced, so that what follows a read of the reply sees them (R287;
log 20). -/
def execSterep (n : Nat) (s : State) : Out :=
  .next (match s.net[n]? with
    | some (.steReply q id w _) =>
      if s.holdsFor q && (s.stream q).run == .moving || (s.core (q / 4)).peg.isSome || !s.arrives n then s
      else
        let lines := (s.stes.map fun e => (e.2.wrote.map (·.2)).flatten).flatten
        let t := (s.takeMsg n).replaceStale (q / 4) fun line _ => lines.contains line
        (t.writePending q id w).releaseCore (q / 4)
    | _ => s)

end Sys2Proof.Machine
end

