-- ==== Sys2Proof/Machine/Migration.lean ====
section
/-! DEFINITION. Core images (R212, R213, R400), live migration (R217 to R219, R362 to R364) and repartitioning (R371). -/

namespace Sys2Proof.Machine

/-! ## Times and numbers -/

/-- A die time in the time base of die 0, and back (R408). -/
def State.toBase (s : State) (d : Nat) (t : Word) : Word := t + (s.die d).txofs
def State.fromBase (s : State) (d : Nat) (t : Word) : Word := t - (s.die d).txofs

/-- A deadline of one die as a time of another; 0 is none. -/
def State.convert (s : State) (d e : Nat) (t : Word) : Word := if t = 0 ∨ d = e then t else s.fromBase e (s.toBase d t)

/-! ## Core images -/

/-- Fields of an image: offset, bytes, value. -/
abbrev Fields := List (Nat × Nat × Nat)

/-- Equal fields in a row. -/
def rowOf (o n : Nat) (l : List Nat) : Fields := l.zipIdx.map fun e => (o + n * e.2, n, e.1)

def bitsOf (l : List Bool) : Nat := l.foldr (fun b n => b.toNat + 2 * n) 0

namespace State

/-- The 64-byte entry of a running task (R296). -/
def taskFields (o : Nat) (t : Task) : Fields := [(o, 64, leNat t.bytes)]

/-- The wait record (R213): [0] kind, [1] group, [4] phase or armed mask, [8] deadline in the base of die 0, [0x10] and
[0x11] the recorded wake and its monitors, [0x18] the register or predicate that the word writes, [0x19] which barrier
word waits. The places within it are the model's (log 26). -/
def waitFields (s : State) (o d : Nat) (t : Stream) : Fields :=
  let base (n : Option Nat) : Nat := match n with
    | some x => (s.toBase d (BitVec.ofNat 64 x)).toNat
    | none => 0
  match t.wait with
  | .mon r deadline =>
    [(o, 1, 1), (o + 4, 4, bitsOf (t.m.toList.map (·.armed))), (o + 8, 8, base deadline), (o + 0x18, 1, r.toNat),
      (o + 0x19, 1, deadline.isSome.toNat)]
  | .bar p g q arrived =>
    [(o, 1, 2), (o + 1, 1, g.toNat), (o + 4, 4, q.toNat), (o + 0x18, 1, p.toNat), (o + 0x19, 1, if arrived then 0 else 1)]
  | .barWait p g q => [(o, 1, 2), (o + 1, 1, g.toNat), (o + 4, 4, q.toNat), (o + 0x18, 1, p.toNat), (o + 0x19, 1, 2)]
  | .barArr r g q => [(o, 1, 2), (o + 1, 1, g.toNat), (o + 4, 4, q.toNat), (o + 0x18, 1, r.toNat), (o + 0x19, 1, 3)]
  | .taskNext true => [(o, 1, 3)]
  | _ => []

/-- The state that a stream is saved in (R213): idle, ready or waiting. -/
def savedState (t : Stream) : Nat :=
  match t.runBefore, t.wait with
  | .idle, _ => 0
  | .waiting, .mon _ _ => 2
  | .waiting, .bar _ _ _ _ => 2
  | .waiting, .barWait _ _ _ => 2
  | .waiting, .barArr _ _ _ => 2
  | .waiting, .taskNext true => 2
  | _, _ => 1

/-- The stream record of stream `i` of a core on die `d`, without its zeros. -/
def recordFields (s : State) (d i : Nat) (t : Stream) : Fields :=
  let o := 0x1000 + 0x400 * i
  rowOf (o + 8) 8 (t.s.toList.tail.map (·.toNat)) ++ rowOf (o + 0x100) 8 [t.sb28.toNat, t.sb29.toNat] ++
  [(o + 0x110, 8, bitsOf (false :: t.p.toList.tail))] ++
  rowOf (o + 0x118) 4 (t.i.toList.map (·.toNat)) ++ rowOf (o + 0x128) 4 (t.lc.toList.map (·.toNat)) ++
  rowOf (o + 0x138) 8 (t.lb.toList.map (·.toNat)) ++ rowOf (o + 0x158) 8 (t.x.toList.map (·.toNat)) ++
  rowOf (o + 0x198) 8 [t.srseed.toNat, t.nftrap.toNat, t.fewait.toNat, t.epc.toNat, t.ecause.toNat, t.eaddr.toNat,
    t.trapbase.toNat] ++
  rowOf (o + 0x1D0) 8 (t.bp.toList.map (·.toNat)) ++
  [(o + 0x210, 8, t.pc.toNat),
    (o + 0x218, 8, savedState t + 4 * t.faultMark.toNat + 8 * t.level.toNat + 16 * t.step.toNat + 32 * t.skip.toNat +
      2 ^ 8 * t.pend.toNat + 2 ^ 32 * t.hval.toNat)] ++
  (if savedState t = 2 then s.waitFields (o + 0x220) d t else []) ++
  (match t.task with
    | some k => taskFields (o + 0x240) k
    | none => []) ++
  (t.groups.zipIdx.map fun e => (o + 0x280 + 8 * e.2, 2, e.1.group.toNat + 2 ^ 8 * (1 + 2 * e.1.tflag.toNat))) ++
  (t.n.toList.zipIdx.map fun e => (o + 0x2A0 + 15 * e.2, 15,
    e.1.base.toNat + 2 ^ 48 * e.1.length.toNat + 2 ^ 96 * e.1.count.toNat + 2 ^ 112 * (e.1.bound.toNat + 2 * e.1.space.toNat))) ++
  [(o + 0x318, 8, if t.tdead = 0 then 0 else (s.toBase d t.tdead).toNat)] ++
  rowOf (o + 0x320) 8 (t.m.toList.map fun m => m.line.toNat * 2 ^ 7 + 2 * m.fired.toNat + m.armed.toNat) ++
  [(o + 0x340, 8, bitsOf (t.k.toList.map (·.sorted)))]

/-- The large registers of stream `i` (R212). -/
def fileFields (i : Nat) (t : Stream) : Fields :=
  rowOf (0x2000 + 0x1000 * i) 256 (t.h.toList.map (·.toNat)) ++
  (t.k.toList.zipIdx.map fun e => rowOf (0x6000 + 0x1000 * i + 0x400 * e.2) 4
    ((List.range 256).map fun j => field e.1.entries (19 * j) 19)).flatten ++
  rowOf (0xA000 + 0x1000 * i) 256 (t.t.toList.map (·.scales.toNat)) ++
  rowOf (0xE000 + 0x1000 * i) 256 (t.v.toList.map (·.toNat)) ++
  rowOf (0x12000 + 0x10000 * i) 4096 (t.t.toList.map (·.rows.toNat)) ++
  rowOf (0x52000 + 0x12000 * i) 18432 (t.c.toList.map (·.toNat))

/-- The areas of an image that hold its header, its copy records, its reserved bytes and its stream records, as zeros. -/
def blankFields : Fields := [(0, 0x100, 0), (0x100, 0x400, 0), (0x500, 0xB00, 0), (0x1000, 0x1000, 0)]

/-- Copy record `i` of an image (R212, R217, step 2): copy word, progress, token register, token, barrier binding, and the
fault of a stopped copy. Its captured handles and its slot counts, for which 64 bytes have no room, are kept beside the
image; the places within the record are the model's (log 26). -/
def copyFields (i : Nat) (r : CopyRec) : Fields :=
  let o := 0x100 + 64 * i
  let p := match r.phase with
    | .active => (0, 0, 0, 0)
    | .delivered => (1, 0, 0, 0)
    | .faulted status side addr => (2, side.toNat, status.toNat, addr.toNat)
  let b := match r.binding with
    | some x => (1, x.group.toNat, x.phase.toNat)
    | none => (0, 0, 0)
  [(o, 1, 1), (o + 1, 1, p.1), (o + 2, 1, p.2.1), (o + 3, 1, p.2.2.1), (o + 4, 4, r.word.toNat), (o + 8, 8, r.done),
    (o + 0x10, 1, r.reg.toNat), (o + 0x11, 1, r.stream), (o + 0x12, 1, r.toLocal.toNat), (o + 0x13, 1, b.1),
    (o + 0x14, 1, b.2.1), (o + 0x18, 4, b.2.2), (o + 0x20, 8, r.tokenId), (o + 0x28, 8, p.2.2.2), (o + 0x30, 8, r.seq)]

/-- The image of a core: (offset, bytes, value), later fields over earlier ones. -/
def imageFields (s : State) (c lx ly state : Nat) : Fields :=
  blankFields ++ [(0, 4, 0x59375341), (4, 4, 2), (8, 1, lx), (9, 1, ly), (0xC, 1, state)] ++
  ((s.core c).copies.map fun e => copyFields e.1 e.2).flatten ++
  ((List.range 4).map fun i => s.recordFields (dieOfCore c) i (s.stream (4 * c + i)) ++
    fileFields i (s.stream (4 * c + i))).flatten

/-- Fields of an image of context `id` written at an address by a command processor, charged to that context (R413). -/
def writeFields (s : State) (die id a : Nat) (l : Fields) : State :=
  l.foldl (fun t f => t.homeWrite die unitWriter (placed (a + f.1) (leBytes f.2.1 f.2.2)) (some id)) s

/-! ## Moving streams (R19, R167, R217) -/

/-- A stream meets a move at its event point, once its older entries have retired: a handler runs to its end first (R206); a held
word decodes again after the move, and a waiting word moves with its wait. -/
def enterMoving (s : State) (q : Nat) : State :=
  let t := s.stream q
  if t.run = .moving ∨ (t.level ∧ (t.run = .ready ∨ t.run = .blocked)) then s
  else
    let u := (s.settleTrb q).toEventPoint q
    let v := u.stream q
    if !u.atEventPoint q then u
    else if v.wait.holds || v.wait == .room || v.wait.isData then u.setStream q { v with run := .moving, runBefore := .ready, wait := .none }
    else u.setStream q { v with run := .moving, runBefore := v.run }

/-- What a stream has issued is performed as far as it can be. -/
def drain (s : State) (q : Nat) : State := (s.performMany q (s.stream q).storeQ.length).1

/-- A stream has reached its event point, and nothing that it issued is outstanding. An atomic may await its reply, which the peg
forwards (R218, R447); a stream that is saved awaits none (R213). -/
def drained (s : State) (q : Nat) (saved : Bool := false) : Bool :=
  let t := s.stream q
  t.run = .moving && t.storeQ.isEmpty && match t.wait with
    | .reply _ => !saved
    | _ => true

/-- The streams of a core are brought to their event points. -/
def settleCore (s : State) (c : Nat) : State :=
  (streamsAt c).foldl drain ((streamsAt c).foldl enterMoving s)

/-- A copy goes on to its next 128-byte boundary (R217, step 2), and from there to where no 64-byte block of its destination is
written in part (R281). -/
def copyToBoundary (s : State) (c i : Nat) : State :=
  match s.copyRec c i with
  | none => s
  | some r =>
    s.copyPieces c (((s.ownerOf c).map (·.1)).getD 0) i
      (fun r' => decide (r.progress % 128 = 0 ∨ r'.progress / 128 ≠ r.progress / 128)) 128

/-- Copies stop, and the pages of a core lie in their backing (R217, step 2). -/
def settleMemory (s : State) (c : Nat) : State :=
  let t := (List.range Config.copyRecords).foldl (fun u i => u.copyToBoundary c i) s
  let u := (List.range 256).foldl (fun v p => v.evictPage c p) t
  let k := u.core c
  u.setCore c { k with pages := SMap.mapVal (fun _ p => { p with pinned := false, resident := false, dirty := false }) k.pages }

/-- A mark of a logical core in its table entry. -/
def setEntry (s : State) (id j : Nat) (f : BitVec 128 → BitVec 128) : State :=
  let x := s.ctx id
  s.setCtx id { x with table := x.table.zipIdx.map fun e => if e.2 = j then f e.1 else e.1 }

/-! ## A move -/

/-- The start of a move (R217, step 1). -/
def startMove (s : State) (m : Move) : State :=
  let t := s.setEntry m.ctx m.logical fun e => setField e 9 1 1
  let u := t.setCore m.src { t.core m.src with moving := true }
  (streamsAt m.src).foldl enterMoving u

def setMove (s : State) (n : Nat) (m : Move) : State := { s with moves := s.moves.set n m }

/-- The unstarted moves of a die's command whose destinations are free start, up to four that leave a die at once
(R371). -/
def startMoves (s : State) (die : Nat) : State :=
  (List.range s.moves.length).foldl (fun t n =>
    match t.moves[n]? with
    | none => t
    | some m =>
      let running := (t.moves.filter fun y => y.started && dieOfCore y.src == dieOfCore m.src).length
      if m.die = die ∧ !m.started ∧ t.isFree m.dst ∧ running < 4 then
        (t.setMove n { m with started := true }).startMove m
      else t) s

/-- The steps 1 and 2 of a move, as far as they have come; when they end, the image is staged (R212, R217). -/
def drainMove (s : State) (n : Nat) (m : Move) : State :=
  let t := s.settleCore m.src
  if (streamsAt m.src).all fun q => t.drained q then
    let u := t.settleMemory m.src
    let x := u.ctx m.ctx
    (u.writeFields m.die m.ctx (x.image m.logical) (u.imageFields m.src (m.logical % x.w) (m.logical / x.w) 2)).setMove n
      { m with drained := true }
  else t

/-- A number of a stream or of a scratchpad place after core `a` has moved to core `b`. -/
def moveKey (a b q : Nat) : Nat := if q / 4 = a then 4 * b + q % 4 else q
def movePlace (a b place : Nat) : Nat :=
  if 2 ^ 48 + a * 2 ^ 20 ≤ place ∧ place < 2 ^ 48 + (a + 1) * 2 ^ 20 then place - 2 ^ 48 - a * 2 ^ 20 + 2 ^ 48 + b * 2 ^ 20
  else place

/-- A queued write after a move: a write to the scratchpad that moved is forwarded (R218). -/
def moveStore (a b : Nat) (e : StoreEntry) : StoreEntry :=
  { e with
    cells := e.cells.map fun x => (movePlace a b x.1, x.2)
    ranges := e.ranges.map fun r => (if r.1 = 1 + a then 1 + b else r.1, r.2) }

/-- The time `n` of a stream of core `a` that moves to core `b`, in the time of `b`'s die; 0 is none. -/
def moveTime (s : State) (a b n : Nat) : Nat := (s.convert (dieOfCore a) (dieOfCore b) (BitVec.ofNat 64 n)).toNat

/-- A command of an engine names the stream that awaits its reply, and its reply timer goes on in that stream's die time. -/
def moveCmd (s : State) (a b : Nat) (c : SteCmd) : SteCmd :=
  if c.stream / 4 = a then { c with stream := moveKey a b c.stream, sentAt := s.moveTime a b c.sentAt } else c

/-- A copy whose requests wait for the link, after a move. -/
def moveCopy (s : State) (a b : Nat) (r : CopyRec) : CopyRec := { r with waitsFrom := r.waitsFrom.map (s.moveTime a b) }

/-- A message after a move. What a peg forwards is not changed here. -/
def moveMsg (s : State) (a b : Nat) : Msg → Msg
  | .steCmd k c => .steCmd k (s.moveCmd a b c)
  | m => m

/-- The message with its stream on another core, where the time of its setting out is that of the stream's die. -/
def readdress (s : State) (a b : Nat) : Msg → Msg
  | .barDone q g p e d => .barDone (moveKey a b q) g p e d
  | .barBroken q g d => .barBroken (moveKey a b q) g d
  | .steReply q i w k => .steReply (moveKey a b q) i w k
  | .feReply q r n => .feReply (moveKey a b q) r (s.moveTime a b n)
  | .taskGiven q k n => .taskGiven (moveKey a b q) k (s.moveTime a b n)
  | m => m

/-- The takes of the dies after core `a` has moved to core `b`. Within a die a stream that waits in `TASK.NEXT` keeps its
turn; on the other die it begins to wait as it comes there, behind the streams that wait there already (R300, log 74). -/
def moveTakes (dies : SMap Die) (a b : Nat) : SMap Die :=
  if dieOfCore a = dieOfCore b then
    SMap.mapVal (fun _ (d : Die) => { d with takes := d.takes.map (moveKey a b) }) dies
  else
    let here := (SMap.get {} dies (dieOfCore a)).takes.filter fun q => q / 4 = a
    let d1 := SMap.mapVal (fun _ (d : Die) => { d with takes := d.takes.filter fun q => q / 4 ≠ a }) dies
    let x := SMap.get {} d1 (dieOfCore b)
    SMap.set d1 (dieOfCore b) { x with takes := x.takes ++ here.map (moveKey a b) }

/-- The marks of a line after core `a` has moved to core `b`: a stream that leaves the die leaves none behind. -/
def moveMarks (a b : Nat) (l : Line) : Line :=
  { l with passed := if dieOfCore a = dieOfCore b then l.passed.map (moveKey a b) else l.passed.filter fun q => q / 4 != a }

/-- What other agents hold under the name of a stream, after core `a` has moved to core `b`. -/
def renameCore (s : State) (a b : Nat) : State :=
  { s with
    dies := SMap.mapVal (fun _ (d : Die) => { d with guest := SMap.mapVal (fun _ l => moveMarks a b l) d.guest })
      (moveTakes s.dies a b)
    streams := SMap.mapVal (fun _ t => { t with storeQ := t.storeQ.map (moveStore a b) }) s.streams
    feQueue := s.feQueue.map fun r => { r with stream := moveKey a b r.stream }
    monEntries := s.monEntries.map fun e => { e with stream := moveKey a b e.stream }
    stes := SMap.mapVal (fun _ e => { e with queue := e.queue.map (s.moveCmd a b) }) s.stes
    net := (s.net.filter fun m => match m with
      | .readReq c _ _ _ _ => c != a
      | .readData c _ _ _ _ _ _ => c != a
      | _ => true).map (s.moveMsg a b) }

/-- The wait of a stream whose die changes. -/
def moveWait (s : State) (d e : Nat) : Wait → Wait
  | .mon r (some n) => .mon r (some (s.convert d e (BitVec.ofNat 64 n)).toNat)
  | .fe r take va place (some n) => .fe r take va place (some (s.convert d e (BitVec.ofNat 64 n)).toNat)
  | w => w

/-- A stream as it stands on its new core: its state before the move, its times in the base of the new die, and the
notice that the command asked for (R19, R219, R410). Of two moves whose notices merge, the later position is reported (R202,
log 78). -/
def arrived (s : State) (a b : Nat) (notify : Bool) (mesh : Word) (t : Stream) : Stream :=
  let d := dieOfCore a
  let e := dieOfCore b
  { t with
    run := if t.run = .moving then t.runBefore else t.run
    wait := s.moveWait d e t.wait
    tdead := s.convert d e t.tdead
    meshBefore := if notify then mesh else t.meshBefore
    pend := if notify then t.pend ||| 1#5 else t.pend }

/-- The requests whose replies come to core `a` are those of core `b` (R218). -/
def readdressAgents (s : State) (a b : Nat) : State :=
  let there (r : AgentReq) : AgentReq := { r with stream := moveKey a b r.stream }
  { s with dies := SMap.mapVal (fun _ (d : Die) => { d with
      agents := SMap.mapVal (fun _ (g : Agent) => { g with out := g.out.map there }) d.agents }) s.dies }

/-- Every route row of a context follows its core table (R363). -/
def reroute (s : State) (id : Nat) : State :=
  (s.coresOf id).foldl (fun t c => t.setCore c { t.core c with route := routeRow (s.ctx id) c }) s

/-- Step 4 of a move: the destination takes the image, whose state becomes 0 (log 79), the core table switches and the source
becomes a peg; markers set out from the other cores (R217, R364). -/
def installMove (s : State) (m : Move) : State :=
  let a := m.src
  let b := m.dst
  let k := s.core a
  let mesh := s.meshReg (4 * a)
  let s1 := (List.range 4).foldl (fun t i =>
    let x := t.stream (4 * a + i)
    (t.setStream (4 * b + i) (s.arrived a b m.notify mesh x)).setStream (4 * a + i) (Stream.vacate x)) (s.forgetCore a)
  let others := (s.ctx m.ctx).cores - 1
  let s2 := s1.setCore b { s1.core b with
    owner := k.owner
    moving := false
    pages := SMap.mapVal (fun _ p => { p with resident := false, dirty := false, pinned := false }) k.pages
    copies := SMap.mapVal (fun _ r => s.moveCopy a b r) k.copies
    l1d := []
    l1i := []
    tlb := []
    lru := [] }
  let s3 := s2.setCore a { s2.core a with
    owner := none
    moving := false
    peg := if others = 0 then none else some ⟨m.ctx, b, 2 * others⟩
    pages := []
    copies := []
    l1d := []
    l1i := []
    tlb := []
    lru := []
    route := [] }
  let s4 := (s3.renameCore a b).setEntry m.ctx m.logical fun e =>
    setField (setField (setField e 0 4 (meshX b)) 4 4 (meshY b)) 9 1 0
  let x := s4.ctx m.ctx
  let s5 := (s4.reroute m.ctx).homeWrite m.die unitWriter [(x.image m.logical + 0xC, 0)] (some m.ctx)
  let s5' := if dieOfCore a = dieOfCore b then s5 else s5.dropOldGuests (dieOfCore b)
  let s6 := s5'.unbind m.ctx
  if others = 0 then { s6.readdressAgents a b with net := s6.net.map (s6.readdress a b) }
  else ((s6.coresOf m.ctx).filter fun c => c != b).foldl (fun t c =>
    (t.post (.marker m.ctx a false c)).post (.marker m.ctx a true c)) s6

/-- A command of moves ends (R343, R371). -/
def endMoves (s : State) (die : Nat) (m : Move) : State :=
  let code := if m.failed then 8 else 0
  let t := match m.repart with
    | some (x, y) =>
      let c := s.ctx m.ctx
      let box := rectangle x y c.w c.h
      if m.failed || !((List.range c.cores).all fun j => box.contains (c.position j)) then s
      else s.setCtx m.ctx { c with desc := setField (setField c.desc 80 4 x) 84 4 y }
    | none => s
  t.finishControl die { Control.ofImage 0 with ctx := m.ctx, status := m.status } code 0

/-- A move leaves the list of moves; its command ends with the last of them. -/
def closeMove (s : State) (n : Nat) (m : Move) : State :=
  let t := { s with moves := s.moves.eraseIdx n }
  if t.moves.any fun y => y.die = m.die then t else t.endMoves m.die m

/-- A move that an uncorrectable error ends (R219, R371): the streams go on at the source, unless they have stopped. -/
def abandonMove (s : State) (n : Nat) (m : Move) : State :=
  let t := s.setEntry m.ctx m.logical fun e => setField e 9 1 0
  let u := t.setCore m.src { t.core m.src with moving := false }
  let v := (streamsAt m.src).foldl (fun w q =>
    let x := w.stream q
    if x.run = .moving then w.setStream q { x with run := x.runBefore } else w) u
  let keep (e : Move × Nat) : Bool := e.2 == n || e.1.die != m.die || e.1.started
  let mark (e : Move × Nat) : Move := if e.1.die = m.die then { e.1 with failed := true } else e.1
  let w := { v with moves := (v.moves.zipIdx.filter keep).map mark }
  match w.moves.findIdx? fun y => y.src = m.src ∧ y.die = m.die with
  | some i => w.closeMove i { m with failed := true }
  | none => w

/-! ## The commands -/

/-- A move of this die's command is under way. -/
def hasMoves (s : State) (die : Nat) : Bool := s.moves.any fun m => m.die == die

/-- Another command moves this logical core, or takes its context away. -/
def coreBusy (s : State) (id j : Nat) : Bool :=
  (s.ctx id).leaving || s.moves.any fun m => m.ctx == id && m.logical == j

/-- `MIGRATE` (R217, R344, R365). -/
def migrate (s : State) (die : Nat) (c : Control) : CtlEnd :=
  let x := s.ctx c.ctx
  let lx := field c.op0 0 4
  let ly := field c.op0 4 4
  let j := ly * x.w + lx
  let dst := coreAt (field c.op1 0 4) (field c.op1 4 4)
  if s.hasMoves die then (s, none)
  else if x.w ≤ lx ∨ x.h ≤ ly then s.endCtl 1
  else if s.coreBusy c.ctx j then (s, none)
  else if !s.isFree dst then s.endCtl 3
  else
    let m : Move := ⟨c.ctx, j, x.position j, dst, c.op2.getLsbD 0, true, false, die, c.status, none, false⟩
    ({ s with moves := s.moves ++ [m] }.startMove m, none)

/-- The positions of the logical cores after a list of (logical core, destination). -/
def positionsAfter (x : Ctx) (l : List (Nat × Nat)) : List Nat :=
  (List.range x.cores).map fun j => match l.find? fun e => e.1 = j with
    | some e => e.2
    | none => x.position j

/-- A destination of a list: free, or a core or a peg of the same context (R365, R371). -/
def mayReceive (s : State) (id : Nat) (c : Nat) : Bool :=
  let k := s.core c
  s.isFree c || ((k.owner.any fun o => o.1 == id) && !k.errored) ||
    (k.owner.isNone && (k.peg.any fun p => p.ctx == id) && !k.errored)

/-- `REPART` (R371): the checks, then the moves. A list whose moves would not leave the image in the new rectangle in its
own orientation is malformed (R20, log 47). -/
def repart (s : State) (die : Nat) (c : Control) : CtlEnd :=
  let x := s.ctx c.ctx
  let n := c.op1.toNat
  let x0 := field c.op2 0 4
  let y0 := field c.op2 4 4
  if s.hasMoves die then (s.startMoves die, none)
  else if x.leaving ∨ s.isMovingCtx c.ctx then (s, none)
  else if n < 1 ∨ 256 < n ∨ !rectangleGood x0 y0 x.w x.h then s.endCtl 1
  else match s.image c.op0.toNat (2 * n) with
    | (t, none) => t.endCtl 1
    | (t, some bytes) =>
      let es := (List.range n).map fun i => leNat ((bytes.drop (2 * i)).take 2)
      let l := es.map fun e => (e / 16 % 16 * x.w + e % 16, coreAt (e / 256 % 16) (e / 4096))
      let after := positionsAfter x l
      let box := rectangle x0 y0 x.w x.h
      if es.any (fun e => decide (x.w ≤ e % 16 ∨ x.h ≤ e / 16 % 16)) ∨ (l.map (·.1)).eraseDups.length ≠ n then t.endCtl 1
      else if !l.all (fun e => t.mayReceive c.ctx e.2) then t.endCtl 3
      else if box.any (t.heldByOther · (some c.ctx)) then t.endCtl 4
      else if after ≠ box then t.endCtl 1
      else
        let ms := l.map fun e =>
          (⟨c.ctx, e.1, x.position e.1, e.2, false, false, false, die, c.status, some (x0, y0), false⟩ : Move)
        ({ t with moves := t.moves ++ ms }.startMoves die, none)

/-! ## Pegs (R218, R364) -/

/-- The stream that a message is addressed to. -/
def targetOf : Msg → Option Nat
  | .barDone q _ _ _ _ => some q
  | .barBroken q _ _ => some q
  | .steReply q _ _ _ => some q
  | .feReply q _ _ => some q
  | .taskGiven q _ _ => some q
  | _ => none

end State

/-- `MIGRATE` (R217, R344). -/
def execMigrate (die : Nat) (s : State) : Out := s.control die 4 fun t c => t.migrate die c

/-- `REPART` (R344, R371). -/
def execRepart (die : Nat) (s : State) : Out := s.control die 5 fun t c => t.repart die c

/-- `MIGRATION_DRAIN_COMPLETE` (R217): steps 1 and 2 of move `n`. -/
def execMigrationDrainComplete (n : Nat) (s : State) : Out :=
  .next (match s.moves[n]? with
    | some m => if m.started && !m.drained then s.drainMove n m else s
    | none => s)

/-- `MIGRATION_INSTALL` (R217): step 4 of move `n`. -/
def execMigrationInstall (n : Nat) (s : State) : Out :=
  .next (match s.moves[n]? with
    | some m => if m.drained then (s.installMove m).closeMove n m else s
    | none => s)

/-- `PEG_FORWARD` (R218, R364): a message that has come to a vacated core goes on to where the core has moved. -/
def execPegForward (n : Nat) (s : State) : Out :=
  .next (match s.net[n]? with
    | some m => match State.targetOf m with
      | some q => match (s.core (q / 4)).peg with
        | some p => { s with net := s.net.set n (s.readdress (q / 4) p.dest m) }
        | none => s
      | none => s
    | none => s)

/-- A write of core `p` to the scratchpad of core `c` is on its way, as `BULK` or as `PROMPT` traffic (R321). -/
def State.writesTo (s : State) (p c : Nat) (bulk : Bool) : Bool :=
  (streamsAt p).any fun q => (s.stream q).storeQ.any fun e =>
    e.kind == .remote && e.phase == .sent && targetCore e == c && e.kind.isBulk == bulk

/-- `MARKER` (R364): a marker arrives behind every message that was sent before it, the writes of its sender and the replies of
atomics among them; with the last one the peg clears. -/
def execMarker (n : Nat) (s : State) : Out :=
  .next (match s.net[n]? with
    | some (.marker _ c bulk p) =>
      let behind := ((s.net.take n).any fun m => (State.targetOf m).any fun q => q / 4 == c) ||
        s.dies.any fun e => e.2.agents.any fun g => g.2.out.any fun r => r.stream / 4 == c
      if !s.arrives n || s.writesTo p (((s.core c).peg.map (·.dest)).getD c) bulk || behind then s
      else
        let t := s.takeMsg n
        let k := t.core c
        t.setCore c { k with peg := match k.peg with
          | some p => if p.waiting ≤ 1 then none else some { p with waiting := p.waiting - 1 }
          | none => none }
    | _ => s)

end Sys2Proof.Machine
end

