-- ==== Sys2Proof/Machine/Packets.lean ====
section
/-! DEFINITION. What packets hold: headers, sector records, how they are packed into flits, the packets of a stream's writes and of a
remote-atomic agent's requests, and what a unit may send into its router (R324 to R326, R337, R339). -/

namespace Sys2Proof.Machine

/-! ## Headers (R324) -/

/-- A packet header. -/
structure Header where
  kind : Nat
  n : Nat := 0
  dest : Nat
  master : BitVec 12
  addr : Nat := 0
  len : Nat := 0
  ctx : Nat := 0
  aux : Nat := 0
  agent : Nat := 0
  reqnum : BitVec 16 := 0
  deriving DecidableEq, Repr

/-- Its 16 bytes. -/
def Header.bits (h : Header) : BitVec 128 :=
  BitVec.ofNat 128 (h.aux + h.kind * 2 ^ 8 + h.n * 2 ^ 16 + h.dest * 2 ^ 20 + h.master.toNat * 2 ^ 32 + h.reqnum.toNat * 2 ^ 44 +
    h.len * 2 ^ 60 + h.agent * 2 ^ 69 + h.ctx * 2 ^ 74 + h.addr % 2 ^ 48 * 2 ^ 80)

/-! ## Sector records (R325) -/

/-- A sector record: 32 bytes, their check value, the writer ID and the poison mark. -/
structure Record where
  data : List Byte
  crc : BitVec 16
  writer : BitVec 12
  poison : Bool
  deriving DecidableEq, Repr

namespace Record

/-- Its 36 bytes. -/
def bytes (r : Record) : List Byte :=
  r.data ++ leBytes 4 (r.crc.toNat + r.writer.toNat * 2 ^ 16 + r.poison.toNat * 2 ^ 28)

/-- The record that 36 bytes hold. -/
def ofBytes (l : List Byte) : Record :=
  let w := leNat (l.drop 32)
  ⟨l.take 32, BitVec.ofNat 16 w, BitVec.ofNat 12 (w / 2 ^ 16), w.testBit 28⟩

/-- The check value of the record fits its bytes. -/
def good (r : Record) : Bool := crc16 r.data == r.crc

end Record

/-- Chunks of `n` bytes, the last filled up with zeros; at most `fuel` of them. -/
def chunked (n : Nat) : Nat → List Byte → List (List Byte)
  | 0, _ => []
  | fuel + 1, l => if l.isEmpty then [] else
    let c := l.take n
    (c ++ List.replicate (n - c.length) 0) :: chunked n fuel (l.drop n)

/-- The payloads of a packet's flits: the header and record 0, then the others without gaps. -/
def payloads (h : Header) (rs : List Record) : List (List Byte) :=
  let head := leBytes 16 h.bits.toNat ++ (match rs with
    | r :: _ => r.bytes
    | [] => List.replicate 36 0)
  head :: chunked 52 12 ((rs.drop 1).map Record.bytes).flatten

/-- The records of a packet of `n` from the payloads of its flits. -/
def recordsIn (n : Nat) (l : List (List Byte)) : List Record :=
  let rest := (l.drop 1).flatten
  (((l.headD []).drop 16) :: (List.range (n - 1)).map fun i => (rest.drop (36 * i)).take 36).take n |>.map Record.ofBytes

/-- The payload of a flit. -/
def payload (f : FlitBits) : List Byte := (List.range 52).map fun i => f.extractLsb' (8 * i) 8

/-! ## The packets of a write (R325) -/

/-- Bytes put in the order of their places. -/
def inOrder (x : Nat × Byte) : List (Nat × Byte) → List (Nat × Byte)
  | [] => [x]
  | y :: l => if x.1 ≤ y.1 then x :: y :: l else y :: inOrder x l

/-- Bytes in the order of their places, as contiguous runs within a line: each goes in one packet. -/
def runsOf : List (Nat × Byte) → List (Nat × List Byte)
  | [] => []
  | (a, b) :: l => match runsOf l with
    | (k, r) :: m => if a + 1 = k ∧ k % 128 ≠ 0 then (a, b :: r) :: m else (a, [b]) :: (k, r) :: m
    | [] => [(a, [b])]

/-- The records of a run: bytes outside it are 0, and the check value covers them (R232). -/
def runRecords (writer : BitVec 12) (a : Nat) (l : List Byte) : List Record :=
  (List.range ((a % 32 + l.length + 31) / 32)).map fun j =>
    let data := (List.range 32).map fun i =>
      let at_ := 32 * j + i
      if a % 32 ≤ at_ then l.getD (at_ - a % 32) 0 else 0
    ⟨data, crc16 data, writer, false⟩

/-- The position of a router as unit IDs and writer IDs have it (R319, R453). -/
def positionId (r : Nat) : Nat := dieOfCore r * 128 + meshY r * 8 + meshX r % 8

namespace State

/-- The ID of a unit (R319, R373). -/
def siteId (s : State) : Site → Nat
  | .core c => 16 * positionId c
  | .slice k => s.unitId 1 k
  | .ste k => s.unitId 2 k
  | .heap d => s.unitId 3 d
  | .command d => s.unitId 4 d
  | .group d => s.unitId 7 d
  | .hostPort => s.unitId 5 0

/-- The context ID of the stream's core in a header. -/
def headerCtx (s : State) (q : Nat) : Nat := ((s.ownerOf (q / 4)).map (·.1)).getD 0

/-- The packets of a write that has set out: one for each run of its bytes. A reduction and a full/empty write are requests whose
operands the spec gives no layout. -/
def writePackets (s : State) (q : Nat) (e : StoreEntry) : List (Header × List Record) :=
  let kind := match e.kind with
    | .scalar | .wide => 3
    | .remote => 7
    | _ => 0
  if kind = 0 then []
  else (runsOf ((e.landed ++ e.cells).foldr inOrder [])).map fun r =>
    let rs := runRecords (writerOfStream q) r.1 r.2
    (⟨kind, rs.length, s.siteId (s.siteOf r.1), writerOfStream q, r.1, r.2.length, s.headerCtx q, 0, 0, 0⟩, rs)

/-- The header of a request that a remote-atomic agent holds (R339). -/
def atomHeader (s : State) (agent : Nat) (r : AgentReq) : Header :=
  ⟨5, 1, s.siteId (s.siteOf r.op.place), writerOfStream r.stream, r.op.place, atomSize r.op.aux.toNat, s.headerCtx r.stream,
    r.op.aux.toNat, agent, r.reqnum⟩

/-- The writes that stream `q` has on their way, as packets. -/
def sentPackets (s : State) (q : Nat) : List (Header × List Record) :=
  (((s.stream q).storeQ.filter fun e => e.phase == .sent).map (s.writePackets q)).flatten

/-! ## What a unit sends into its router (R324 to R326) -/

/-- The fields of a header that only packets of some kinds have are 0 in the others. -/
def fieldsGood (h : BitVec 128) : Bool :=
  let k := Flit.kind h
  (k == 5 || Flit.aux h == 0) && (k == 4 || k == 5 || k == 6 || (Flit.agent h == 0 && Flit.reqnum h == 0)) &&
    decide (Flit.len h ≤ 384) && Flit.ended h == 0#2 && decide (Flit.records h ≤ 12)

/-- A request is sent where its master stands (R453). -/
def masterHere (router : Nat) (h : BitVec 128) : Bool :=
  !([1, 3, 5, 7, 8, 0xA, 0xC].contains (Flit.kind h)) || (Flit.master h).toNat / 16 == positionId router

/-- The room that the unit behind a port has for replies beyond what it has reserved (R326). How much a unit has, the spec does not
say: at least that of the longest reply (log 94). -/
def hasReplyRoom (s : State) (port : Nat) (h : BitVec 128) : Bool :=
  decide ((s.inPort (unitPort port)).reserved + Flit.replyFlits h ≤ 9 + Config.replyRoom port)

/-- Whether the payload of a flit is number `i` of the write of a stream that the header is of, or the header that of a request of an
agent. A packet of another kind, or of another master, is formed by its unit in a step that is one with its effect (log 28). -/
def formed (s : State) (h : BitVec 128) (i : Nat) (f : FlitBits) : Bool :=
  let k := Flit.kind h
  let id := Flit.master h
  let q := 4 * coreAt (8 * field id 11 1 + field id 4 3) (field id 7 4) + field id 0 4
  if (k = 3 ∨ k = 7) ∧ field id 0 4 < 4 then
    (s.sentPackets q).any fun p => p.1.bits == h && (payloads p.1 p.2)[i]? == some (payload f)
  else if k = 5 ∧ Flit.reqnum h ≠ 0 then
    (SMap.get ({} : Sys2Proof.Machine.Agent) (s.die (Flit.agent h / 16)).agents (Flit.agent h)).out.any fun r =>
      (s.atomHeader (Flit.agent h) r).bits == h
  else true

/-- Whether a unit sends a flit into its router: a packet begins with a header that one of its kind has, once there is room for the
reply, and goes on as it began. -/
def unitSends (s : State) (port : Nat) (f : FlitBits) : Bool :=
  let h := Flit.header f
  if Flit.isControl f then true
  else if Flit.isFirst f then
    fieldsGood h && masterHere (routerOf port) h && s.hasReplyRoom port h && s.formed h 0 f
  else match reasm (s.inPort port) (Flit.cls f) with
    | some r => s.formed r.header (Flit.flitsOf (Flit.records r.header) - r.expected) f
    | none => false

end State

end Sys2Proof.Machine
end

