-- ==== Sys2Proof/Machine/Links.lean ====
section
/-! DEFINITION. The ports of the mesh (R319 to R332, R337, R338, R456). The flit layer carries the packets of the units; what
a packet's arrival does at its unit are the steps of the other files (log 28). -/

namespace Sys2Proof.Machine

namespace State

/-- The pool in which a flit lies that comes to a port: by its header, or that of the last packet of its class (R323, R456). -/
def poolAt (p : InPort) (f : FlitBits) : Nat :=
  let c := Flit.cls f
  if Flit.isFirst f ∨ c = 2#2 then Flit.poolOf c (Flit.kind (Flit.header f))
  else if c = 0#2 then p.bulkPool else p.promptPool

/-- The port notes the pool of a packet that comes. -/
def notePool (p : InPort) (f : FlitBits) : InPort :=
  if Flit.cls f = 0#2 then { p with bulkPool := poolAt p f }
  else if Flit.cls f = 1#2 then { p with promptPool := poolAt p f } else p

/-- A link-protocol error (R325): the packet of the class is discarded, with the flit that showed it, and the error reported. What
the port has passed on of it ends as half-sent (R337). -/
def protocolError (s : State) (port : Nat) (c : BitVec 2) (f : FlitBits) : State :=
  let die := dieOfCore (routerOf port)
  let t := s.freeSlot port (poolAt (s.inPort port) f) 1
  let u := t.setInPort port (notePool (t.inPort port) f)
  ((u.endOpen port c).addTelemetry die 0x0A18 1).sendMgmt die 6 (BitVec.ofNat 64 port)

/-- What a control word says about the room at the far side (R323). -/
def takeCredits (s : State) (port : Nat) (f : FlitBits) : State :=
  let k := Flit.pool f
  let o := s.outPort port
  if h : 1 ≤ k ∧ k < 6 then
    let grown := (Flit.credits f - o.seen[k]'h.2).toNat
    s.setOutPort port { o with
      credits := o.credits.set k (o.credits[k]'h.2 + grown) h.2
      seen := o.seen.set k (Flit.credits f) h.2 }
  else s

/-- Whether a packet of a class may come as its head flit says: an assigned kind, which travels in that class, of as many flits as
packets of that kind have, at most 4 of `PROMPT` and 1 of `ALERT` (R321, R325). -/
def headGood (c : BitVec 2) (f : FlitBits) : Bool :=
  let h := Flit.header f
  let n := Flit.flitsOf (Flit.records h)
  Flit.assigned (Flit.kind h) && Flit.travels (Flit.kind h) c && (Flit.lengths (Flit.kind h)).contains n &&
    decide (n = 1) == Flit.isLast f && (if c = 2#2 then decide (n = 1) else if c = 1#2 then decide (n ≤ 4) else true)

/-- The watchdog counts of a port after a flit of class `c` (R338). -/
def countIdle (p : InPort) (c : BitVec 2) : InPort :=
  let tick (k : BitVec 2) (r : Option Reassembly) : Option Reassembly :=
    r.map fun x => { x with idle := if k = c then 0 else x.idle + 1 }
  { p with bulk := tick 0#2 p.bulk, prompt := tick 1#2 p.prompt }

/-- A POISON ends the open packet of its class and goes on where that was open; with none open it is discarded (R337). -/
def takePoison (s : State) (port : Nat) (f : FlitBits) : State :=
  let c := Flit.ended (Flit.header f)
  match reasm (s.inPort port) c with
  | none => s
  | some r => s.discardOpen port c r f

/-- A flit of a packet that a port accepts. `whole` keeps a packet's flits until its last has come (a Mortar port);
a mesh port forwards each flit as it comes. -/
def acceptFlit (s : State) (port : Nat) (whole : Bool) (f : FlitBits) : State :=
  let c := Flit.cls f
  let p0 := countIdle (s.inPort port) c
  let s0 := s.setInPort port { p0 with lastCls := some c }
  let h := Flit.header f
  let expectResume := !Flit.isFirst f && p0.lastCls != some c
  if Flit.resume f ≠ expectResume then s0.protocolError port c f
  else if Flit.isFirst f then
    if (reasm p0 c).isSome ∨ !headGood c f then s0.protocolError port c f
    else if Flit.kind h = 0x3F then (s0.takePoison port f).freeSlot port 1 1
    else
      let out := routerOf port * 8 + s0.outputFor (routerOf port) (Flit.dest h)
      let (s1, id) := (s0.setInPort port (notePool (s0.inPort port) f)).freshId
      let n := Flit.flitsOf (Flit.records h)
      let pool := Flit.poolOf c (Flit.kind h)
      let pkt : OutPacket := { id := id, cls := c, flits := [f], left := n, pool := pool, input := port % 8, fresh := true }
      if Flit.isLast f then (s1.joinQueue out pkt).freeSlot port pool 1
      else
        let r : Reassembly := ⟨h, if whole then [f] else [], n - 1, out, id, 0⟩
        let s2 := s1.setInPort port (setReasm (s1.inPort port) c (some r))
        if whole then s2 else (s2.joinQueue out pkt).freeSlot port pool 1
  else match reasm p0 c with
    | none => s0.protocolError port c f
    | some r =>
      let pool := Flit.poolOf c (Flit.kind r.header)
      if (r.expected = 1) ≠ (Flit.isLast f = true) then s0.protocolError port c f
      else
        let r' := { r with expected := r.expected - 1, idle := 0, flits := if whole then r.flits ++ [f] else [] }
        let s1 := s0.setInPort port (setReasm (s0.inPort port) c (if Flit.isLast f then none else some r'))
        if whole then
          if Flit.isLast f then
            let pkt : OutPacket := { id := r.id, cls := c, flits := r'.flits, left := r'.flits.length, pool := pool,
                                     input := port % 8, fresh := true }
            (s1.joinQueue r.out pkt).freeSlot port pool r'.flits.length
          else s1
        else (s1.addFlit r.out r.id c f).freeSlot port pool 1

/-! ## Containment (R332) -/

/-- The commands of a context end with a status. -/
def endSteCmds (s : State) (id : Nat) (status : Nat) : State :=
  let queued := (s.stes.map fun e => e.2.queue.filter fun c => c.ctx = id).flatten
  let sent := s.net.filterMap fun m => match m with
    | .steCmd _ c => if c.ctx = id then some c else none
    | _ => none
  let t := { s with
    stes := SMap.mapVal (fun _ e => { e with queue := e.queue.filter fun c => c.ctx ≠ id }) s.stes
    net := s.net.filter fun m => match m with
      | .steCmd _ c => c.ctx != id
      | _ => true }
  (queued ++ sent).foldl (fun u c => u.steReply c (BitVec.ofNat 64 status)) t

/-- Every copy of a core in flight ends with a status. -/
def endCopies (s : State) (c : Nat) (status : BitVec 8) : State :=
  (List.range Config.copyRecords).foldl (fun t i => match t.copyRec c i with
    | none => t
    | some r => match r.phase with
      | .faulted _ _ _ => t
      | _ => t.stopCopy c i r ⟨status, false, BitVec.ofInt 64 (Handle.elemAddr r.src (unitCoords r.dst r.fmt r.done)), none⟩) s

/-- A stream stops with UNCORR, unless it has stopped before. -/
def stopUncorr (s : State) (q : Nat) (addr : Word) : State :=
  if (s.stream q).run = .idle ∧ (s.stream q).faultMark then s else s.stopNow q .uncorr addr

/-- A context is contained: its streams stop, what it has in flight ends, and it is reported. -/
def containCtx (s : State) (die id : Nat) : State :=
  let t := (s.streamsOf id).foldl (fun u q => u.stopUncorr q 0) s
  let u := (s.coresOf id).foldl (fun v c => v.endCopies c 15) t
  let v := u.endSteCmds id 15
  (v.setCtx id { v.ctx id with contained := true }).toHost 0 7 (BitVec.ofNat 64 id) die

/-- Fabric containment of a die. -/
def containDie (s : State) (die port : Nat) : State :=
  let ids := (s.ctxs.map (·.1)).filter fun id => s.holdsCoreOn id die
  ids.foldl (containCtx · die ·) (s.toHost 0 8 (BitVec.ofNat 64 port) die)

/-- A mesh port drops a flit (R331, R332). The room that it took is free again, in the pool of the flit `f` that was sent (R456). -/
def dropFlit (s : State) (port : Nat) (f : FlitBits) : State :=
  let die := dieOfCore (routerOf port)
  let s0 := if Flit.isControl f then s
    else
      let t := s.freeSlot port (poolAt (s.inPort port) f) 1
      t.setInPort port (notePool (t.inPort port) f)
  let t := (s0.addTelemetry die 0x0A00 1).sendMgmt die 9 (BitVec.ofNat 64 port)
  ((t.endOpen port 0#2).endOpen port 1#2).containDie die port

/-! ## Arbitration (R326 to R328) -/

/-- Whether the far side has room for a packet. -/
def hasRoom (o : OutPort) (p : OutPacket) : Bool := decide (p.left ≤ o.credits.toList.getD p.pool 0)

/-- Whether a class is sendable, and whether it waits for credits only. -/
def sendable (o : OutPort) (c : BitVec 2) : Bool :=
  match queueIn o c with
  | [] => false
  | p :: _ => !p.flits.isEmpty && (p.begun || hasRoom o p)
def lacksCredit (o : OutPort) (c : BitVec 2) : Bool :=
  match queueIn o c with
  | [] => false
  | p :: _ => !p.flits.isEmpty && !p.begun && !hasRoom o p

/-- The class that a slot serves, from what is sendable (`b` BULK, `p` PROMPT, `al` ALERT); none sends a control flit. -/
def chooseFrom (o : OutPort) (b p al : Bool) : Option (BitVec 2) :=
  let a := al && decide (15 ≤ o.sinceAlert)
  if b && decide (6 ≤ o.nb) && !o.passed then some 0#2
  else if a && !(p && o.passed) then some 2#2
  else if p then some 1#2
  else if b then some 0#2
  else none

/-- The class that a slot of a port serves. -/
def choose (o : OutPort) : Option (BitVec 2) := chooseFrom o (sendable o 0#2) (sendable o 1#2) (sendable o 2#2)

/-- The port after a slot: `passed`, `nb` and the slots since an ALERT flit. -/
def settle (o : OutPort) (sent : Option (BitVec 2)) (p b : Bool) : OutPort :=
  { o with
    passed := p && sent != some 1#2
    nb := if sent = some 0#2 ∨ !b then 0 else o.nb + 1
    sinceAlert := if sent = some 2#2 then 0 else min 15 (o.sinceAlert + 1) }

/-- A POISON that leaves a port lets the class of the packet go on that it ends there; the room of the flits that never came is free
(R326, R337). -/
def passPoison (o : OutPort) (f : FlitBits) : OutPort :=
  let c := Flit.ended (Flit.header f)
  if Flit.kind (Flit.header f) ≠ 0x3F then o
  else match queueIn o c with
    | p :: l => if p.ended then giveBack (setQueueIn o c l) p.pool p.left else o
    | [] => o

/-- The next flit of a class with its resume mark, and the port without it. -/
def popFlit (o : OutPort) (c : BitVec 2) : FlitBits × OutPort :=
  match queueIn o c with
  | [] => (0, o)
  | p :: l =>
    let f := p.flits.headD 0
    let resume := p.begun && o.lastCls != some c
    let pool := p.pool
    let o1 := setQueueIn o c (if p.left ≤ 1 then l else { p with flits := p.flits.tail, begun := true, left := p.left - 1 } :: l)
    let o2 := if p.begun then o1 else { o1 with
      credits := if h : pool < 6 then o1.credits.set pool (o1.credits[pool] - p.left) else o1.credits }
    (Flit.setCtl (Flit.setCtl f 16 1 resume.toNat) 0 12 0,
      { (if c = 2#2 then passPoison o2 f else o2) with lastCls := some c })

/-- A control flit. -/
def controlFlit : FlitBits := Flit.setCtl 0 12 2 3

/-- The credits that a flit leaving a port reports for the port that receives on the same link; the fields that a link
before gave it are gone (R323). -/
def tellCredits (s : State) (port : Nat) (f : FlitBits) : State × FlitBits :=
  let p := s.inPort port
  match (List.range 6).find? fun k => 1 ≤ k && p.freed.toList.getD k 0 != p.told.toList.getD k 0 with
  | none => (s, Flit.setCtl f 32 20 0)
  | some k =>
    (s.setInPort port { p with told := if h : k < 6 then p.told.set k p.freed[k] else p.told },
      Flit.setCtl (Flit.setCtl f 32 4 k) 36 16 (p.freed.toList.getD k 0).toNat)

/-- A flit leaves a port. -/
def emit (s : State) (port : Nat) (f : FlitBits) : State :=
  let (t, g) := s.tellCredits port f
  t.setOutPort port { t.outPort port with sent := some (Flit.withCrc g) }

/-- The output port whose link ends at a receiving port of a router: that of the neighbour in the port's direction. A port
towards a unit of the router has none: what comes there is what the unit sends. -/
def neighbourPort (port : Nat) : Option Nat :=
  let r := routerOf port
  if port % 8 = 0 ∧ 0 < meshY r then some (8 * (r - 16) + 2)
  else if port % 8 = 1 ∧ meshX r < 15 then some (8 * (r + 1) + 3)
  else if port % 8 = 2 ∧ meshY r < 15 then some (8 * (r + 16))
  else if port % 8 = 3 ∧ 0 < meshX r then some (8 * (r - 1) + 1)
  else none

/-- The place of the first sector of a packet's records, and who takes them: a core, or a home. -/
def recordPlace (h : BitVec 128) : Nat × Consumer :=
  let c := coreAt (8 * (Flit.dest h / 2048) + Flit.dest h / 16 % 8) (Flit.dest h / 128 % 16)
  let a := (Flit.addr h).toNat / 32 * 32
  (if Flit.kind h = 7 then localPlace c (a % 2 ^ 20) else a, if Flit.dest h % 16 = 0 then .core c else .home)

/-- The records of a packet that has come to its unit whole are checked where their data leaves the links (R232, R233, R325). -/
def takeRecords (s : State) (h : BitVec 128) (flits : List FlitBits) : State :=
  if Flit.kind h = 2 ∨ Flit.kind h = 3 ∨ Flit.kind h = 7 then
    ((recordsIn (Flit.records h) (flits.map payload)).zipIdx).foldl (fun t e =>
      if e.1.poison || e.1.good then t
      else t.badData ((recordPlace h).1 + 32 * e.2) e.1.writer (recordPlace h).2) s
  else s

/-- A unit has received a packet whole: the room that it reserved for a reply is free, and the records are checked. -/
def unitDone (s : State) (port : Nat) (h : BitVec 128) (flits : List FlitBits) : State :=
  (if Flit.isReply (Flit.kind h) then s.unreserve port (Flit.flitsOf (Flit.records h)) else s).takeRecords h flits

/-- A flit reaches the unit behind an output port (R337): a POISON ends the partial packet of its class, of which the unit
does nothing, and with none it is discarded. -/
def unitTakes (s : State) (port : Nat) (f : FlitBits) : State :=
  let u := unitPort port
  let p := s.inPort u
  let h := Flit.header f
  let c := Flit.cls f
  if Flit.isFirst f ∧ Flit.kind h = 0x3F then
    match reasm p (Flit.ended h) with
    | none => s
    | some r => ((s.setInPort u (setReasm p (Flit.ended h) none)).unreserve port
        (if Flit.isReply (Flit.kind r.header) then Flit.flitsOf (Flit.records r.header) else 0)).post (.poison r.header)
  else if Flit.isFirst f then
    if Flit.isLast f then s.unitDone port h [f]
    else s.setInPort u (setReasm p c (some ⟨h, [f], Flit.flitsOf (Flit.records h) - 1, port, 0, 0⟩))
  else match reasm p c with
    | none => s
    | some r =>
      if Flit.isLast f then (s.setInPort u (setReasm p c none)).unitDone port r.header (r.flits ++ [f])
      else s.setInPort u (setReasm p c (some { r with flits := r.flits ++ [f], expected := r.expected - 1 }))

/-- A slot in which credits hold a class of a port is counted for its router's output (R414, R420). -/
def countHeld (s : State) (port : Nat) (o : OutPort) : State :=
  let r := routerOf port
  if [0#2, 1#2, 2#2].any (lacksCredit o) then
    s.addTelemetry (dieOfCore r) (0x1000 + 0x40 * (8 * meshY r + meshX r % 8) + 8 * (port % 8)) 1
  else s

/-- A slot of a port with no Mortar module behind it. A flit that the neighbour has not received yet is still on the
link. -/
def meshSlot (s : State) (port : Nat) : State :=
  let o := takeTurns (s.outPort port)
  let p := sendable o 1#2
  let b := sendable o 0#2
  let s0 := s.countHeld port o
  if (neighbourPort port).isSome ∧ o.sent.isSome then s
  else match choose o with
  | none => (s0.setOutPort port (settle o none p b)).emit port controlFlit
  | some c =>
    let (f, o') := popFlit o c
    let t := (s0.setOutPort port (settle o' (some c) p b)).emit port (Flit.setCtl f 18 14 0)
    if (neighbourPort port).isSome then t else t.unitTakes port f

/-- What the first message of a queue brings a host read. -/
def returned : List HostData → List (List Byte)
  | m :: _ => if m.reply then [m.bytes] else []
  | [] => []

/-- A message slot of the host egress path: the arbiter of R328 at message granularity (R341). The host has granted what
CXL asks for (log 28). -/
def hostSlot (s : State) : State :=
  let x := s.board
  let b := !x.egBulk.isEmpty
  let p := !x.egPrompt.isEmpty
  let o := s.outPort 2048
  let c := chooseFrom o b p !x.egAlert.isEmpty
  let t := s.setOutPort 2048 (settle o c p b)
  { t with board :=
      if c = some 0#2 then { x with egBulk := x.egBulk.tail, hostReads := x.hostReads ++ returned x.egBulk }
      else if c = some 1#2 then { x with egPrompt := x.egPrompt.tail, hostReads := x.hostReads ++ returned x.egPrompt }
      else if c = some 2#2 then { x with egAlert := x.egAlert.tail, msix := x.msix ++ x.egAlert.take 1 }
      else x }

/-- The state after what a port had sent has come off its link. -/
def offLink (s : State) (port : Nat) : State := s.setOutPort port { s.outPort port with sent := none }

/-- What comes in at a port with a flit as it arrives: the state with the link clear, and the flit that the other side sent, where it
is that one or has failed its check on the way. -/
def arrivesFrom (s : State) (sender : Nat) (flit : FlitBits) : Option (State × FlitBits) :=
  match (s.outPort sender).sent with
  | none => none
  | some f => if Flit.good flit && flit != f then none else some (s.offLink sender, f)

end State

namespace State

/-- A flit at a receiving port of a router, which was sent as `sent`. -/
def meshReceive (s : State) (port : Nat) (flit sent : FlitBits) : State :=
  if !Flit.good flit then s.dropFlit port sent
  else
    let t := s.takeCredits port flit
    if Flit.isControl flit then t.setInPort port (countIdle (t.inPort port) 3#2) else t.acceptFlit port false flit

end State

/-- A flit that a unit sends into its router, with the room reserved for the reply to a request that begins (R326). -/
def State.inject (s : State) (port : Nat) (flit : FlitBits) : State :=
  if Flit.good flit && !s.unitSends port flit then s
  else
    let t := if Flit.good flit && Flit.isFirst flit && !Flit.isControl flit then
        s.reserve port (Flit.replyFlits (Flit.header flit)) else s
    t.meshReceive port flit flit

/-- `MESH_FLIT_RECEIVE` (R319, R330, R331): a flit arrives at a receiving port of a router: the one that the neighbour sent,
or one that a unit of the router sends. -/
def execMeshFlitReceive (port : Nat) (flit : BitVec 512) (s : State) : Out :=
  agent (decide (port < 2048)) (
    if (mortarPort port).isSome then s
    else if 4 ≤ port % 8 then s.inject port flit
    else match (State.neighbourPort port).bind fun p => s.arrivesFrom p flit with
      | none => s
      | some (t, sent) => t.meshReceive port flit sent)

/-- `REASSEMBLY_WATCHDOG` (R338): a packet that has had no flit for 8,192 slots ends. -/
def execReassemblyWatchdog (port : Nat) (s : State) : Out :=
  agent (decide (port < 2048)) (
    let late (c : BitVec 2) : Bool := (State.reasm (s.inPort port) c).any fun r => decide (8192 ≤ r.idle)
    let die := dieOfCore (routerOf port)
    [0#2, 1#2].foldl (fun t c =>
      if late c then ((t.endOpen port c).addTelemetry die 0x0A10 1).sendMgmt die 10 (BitVec.ofNat 64 port) else t) s)

/-- `MGMT` (R325, R419): a report reaches the command processor of its die, which passes it to the host; what that of die 1 has
passed on has come over the Mortar link (R14). -/
def execMgmt (n : Nat) (s : State) : Out :=
  .next (if !s.arrives n then s else match s.net[n]? with
    | some (.mgmt d code addr) => (s.takeMsg n).toHost 0 code addr d
    | some (.report _ m) => (s.takeMsg n).report 0 m
    | _ => s)

namespace State

/-- The core of the master that a writer ID names (R453), and its unit. -/
def masterCore (id : BitVec 12) : Nat := coreAt (8 * field id 11 1 + field id 4 3) (field id 7 4)

/-- A copy of a core whose data ended on the way: its token receives status 32, on the side of the packet (R261, R338). Which
of several the packet was of, its header does not say: it is free (log 76). -/
def endCopyData (s : State) (c : Nat) (side : Bool) : State :=
  let live := (List.range Config.copyRecords).filter fun i => (s.copyRec c i).any fun r => r.phase == .active
  match s.pickAny live with
  | (t, some i) => match t.copyRec c i with
    | some r => t.stopCopy c i r ⟨32, side, r.addrAt side, none⟩
    | none => t
  | (t, none) => t

/-- A command of a stream to an engine ends with status 32, wherever it has come to: it is not carried out (R381), or its reply
brings that status. -/
def endCommand (s : State) (q : Nat) : State :=
  match (s.steCommands q).head? with
  | none => { s with net := s.net.map fun m => match m with
      | .steReply p id w k => .steReply p id (if p = q then 32 else w) k
      | _ => m }
  | some c =>
    let t := { s with
      net := s.net.filter fun m => match m with
        | .steCmd _ d => d.replyId != c.replyId
        | _ => true
      stes := SMap.mapVal (fun _ e => { e with queue := e.queue.filter fun d => d.replyId ≠ c.replyId }) s.stes }
    t.steReply c 32

/-- The write of a stream that a packet was of, by the address of its first byte; it counts as performed (R271). -/
def endWrite (s : State) (q : Nat) (a : Word) : State :=
  match (s.stream q).storeQ.find? fun e => e.phase == .sent && (e.landed ++ e.cells).any fun x => x.1 % 2 ^ 48 == a.toNat with
  | some e => s.dropStore q e
  | none => s

/-- The task that is on its way to a stream of a core goes back to its heap, unchanged, and the stream requests one again
(R338). -/
def taskBack (s : State) (c : Nat) : State :=
  match (streamsAt c).findSome? fun q => (s.taskNews q).map fun e => (q, e) with
  | none => s
  | some (q, n, k) =>
    let t := { s with net := s.net.eraseIdx n }.placeEntry k.die k
    let d := dieOfCore c
    if s.awaitsTask q then t.setDie d { t.die d with takes := q :: (t.die d).takes } else t

/-- A core is one of a context. -/
def ownedBy (s : State) (c id : Nat) : Bool := (s.ownerOf c).any fun o => o.1 == id

/-- A refill, a write-back or a save-area image of a context ended on the way: the core stops, and the context is reported. -/
def endImage (s : State) (c id : Nat) : State :=
  if s.ownedBy c id then
    ((streamsAt c).foldl (fun t q => t.stopUncorr q 0) s).toHost 0 12 (BitVec.ofNat 64 id) (dieOfCore c)
  else s

/-- The outcome of a packet that ends (R338), by its kind and its master. What a scratchpad moves or a command processor writes has
no master of R453: its packets are taken to have an m from 8 on, which names none (log 95); they concern the core of their
context that they go to or come from. -/
def endPacket (s : State) (h : BitVec 128) : State :=
  let id := Flit.master h
  let m := field id 0 4
  let c := masterCore id
  let k := Flit.kind h
  let q := 4 * c + m
  let at' := coreAt (8 * (Flit.dest h / 2048) + Flit.dest h / 16 % 8) (Flit.dest h / 128 % 16)
  if k = 0xE ∨ k = 0xF then s.taskBack at'
  else if k = 0xC ∨ k = 0xD then (if m < 4 then s.endCommand q else s)
  else if k = 1 ∨ k = 2 ∨ k = 3 ∨ k = 7 then
    if m < 4 then (if k = 3 ∨ k = 7 then s.endWrite q (Flit.addr h) else s).stopUncorr q (Flit.addr h)
    else if m = 4 then s.endCopyData c (k == 3)
    else if 8 ≤ m then s.endImage (if s.ownedBy at' (Flit.ctx h) then at' else c) (Flit.ctx h)
    else s
  else s

end State

/-- `POISON` (R337, R338): a half-sent packet has ended, and its outcome is that of R338. -/
def execPoison (n : Nat) (s : State) : Out :=
  .next (match s.net[n]? with
    | some (.poison h) => (s.takeMsg n).endPacket h
    | _ => s)

/-- `SNOOP` (R290, R341): a snoop of the host for the line of its memory that holds an address. -/
def execSnoop (line : Nat) (s : State) : Out :=
  .next (if line < 2 ^ 48 ∧ s.running then s.snoopLine (hostPlace (line / 128 * 128)) else s)

namespace State

/-- The reply timer of a request that was sent at a time has run out at a stream's die: 100,000 ticks (R332). -/
def timedOut (s : State) (q sentAt : Nat) : Bool := decide (sentAt + 100000 ≤ s.now (dieOfCore (q / 4)))

/-- The reply timer of the running stream's request that waits for the link (R336). -/
def lateLink (s : State) (q : Nat) : Option Word :=
  match (s.stream q).wait with
  | .link since _ a => if s.timedOut q since then some a else none
  | _ => none

/-- A message that the link has kept from a stream too long (R332, R336). -/
def lateNews (s : State) (q : Nat) : Option Msg :=
  s.net.find? fun m => match m with
    | .feReply p _ n => p == q && s.timedOut q n && !(s.msgLane m).all fun l => s.sends l.2.1 l.2.2
    | .taskGiven p _ n => p == q && s.timedOut q n && !(s.msgLane m).all fun l => s.sends l.2.1 l.2.2
    | _ => false

/-- A copy of a stream whose requests have waited for the link too long. -/
def lateCopy (s : State) (q : Nat) : Option (Nat × CopyRec) :=
  (s.core (q / 4)).copies.find? fun e => e.2.stream == q % 4 && e.2.phase == .active && e.2.waitsFrom.any (s.timedOut q)

/-- The oldest write that has left its core and whose timer has run out, a far reduction excepted, which its agent repeats
(R340). -/
def lateWrite (s : State) (q : Nat) : Option StoreEntry :=
  (s.stream q).storeQ.find? fun e => e.phase ≠ .queued && !s.isFarReduction q e && s.timedOut q e.sentAt

/-- The request of a stream that a reply timer ends (R332, R336), as R338 gives for its kind: a write on its way or unacknowledged,
which counts as performed (R271); a word's request that waits for the link; a full/empty reply or a task that it keeps away; a
copy; or a command of an engine. -/
def endRequest (s : State) (q : Nat) : State :=
  match s.lateWrite q, s.lateLink q, s.lateNews q, s.lateCopy q with
  | some e, _, _, _ => (s.dropStore q e).stopUncorr q e.va
  | none, some a, _, _ => s.stopUncorr q a
  | none, none, some (.feReply _ _ _), _ => match (s.stream q).wait with
    | .fe _ _ va _ _ => s.stopUncorr q va
    | _ => s
  | none, none, some _, _ => s.taskBack (q / 4)
  | none, none, none, some (i, r) => s.stopCopy (q / 4) i r ⟨32, false, r.addrAt false, none⟩
  | none, none, none, none => if (s.steCommands q).head?.any fun c => s.timedOut q c.sentAt then s.endCommand q else s

end State

/-- `REPLY_TIMER_EXPIRY` (R332): the reply to a request of stream `q` has not come in time. -/
def execReplyTimerExpiry (q : Nat) (s : State) : Out := ofStream q (s.endRequest q)

end Sys2Proof.Machine
end

