-- ==== Sys2Proof/Machine/Errors.lean ====
section
/-! DEFINITION. Uncorrectable errors (R215, R219, R231, R391). -/

namespace Sys2Proof.Machine

namespace State

/-- The moves from or to a core are abandoned, and their error is reported (R219). -/
def abandonMovesOf (s : State) (c : Nat) : State :=
  (List.range s.moves.length).foldl (fun t _ =>
    match t.moves.zipIdx.find? fun e => e.1.src == c || e.1.dst == c with
    | some e => (t.abandonMove e.2 e.1).toHost 0 12 (BitVec.ofNat 64 c) (dieOfCore c)
    | none => t) s

/-- Where the telemetry block of its die counts the ECC events of a core's SRAM (R414, R420). -/
def coreSram (c : Nat) : Nat := 0x3400 + 0x10 * (8 * meshY c + meshX c % 8)

/-- An error in a core's own files: the moves of the core end, its four streams stop, and the event is counted at its SRAM (R414). -/
def coreError (s : State) (c : Nat) : State :=
  let t := s.abandonMovesOf c
  let u := t.setCore c { t.core c with errored := true }
  let v := (u.addTelemetry (dieOfCore c) (coreSram c + 8) 1).toHost 0 12 (BitVec.ofNat 64 c) (dieOfCore c)
  if (v.ownerOf c).isSome then (streamsAt c).foldl (fun w q => w.stopUncorr q 0) v else v

/-- The counting of an ECC event at a sector (R231, R414): by the stack that holds it, or by the SRAM of its core; `u` is
0 for a corrected error and 1 for an uncorrectable one. -/
def countEcc (s : State) (place u : Nat) : State :=
  if place < 2 ^ 48 then
    let k := s.homeSlice place
    s.addTelemetry (k / 32) (0x3000 + 0x10 * (k / 16 % 2) + 8 * u) 1
  else
    let c := (place - 2 ^ 48) / 2 ^ 20
    s.addTelemetry (dieOfCore c) (coreSram c + 8 * u) 1

/-- An error in a sector of device memory or of a scratchpad: it is poisoned and counted. Host memory is not the
device's own. -/
def sectorError (s : State) (place : Nat) : State :=
  if 2 ^ 52 ≤ place then s
  else ((s.setSector place { s.sector place with poison := true }).countEcc place 1).toHost 0 12 (BitVec.ofNat 64 place) (s.dieOfPlace place)

/-- An ECC event of an L2 slice is counted there (R231, R414). -/
def countSliceEcc (s : State) (k u : Nat) : State := s.addTelemetry (k / 32) (0x3100 + 0x10 * (k % 32) + 8 * u) 1

/-- An uncorrectable error of an L2 slice in a sector that it holds: the sector of a line homed there, or of the guest copy
that lies there, is poisoned (R231). -/
def sliceError (s : State) (k place : Nat) : State :=
  let line := place / 128 * 128
  let d := k / 32
  let t := if s.homeSlice place = k then s.setSector place { s.sector place with poison := true }
    else match SMap.find (s.die d).guest line with
      | some l => s.setDie d { s.die d with
          guest := SMap.set (s.die d).guest line { l with poison := l.poison ||| BitVec.ofNat 4 (2 ^ (place % 128 / 32)) } }
      | none => s
  (t.countSliceEcc k 1).toHost 0 12 (BitVec.ofNat 64 place) d

end State

/-- `UNCORRECTABLE_ERROR` (R215, R231). A correctable error is corrected where it is read, and written back: no byte
changes, and the event is counted. -/
def execUncorrectableError (site : ErrorSite) (s : State) : Out :=
  match site with
  | .coreFile c => ofCore c (s.coreError c)
  | .sector place => .next (s.sectorError place)
  | .l2Sector k place => agent (decide (k < 64)) (s.sliceError k place)
  | .nodeCache k ctx line =>
    agent (decide (k < 4)) (s.setSte k { s.ste k with lines := (s.ste k).lines.filter (· ≠ (ctx, line)) })
  | .corrected place => .next (if 2 ^ 52 ≤ place then s else s.countEcc place 0)
  | .l2Corrected k => agent (decide (k < 64)) (s.countSliceEcc k 0)

end Sys2Proof.Machine
end

