-- ==== Sys2Proof/Machine/SaveArea.lean ====
section
/-! DEFINITION. Context switch to memory and resume (R213, R216, R220, R221, R257, R400). -/

namespace Sys2Proof.Machine

namespace State

/-! ## Switching out (R220) -/

/-- The monitors of a context's streams as the parked-arm tables hold them (R257). -/
def armsOf (s : State) (id : Nat) : List ParkedArm :=
  let qs := s.streamsOf id
  (s.monEntries.filter fun e => qs.contains e.stream).map fun e =>
    ⟨e.line, (s.ctx id).owner, ((s.ownerOf (e.stream / 4)).map (·.2)).getD 0, e.stream % 4, e.reg⟩

/-- Whether the tables of both dies take more arms. -/
def roomForArms (s : State) (l : List ParkedArm) : Bool :=
  (List.range 2).all fun d =>
    decide ((s.die d).parked.length + (l.filter fun p => s.homeDie p.line = d).length ≤ Config.parkedEntries)

/-- Arms enter the tables, and the filter bits of their lines are set. -/
def park (s : State) (l : List ParkedArm) : State :=
  l.foldl (fun t p =>
    let d := t.homeDie p.line
    let x := t.die d
    t.setDie d { x with
      parked := x.parked ++ [p]
      filters := (t.filterBit p.line :: x.filters).eraseDups }) s

/-- The streams of a context stop at their event points and what they issued drains. -/
def settleCtx (s : State) (id : Nat) : State :=
  (s.coresOf id).foldl (fun t c => (t.setCore c { t.core c with moving := true }).settleCore c) s

/-- Everything that the switch waits for has ended: pegs, moves, start messages, engine replies, barrier messages, issued
work (R220, R365, R391). -/
def settledCtx (s : State) (id : Nat) : Bool :=
  let qs := s.streamsOf id
  qs.all (s.drained · true) && !s.steBusy id && !(s.net.any (goesTo qs))

/-- A switch-out that cannot park the arms leaves the context as it was. -/
def unsettle (s : State) (id : Nat) : State :=
  let t := (s.coresOf id).foldl (fun t c => t.setCore c { t.core c with moving := false }) s
  let u := (s.streamsOf id).foldl (fun t q =>
    let x := t.stream q
    if x.run = .moving then t.setStream q { x with run := x.runBefore } else t) t
  u.setCtx id { u.ctx id with leaving := false }

/-- What a stream keeps beside its record. -/
def besideOf (t : Stream) : SavedStream :=
  ⟨t.hostQueue, t.brokenGroup, t.meshBefore, t.pending, t.seqNext, t.n.toList.map (·.gen), t.fresh⟩

/-- A stream that waited in `TASK.NEXT` is saved as ready at the word, or as placed there (R213). -/
def saveImages (s : State) (die id : Nat) : State :=
  let x := s.ctx id
  (List.range x.cores).foldl (fun t j =>
    let c := x.position j
    t.writeFields die id (x.image j) (t.imageFields c (j % x.w) (j / x.w) 1)) s

/-- The tasks of an owner are bound to no die any more (R297). -/
def unbindAll (s : State) (owner : BitVec 16) : State :=
  let free (t : Task) : Task := if t.owner = owner then { t with bound := false } else t
  (s.mapTasks 0 free).mapTasks 1 free

/-- The context's cores and ID become free; its tasks, groups and trees stay (R372). -/
def dismiss (s : State) (id : Nat) : State :=
  let qs := s.streamsOf id
  let cs := s.coresOf id
  let s1 := qs.foldl withdraw (s.dropTranslations id 0 (2 ^ 48))
  let s2 := qs.foldl (fun t q => t.setStream q (Stream.vacate (t.stream q))) s1
  let s3 := cs.foldl freeCore s2
  { s3 with
    ctxs := SMap.erase s3.ctxs id
    regulators := SMap.mapVal (fun k r => if k % 64 = id then r.stop else r) s3.regulators
    monEntries := s3.monEntries.filter fun e => !qs.contains e.stream
    locks := s3.locks.filter fun l => l.ctx ≠ some id }

/-- The save itself. -/
def saveCtx (s : State) (die id : Nat) (arms : List ParkedArm) : State :=
  let t := ((s.coresOf id).foldl settleMemory s).park arms
  let x := t.ctx id
  let u := t.saveImages die id
  let saved : SavedCtx :=
    { desc := x.desc
      table := x.table.map fun e => setField e 8 1 0
      queues := x.queues
      faults := x.faults
      lastId := id
      copies := (List.range x.cores).map fun j => (j, (u.core (x.position j)).copies)
      pageLocks := ((List.range x.cores).map fun j =>
        ((u.core (x.position j)).pages.filter fun e => e.2.locked).map fun e => (j, e.1, e.2.holder)).flatten
      cancels := x.cancels
      beside := (List.range (4 * x.cores)).map fun i => (i, besideOf (u.stream (u.memberStream id i))) }
  let v := (u.unbindAll x.owner).dismiss id
  { v with saved := v.saved ++ [saved] }

/-- `SWITCHOUT`. It waits until its context has come to rest. -/
def switchOut (s : State) (die : Nat) (c : Control) : CtlEnd :=
  let id := c.ctx
  let s1 := s.setCtx id { s.ctx id with leaving := true }
  if s1.startsOut id || s1.isMovingCtx id || (s1.cores.any fun e => e.2.peg.any fun p => p.ctx == id) then (s1, none)
  else
    let s2 := s1.settleCtx id
    if !s2.settledCtx id then (s2, none)
    else
      let arms := s2.armsOf id
      if s2.roomForArms arms then (s2.saveCtx die id arms).endCtl 0 else (s2.unsettle id).endCtl 6

/-! ## Reading images (R212, R213, R221) -/

/-- The number of `n` bytes of a list from offset `o` on. -/
def at' (l : List Byte) (o n : Nat) : Nat := leNat ((l.drop o).take n)

/-- `count` numbers of `n` bytes each. -/
def numbers (l : List Byte) (o n count : Nat) : List Nat := (List.range count).map fun i => at' l (o + n * i) n

def vec {α : Type} (d : α) (l : List α) (n : Nat) : Vector α n := Vector.ofFn fun i => l.getD i.val d

def readTask (l : List Byte) (o : Nat) : Option Task :=
  if at' l (o + 0x38) 2 = 0 then none else some (Task.ofBytes ((l.drop o).take 64))

/-- The wait of a stream record, for a stream that comes to die `d`. -/
def readWait (s : State) (d : Nat) (l : List Byte) (o : Nat) : Wait :=
  let kind := at' l o 1
  let group := BitVec.ofNat 8 (at' l (o + 1) 1)
  let q := BitVec.ofNat 32 (at' l (o + 4) 4)
  let r := at' l (o + 0x18) 1
  let k := at' l (o + 0x19) 1
  if kind = 1 then
    .mon (BitVec.ofNat 5 r)
      (if k = 1 then some (s.fromBase d (BitVec.ofNat 64 (at' l (o + 8) 8))).toNat else none)
  else if kind = 2 then
    if k < 2 then .bar (BitVec.ofNat 3 r) group q (k == 0)
    else if k = 2 then .barWait (BitVec.ofNat 3 r) group q
    else .barArr (BitVec.ofNat 5 r) group q
  else if kind = 3 then .taskNext true
  else .none

def readSlot (gens : List Nat) (l : List Byte) (o i : Nat) : RangeSlot :=
  let x := at' l (o + 15 * i) 15
  ⟨x.testBit 112, x.testBit 113, BitVec.ofNat 16 (x / 2 ^ 96), BitVec.ofNat 48 (x / 2 ^ 48), BitVec.ofNat 48 x,
    gens.getD i 0⟩

def readMonitor (l : List Byte) (o : Nat) (wake i : Nat) : MonReg :=
  let x := at' l (o + 8 * i) 8
  ⟨BitVec.ofNat 41 (x / 2 ^ 7), x.testBit 1 || wake.testBit i, x.testBit 0⟩

/-- Stream `i` of an image, on die `d`: its registers, its state, and a wake recorded while it was saved (R220). -/
def readStream (s : State) (d i : Nat) (b : SavedStream) (l : List Byte) : Stream :=
  let o := 0x1000 + 0x400 * i
  let w (p : Nat) : Word := BitVec.ofNat 64 (at' l (o + p) 8)
  let words (p n : Nat) : List Word := (numbers l (o + p) 8 n).map (BitVec.ofNat 64)
  let st := at' l (o + 0x218) 8
  let wake := if at' l (o + 0x230) 1 = 1 then at' l (o + 0x231) 1 else 0
  let kindState := st % 4
  { run := if kindState = 0 then .idle else if kindState = 1 then .ready else .waiting
    pc := w 0x210
    s := (vec 0 (words 0 32) 32).set 0 0
    p := (vec false ((List.range 8).map fun j => (at' l (o + 0x110) 8).testBit j) 8).set 0 true
    i := vec 0 ((numbers l (o + 0x118) 4 4).map (BitVec.ofNat 32)) 4
    lc := vec 0 ((numbers l (o + 0x128) 4 4).map (BitVec.ofNat 32)) 4
    lb := vec 0 ((words 0x138 4).map maskLb) 4
    h := vec 0 ((numbers l (0x2000 + 0x1000 * i) 256 16).map fun x => Handle.clean (BitVec.ofNat 2048 x)) 16
    x := vec 0 (words 0x158 8) 8
    v := vec 0 ((numbers l (0xE000 + 0x1000 * i) 256 16).map (BitVec.ofNat 2048)) 16
    t := vec default ((List.range 16).map fun j =>
      ⟨BitVec.ofNat 32768 (at' l (0x12000 + 0x10000 * i + 4096 * j) 4096),
        BitVec.ofNat 2048 (at' l (0xA000 + 0x1000 * i + 256 * j) 256)⟩) 16
    c := vec 0 ((numbers l (0x52000 + 0x12000 * i) 18432 4).map (BitVec.ofNat 147456)) 4
    k := vec default ((List.range 4).map fun j =>
      ⟨BitVec.ofNat 4864 ((numbers l (0x6000 + 0x1000 * i + 0x400 * j) 4 256).foldr (fun e n => e % 2 ^ 19 + 2 ^ 19 * n) 0),
        (at' l (o + 0x340) 8).testBit j⟩) 4
    srseed := w 0x198
    nftrap := (w 0x1A0).getLsbD 0
    fewait := BitVec.ofNat 32 (at' l (o + 0x1A8) 8)
    epc := maskEpc (w 0x1B0)
    ecause := BitVec.ofNat 6 (at' l (o + 0x1B8) 8)
    eaddr := w 0x1C0
    trapbase := maskTrapbase (w 0x1C8)
    tdead := 0
    bp := vec 0 ((words 0x1D0 8).map maskBp) 8
    faultMark := st.testBit 2
    level := st.testBit 3
    step := st.testBit 4
    skip := st.testBit 5
    pend := BitVec.ofNat 5 (st / 2 ^ 8)
    hval := BitVec.ofNat 32 (st / 2 ^ 32)
    hostQueue := b.hostQueue
    sb28 := w 0x100
    sb29 := w 0x108
    brokenGroup := b.brokenGroup
    meshBefore := b.meshBefore
    n := vec default ((List.range 8).map (readSlot b.gens l (o + 0x2A0))) 8
    m := vec default ((List.range 4).map (readMonitor l (o + 0x320) wake)) 4
    wait := if kindState = 2 then s.readWait d l (o + 0x220) else .none
    task := readTask l (o + 0x240)
    groups := ((List.range 4).map fun j => at' l (o + 0x280 + 8 * j) 2).filterMap fun e =>
      if (e / 2 ^ 8).testBit 0 then some ⟨BitVec.ofNat 8 e, (e / 2 ^ 8).testBit 1⟩ else none
    pending := b.pending
    seqNext := b.seqNext
    fresh := b.fresh }

/-- A handle image that a register can hold: no reserved bit, and empty or valid (R119, R121). -/
def handleGood (h : Handle) : Bool := Handle.clean h == h && (Handle.isEmpty h || Handle.valid h)

/-- The registers of stream `i` in an image have no reserved bit set and no invalid field (R8, R9, R213): loop bases
(R92), `SYS.EPC`, `SYS.TRAPBASE` and breakpoints (R129, R210), range slots (R400), monitors (R254), the running task
(R296), memberships, codebook words (R194) and handles (R121). -/
def registersGood (l : List Byte) (i : Nat) : Bool :=
  let o := 0x1000 + 0x400 * i
  (numbers l (o + 0x138) 8 4).all (fun b => b % 2 == 0 && decide (b < 2 ^ 57)) &&
    decide (at' l (o + 0x1B0) 8 < 2 ^ 48) && at' l (o + 0x1B0) 1 % 2 == 0 &&
    decide (at' l (o + 0x1C8) 8 < 2 ^ 48) && at' l (o + 0x1C8) 2 % 4096 == 0 &&
    (numbers l (o + 0x1D0) 8 8).all (fun b => decide (b < 2 ^ 48)) &&
    (numbers l (o + 0x2A0) 15 8).all (fun b => decide (b < 2 ^ 114)) &&
    (numbers l (o + 0x320) 8 4).all (fun m => decide (m < 2 ^ 48) && m / 4 % 32 == 0) &&
    decide (at' l (o + 0x24F) 1 < 8) && (numbers l (o + 0x280) 8 4).all (fun m => decide (m < 2 ^ 10)) &&
    (numbers l (0x6000 + 0x1000 * i) 4 1024).all (fun e => decide (e < 2 ^ 19)) &&
    (numbers l (0x2000 + 0x1000 * i) 256 16).all fun h => handleGood (BitVec.ofNat 2048 h)

/-- An image that may be resumed (R213): magic, generation, position, state, and no nonzero reserved byte or invalid
field. -/
def imageGood (lx ly : Nat) (l : List Byte) : Bool :=
  at' l 0 4 == 0x59375341 && at' l 4 4 == 2 && at' l 8 1 == lx && at' l 9 1 == ly && at' l 0xA 2 == 0 &&
    at' l 0xC 1 == 1 && at' l 0xD 0xF3 == 0 && at' l 0x500 0xB00 == 0 &&
    (List.range 4).all fun i =>
      let o := 0x1000 + 0x400 * i
      let st := at' l (o + 0x218) 8
      at' l (o + 0x348) 184 == 0 && at' l (o + 0x110) 8 % 2 == 0 && at' l (o + 0x111) 7 == 0 &&
        at' l (o + 0x1A0) 8 < 2 && at' l (o + 0x1A8) 8 < 2 ^ 32 && at' l (o + 0x1B8) 8 ≤ 18 &&
        at' l (o + 0x210) 8 < 2 ^ 48 && at' l (o + 0x210) 1 % 2 == 0 &&
        st % 4 != 3 && st / 2 ^ 6 % 4 == 0 && st / 2 ^ 13 % 2 ^ 19 == 0 && at' l (o + 0x220) 1 ≤ 3 &&
        (st % 4 == 2) == (at' l (o + 0x220) 1 != 0) && at' l (o + 0x27A) 6 == 0 && at' l (o + 0x341) 7 == 0 &&
        at' l (o + 0x340) 1 < 16 && registersGood l i

/-- The copy records of an image, with what is kept beside it (R212, R216). -/
def readCopies (l : List Byte) (beside : SMap CopyRec) : SMap CopyRec :=
  beside.filterMap fun e =>
    let o := 0x100 + 64 * e.1
    if at' l o 1 = 1 then
      some (e.1, { e.2 with
        word := BitVec.ofNat 32 (at' l (o + 4) 4)
        done := at' l (o + 8) 8
        reg := BitVec.ofNat 5 (at' l (o + 0x10) 1)
        waitsFrom := none
        phase := match at' l (o + 1) 1 with
          | 0 => .active
          | 1 => .delivered
          | _ => .faulted (BitVec.ofNat 8 (at' l (o + 3) 1)) (at' l (o + 2) 1 == 1) (BitVec.ofNat 64 (at' l (o + 0x28) 8))
        binding := if at' l (o + 0x13) 1 = 1 then
            some ⟨BitVec.ofNat 8 (at' l (o + 0x14) 1), BitVec.ofNat 32 (at' l (o + 0x18) 4)⟩ else none })
    else none

/-! ## Resuming (R221) -/

/-- The bytes of a core image. -/
def imageSize : Nat := 630784

/-- The core-table image at an address names the saved context whose first image it names. -/
def savedAt (s : State) (a : Nat) : Option SavedCtx :=
  let first := BitVec.ofNat 128 (s.natAt a 16)
  s.saved.find? fun x => field (x.table.getD 0 0) 16 32 = field first 16 32

/-- The entries of a core-table image agree with the saved context's. -/
def tableGood (x : SavedCtx) (l : List (BitVec 128)) : Bool :=
  l.length == x.table.length && (l.zip x.table).all fun e =>
    field e.1 112 16 == 0 && field e.1 48 36 == 0 && field e.1 10 6 == 0 && field e.1 16 32 == field e.2 16 32

/-- What a stream that was saved waiting goes on with: a stream that a SERVE launch placed requests a task again (R308), and
a wait whose wake was recorded ends with it (R220). -/
def wakeSaved (s : State) (l : List Byte) (i q : Nat) : State :=
  match (s.stream q).wait with
  | .taskNext true =>
    let d := dieOfCore (q / 4)
    s.setDie d { s.die d with takes := (s.die d).takes ++ [q] }
  | .mon r _ =>
    if at' l (0x1000 + 0x400 * i + 0x230) 1 = 1 then { s.completeFor q fun u => u.monWake r 1 with cur := s.cur } else s
  | _ => s

/-- A core's streams read from its image, the page locks that they hold (R253), and the wakes that were recorded. -/
def loadCore (s : State) (id j : Nat) (x : SavedCtx) (l : List Byte) : State :=
  let c := (s.ctx id).position j
  let s1 := (List.range 4).foldl (fun t i =>
    t.setStream (4 * c + i) (t.readStream (dieOfCore c) i ((SMap.find x.beside (4 * j + i)).getD default) l)) s
  let s2 := s1.setCore c { s1.core c with copies := readCopies l (SMap.get [] x.copies j) }
  let s3 := (List.range 4).foldl (fun t i =>
    let dead := BitVec.ofNat 64 (at' l (0x1000 + 0x400 * i + 0x318) 8)
    if dead = 0 then t else t.setDeadline (4 * c + i) (t.fromBase (dieOfCore c) dead)) s2
  let s4 := (x.pageLocks.filter fun e => e.1 == j).foldl (fun t e =>
    t.setPage c e.2.1 { t.page c e.2.1 with locked := true, holder := e.2.2 }) s3
  (List.range 4).foldl (fun t i => t.wakeSaved l i (4 * c + i)) s4

/-- The context's parked arms become slice entries again. -/
def unpark (s : State) (id : Nat) : State :=
  let x := s.ctx id
  let mine := ((s.dies.map fun e => e.2.parked).flatten).filter fun p => p.owner = x.owner
  let t := s.keepParked fun p => p.owner ≠ x.owner
  { t with monEntries := t.monEntries ++ mine.map fun p => ⟨p.line, 4 * x.position p.logical + p.stream, p.reg⟩ }

/-- The context comes back at a place, under an ID. Its images are empty again, state 0 (log 79). -/
def placeCtx (s : State) (die id : Nat) (x : SavedCtx) (x0 y0 : Nat) (table : List (BitVec 128)) (images : List (List Byte)) :
    State :=
  let desc := setField (setField x.desc 80 4 x0) 84 4 y0
  let w := field desc 88 5
  let table' := table.zipIdx.map fun e =>
    setField (setField (setField (setField e.1 0 4 (x0 + e.2 % w)) 4 4 (y0 + e.2 / w)) 8 1 1) 9 1 0
  let s1 := (s.freshId' id).setCtx id { desc := desc, table := table', queues := x.queues, faults := x.faults, cancels := x.cancels }
  let s2 := (List.range table.length).foldl (fun t j => t.joinPitch id j) s1
  let s3 := images.zipIdx.foldl (fun t e => t.loadCore id e.2 x e.1) s2
  let s4 := (List.range table.length).foldl (fun t j => t.homeWrite die unitWriter [((t.ctx id).image j + 0xC, 0)] (some id)) s3
  let s5 := [0, 1].foldl (fun t d => if (t.coresOf id).any (dieOfCore · == d) then t.dropOldGuests d else t) (s4.unpark id)
  { s5 with saved := s5.saved.filter fun y => y.desc.extractLsb' 64 16 ≠ x.desc.extractLsb' 64 16 }

/-- The images of a context that is to have an ID, read in order and charged to it (R413); none if one of them cannot be
used. -/
def readImages (s : State) (id : Nat) : List Nat → State × Option (List (List Byte))
  | [] => (s, some [])
  | a :: l => match s.image a imageSize (some id) with
    | (t, none) => (t, none)
    | (t, some b) => match t.readImages id l with
      | (u, none) => (u, none)
      | (u, some r) => (u, some (b :: r))

/-- `RESUME`. -/
def resume (s : State) (die : Nat) (c : Control) : CtlEnd :=
  let a := c.op0.toNat
  let x0 := field c.op1 0 4
  let y0 := field c.op1 4 4
  match s.savedAt a with
  | none => s.endCtl 2
  | some x =>
    let w := field x.desc 88 5
    let h := field x.desc 96 5
    let cores := rectangle x0 y0 w h
    match s.image a (16 * (w * h)) with
    | (t, none) => t.endCtl 1
    | (t, some bytes) =>
      let table := (numbers bytes 0 16 (w * h)).map (BitVec.ofNat 128)
      if !tableGood x table || !rectangleGood x0 y0 w h then t.endCtl 1
      else if cores.any (t.heldByOther · none) then t.endCtl 4
      else if !cores.all t.isFree then t.endCtl 3
      else match t.pickAny t.freeIds with
        | (_, none) => t.endCtl 5
        | (t1, some id) => match t1.readImages id (table.map fun e => field e 16 32 * 65536) with
          | (u, some images) =>
            if images.zipIdx.all fun e => imageGood (e.2 % w) (e.2 / w) e.1 then
              (u.placeCtx die id x x0 y0 table images, some (0, id))
            else (u.toHost 0 5 ((x.desc.extractLsb' 64 16).setWidth 64) die).endCtl 1
          | (u, none) => (u.toHost 0 5 ((x.desc.extractLsb' 64 16).setWidth 64) die).endCtl 1

end State

/-- `SWITCHOUT` (R220, R344). -/
def execSwitchout (die : Nat) (s : State) : Out := s.control die 6 fun t c => t.switchOut die c

/-- `RESUME` (R221, R344). -/
def execResume (die : Nat) (s : State) : Out := s.control die 7 fun t c => t.resume die c

end Sys2Proof.Machine
end

