-- ==== Sys2Proof/Machine/HostPort.lean ====
section
/-! DEFINITION. The host port: host accesses to memory, the sealed ranges, the freezes, and the privileged window
(R290, R417, R420, R421). -/

namespace Sys2Proof.Machine

namespace State

/-! ## Sealed ranges (R421) -/

/-- A range (base, length) rounded out to multiples of 64 KiB. -/
def sealedAround (base n : Nat) : Nat × Nat :=
  let lo := base / 65536 * 65536
  (lo, (base + n + 65535) / 65536 * 65536 - lo)

/-- A range put into a list of ranges in the order of their bases. -/
def insertRange (r : Nat × Nat) : List (Nat × Nat) → List (Nat × Nat)
  | [] => [r]
  | x :: l => if r.1 ≤ x.1 then r :: x :: l else x :: insertRange r l

/-- The range from the first byte of one to the last of another. -/
def spanOf (a b : Nat × Nat) : Nat × Nat := (min a.1 b.1, max (a.1 + a.2) (b.1 + b.2) - min a.1 b.1)

/-- A range added to a list in the order of bases, its last first: it extends the last one where they touch. -/
def addRange (l : List (Nat × Nat)) (r : Nat × Nat) : List (Nat × Nat) :=
  match l with
  | x :: m => if r.1 ≤ x.1 + x.2 then spanOf x r :: m else r :: l
  | [] => [r]

/-- The neighbours from place `i` of a list made one range. -/
def bridge : List (Nat × Nat) → Nat → List (Nat × Nat)
  | a :: b :: l, 0 => spanOf a b :: l
  | a :: l, i + 1 => a :: bridge l i
  | l, _ => l

/-- The gaps between the neighbours of a list in the order of bases. -/
def gaps (l : List (Nat × Nat)) : List Nat := List.zipWith (fun (a b : Nat × Nat) => b.1 - (a.1 + a.2)) l l.tail

/-- A list of at most 16 ranges that hold those of a longer one: the closest neighbours become one; `n` bounds the steps. -/
def atMost16 : Nat → List (Nat × Nat) → List (Nat × Nat)
  | 0, l => l
  | n + 1, l => if l.length ≤ 16 then l else atMost16 n (bridge l ((gaps l).idxOf ((gaps l).min?.getD 0)))

/-- What the command processors seal: their firmware, and the group tables and core images of the resident contexts. -/
def sealedPieces (s : State) : List (Nat × Nat) :=
  s.board.sealed ++ (s.ctxs.map fun e =>
    sealedAround e.2.gtab 131072 :: (List.range e.2.cores).map fun j => sealedAround (e.2.image j) imageSize).flatten

/-- The 16 ranges that hold all of it (R421). Where it lies in more pieces, the spec does not say which ranges hold them: here
those closest together share one, with what lies between them (log 90). -/
def sealedRanges (s : State) : List (Nat × Nat) :=
  let l := (((s.sealedPieces.filter fun r => r.2 != 0).foldr insertRange []).foldl addRange []).reverse
  atMost16 l.length l

/-- Whether `n` bytes at `a` reach a sealed range. -/
def reachesSealed (s : State) (a n : Nat) : Bool :=
  s.sealedRanges.any fun r => decide (a < r.1 + r.2) && decide (r.1 < a + n)

/-! ## Host accesses (R290, R421) -/

/-- Whether the host port, which is on die 0, reaches the homes of `n` bytes: those of the other die across the link (R14). -/
def hostReaches (s : State) (a n : Nat) : Bool := (cut a n).all fun p => s.reaches .hostPort (s.siteOf p.1)

/-- A host write to device memory that the port refuses completes unperformed; the first one's address stays to be read
(R420, R421). -/
def refuseWrite (s : State) (a : Nat) : State :=
  { s with board := { s.board with sealedFirst := some (s.board.sealedFirst.getD a) } }.toHostBare

/-- A host write to device memory: none is performed while the port is frozen, and one that reaches a sealed range freezes it
(R233, R421). -/
def hostStore (s : State) (a : Nat) (l : List Byte) : State :=
  if !s.running ∨ 2 ^ 38 < a + l.length then s
  else if s.board.hostFrozen then s.refuseWrite a
  else if s.reachesSealed a l.length then
    ((({ s with board := { s.board with hostFrozen := true } }.refuseWrite a).addTelemetry 0 0x0A28 1).toHost 0 14
      (BitVec.ofNat 64 a))
  else if !s.hostReaches a l.length then s
  else (s.homeWrite 0 s.hostWriter (placed a l)).toHostBare

/-- The data of a host read joins its queue: that of a scalar access, of up to 8 bytes, is `PROMPT` (R341). -/
def answerHost (s : State) (n : Nat) (l : List Byte) : State :=
  if n ≤ 8 then s.toHostPrompt ⟨true, l⟩ else s.toHostBulk ⟨true, l⟩

/-- What a host read returns, on its way to the host (R341); poison is reported in place of bytes. -/
def hostLoad (s : State) (place n : Nat) : State :=
  match s.readHome place n .host with
  | (t, .ok l) => t.answerHost n l
  | (t, .error k) => (t.answerHost n []).toHost 0 2 (BitVec.ofNat 64 k)

/-! ## Freezes (R233, R421) -/

def clearHostFreeze (s : State) (v : Word) : State :=
  if v = 1 ∧ s.running then { s with board := { s.board with hostFrozen := false, sealedFirst := none } } else s

def clearSteFreeze (s : State) (k : Nat) (v : Word) : State :=
  if v = 1 ∧ s.running then s.setSte k { s.ste k with frozen := false } else s

def clearCopyFreeze (s : State) (c : Nat) (v : Word) : State :=
  if v = 1 ∧ s.running then s.setCore c { s.core c with copyFrozen := false } else s

/-! ## The privileged window (R420) -/

/-- The control ring of a die with a register of it written. -/
def setControlReg (s : State) (die i : Nat) (v : Word) : State :=
  let x := s.die die
  let r := x.control
  if i = 0 then s.setDie die { x with control := { r with base := v.toNat / 4096 * 4096, present := true } }
  else if i = 1 then s.setDie die { x with control := { r with n := field v 0 5 } }
  else if i = 2 then s.setDie die { x with control := { r with headAddr := v.toNat / 8 * 8 } }
  else if field v 0 16 < 2 ^ r.n then s.setDie die { x with control := { r with tail := field v 0 16 } }
  else s.toHost 0 3 v die

/-- A write in boot state 3: the reboot register, the recovery page register, and the recovery window. -/
def recoveryWrite (s : State) (off : Nat) (v : Word) : State :=
  if off = 0x8 then s.rebootOf v
  else if off = 0x20 then { s with board := { s.board with recoveryPage := v.extractLsb' 0 7 } }
  else if 0x80000 ≤ off ∧ off < 0x100000 then
    let at_ := s.board.recoveryPage.toNat * 2 ^ 19 + (off - 0x80000)
    { s with board := { s.board with
      recovery := (placed at_ (leBytes 8 v.toNat)).foldl (fun l e => Memory.put l e.1 e.2) s.board.recovery } }
  else s

/-- A write in boot state 2. -/
def runningWrite (s : State) (off : Nat) (v : Word) : State :=
  if off = 0x8 then s.rebootOf v
  else if off = 0x10 then s.clearHostFreeze v
  else if off = 0x20 then { s with board := { s.board with recoveryPage := v.extractLsb' 0 7 } }
  else if off = 0x30 then s.commitRollback v
  else if 0x100 ≤ off ∧ off < 0x180 then
    if (off - 0x100) % 0x40 < 0x20 then s.setControlReg ((off - 0x100) / 0x40) ((off - 0x100) % 0x40 / 8) v else s
  else if 0x200 ≤ off ∧ off < 0x220 then s.clearSteFreeze ((off - 0x200) / 8) v
  else if 0x400 ≤ off ∧ off < 0xC00 then s.clearCopyFreeze ((off - 0x400) / 8) v
  else if off = 0xD00 ∨ off = 0xD08 then s.stepTime ((off - 0xD00) / 8) v.toNat
  else if off = 0xD10 ∨ off = 0xD18 then
    let d := (off - 0xD10) / 8
    s.setDie d { s.die d with trate := v.extractLsb' 0 32 }
  else if 0x1000 ≤ off ∧ off < 0x1800 then
    let k := (off - 0x1000) / 0x200 * 64 + (off - 0x1000) % 0x200 / 8
    s.setRegulator k ((s.regulator k).write v)
  else s

/-- The unit that holds a register of the window (R14): where the table gives the register a die, a core, an engine or a stack, that
one or its die's command processor; else the host port. -/
def windowSite (off : Nat) : Site :=
  if 0x100 ≤ off ∧ off < 0x180 then .command ((off - 0x100) / 0x40)
  else if 0x200 ≤ off ∧ off < 0x220 then .ste ((off - 0x200) / 8)
  else if 0x400 ≤ off ∧ off < 0xC00 then .core ((off - 0x400) / 8)
  else if 0xD00 ≤ off ∧ off < 0xD20 then .command ((off - 0xD00) / 8 % 2)
  else if 0x1000 ≤ off ∧ off < 0x1800 then .slice (16 * ((off - 0x1000) / 0x200))
  else if 0x10000 ≤ off ∧ off < 0x20000 then .command ((off - 0x10000) / 0x8000)
  else if 0x20000 ≤ off ∧ off < 0x40000 then .command ((off - 0x20000) / 0x10000)
  else .hostPort

/-- An 8-byte host write to the privileged window, once the link has carried it where its register is one of die 1 (R14); an offset
that the table does not list is discarded. -/
def windowWrite (s : State) (off : Nat) (v : Word) : State :=
  if off % 8 ≠ 0 then s
  else if s.board.bootState = 3#4 then s.recoveryWrite off v
  else if s.running ∧ s.sends .hostPort (windowSite off) then s.runningWrite off v
  else s

/-- A bit as a register's value. -/
def bitWord (b : Bool) : Word := if b then 1 else 0

/-- What an 8-byte host read of the privileged window returns. -/
def windowRead (s : State) (off : Nat) : Word :=
  let b := s.board
  let recovery := b.bootState = 3#4
  if off % 8 ≠ 0 then 0
  else if off = 0 then b.bootState.setWidth 64 ||| (b.bootReason.setWidth 64 <<< 8)
  else if off = 0x20 then b.recoveryPage.setWidth 64
  else if recovery then
    if 0x80000 ≤ off ∧ off < 0x100000 then
      BitVec.ofNat 64 (Boot.nat b.recovery (b.recoveryPage.toNat * 2 ^ 19 + (off - 0x80000)) 8)
    else 0
  else if off = 0x10 then bitWord b.hostFrozen
  else if off = 0x18 then BitVec.ofNat 64 (b.sealedFirst.getD 0)
  else if 0x100 ≤ off ∧ off < 0x180 then
    let r := (s.die ((off - 0x100) / 0x40)).control
    match (off - 0x100) % 0x40 / 8 with
    | 0 => BitVec.ofNat 64 r.base
    | 1 => BitVec.ofNat 64 r.n
    | 2 => BitVec.ofNat 64 r.headAddr
    | _ => 0
  else if 0x200 ≤ off ∧ off < 0x220 then bitWord (s.ste ((off - 0x200) / 8)).frozen
  else if 0x400 ≤ off ∧ off < 0xC00 then bitWord (s.core ((off - 0x400) / 8)).copyFrozen
  else if 0xC00 ≤ off ∧ off < 0xD00 then
    let r := s.sealedRanges.getD ((off - 0xC00) / 16) (0, 0)
    BitVec.ofNat 64 (if off % 16 = 0 then r.1 else r.2)
  else if off = 0xD10 ∨ off = 0xD18 then (s.die ((off - 0xD10) / 8)).trate.setWidth 64
  else if 0x1000 ≤ off ∧ off < 0x1800 then
    (s.regulator ((off - 0x1000) / 0x200 * 64 + (off - 0x1000) % 0x200 / 8)).reg
  else if 0x10000 ≤ off ∧ off < 0x20000 then
    let o := (off - 0x10000) % 0x8000
    if o % 0x200 / 8 < 52 then s.bank ((off - 0x10000) / 0x8000) (o / 0x200) (o % 0x200 / 8) else 0
  else if 0x20000 ≤ off ∧ off < 0x40000 then
    SMap.get 0 (s.die ((off - 0x20000) / 0x10000)).telemetry ((off - 0x20000) % 0x10000)
  else 0

end State

/-- `HOST_WINDOW_WRITE` (R420). -/
def execHostWindowWrite (off : Nat) (v : Word) (s : State) : Out := .next (s.windowWrite off v)

/-- `HOST_PORT_FREEZE_CLEAR` (R421). -/
def execHostPortFreezeClear (v : Word) (s : State) : Out := .next (s.clearHostFreeze v)

/-- `STE_FREEZE_CLEAR` (R233, R421). -/
def execSteFreezeClear (k : Nat) (v : Word) (s : State) : Out := agent (decide (k < 4)) (if s.sends .hostPort (.ste k) then s.clearSteFreeze k v else s)

/-- `COPY_ENGINE_FREEZE_CLEAR` (R233, R421). -/
def execCopyEngineFreezeClear (core : Nat) (v : Word) (s : State) : Out := ofCore core (if s.sends .hostPort (.core core) then s.clearCopyFreeze core v else s)

/-- `HOST_WRITE` (R290, R421): to device memory, or the host's write of its own memory. -/
def execHostWrite (space : HostSpace) (addr : Nat) (bytes : List Byte) (s : State) : Out :=
  .next (match space with
    | .device => s.hostStore addr bytes
    | .host => if addr + bytes.length ≤ 2 ^ 48 then s.homeWrite 0 s.hostWriter (placed (hostPlace addr) bytes) else s)

/-- `HOST_READ` (R290). -/
def execHostRead (space : HostSpace) (addr n : Nat) (s : State) : Out :=
  .next (match space with
    | .device => if s.running ∧ addr + n ≤ 2 ^ 38 ∧ s.hostReaches addr n then s.hostLoad addr n else s
    | .host => if addr + n ≤ 2 ^ 48 then s.hostLoad (hostPlace addr) n else s)

end Sys2Proof.Machine
end

