-- ==== Sys2Proof/Machine/IllegalWord.lean ====
section
/-! DEFINITION. The word that is no instruction (R37, R38, R42, R49, R50). -/

namespace Sys2Proof.Machine

/-- `ILLEGAL_WORD`: a word that decode rejects raises ILLEGAL precisely. -/
def execIllegalWord (s : State) : Out := .next (s.raise .illegal 0)

end Sys2Proof.Machine
end

