-- ==== Sys2Proof/Machine/Pipeline.lean ====
section
/-! DEFINITION. The steps of a core's pipeline: clock cycles (R25, R404, R405), issue and completion on the engines (R165,
R171 to R173), retirement (R163), trap entry (R203) and events (R167). -/

namespace Sys2Proof.Machine

/-- The number of an engine (R404). -/
def engineIndex : Engine → Nat
  | .vector => 0 | .matrix => 1 | .tileMem => 2 | .copy => 3 | .loadStore => 4

def engines : List Engine := [.vector, .matrix, .tileMem, .copy, .loadStore]


namespace State

/-- The grants of an engine to a stream in the last 256 cycles. -/
def grantCount (k : Core) (e : Engine) (j : Nat) : Nat :=
  (k.grants.filter fun g => g.2.1 = e ∧ g.2.2 = j).length

/-- The first of two candidates for an engine: the earlier course, then the fewer grants, then the lower stream
(R171). -/
def firstOf (k : Core) (e : Engine) (a b : Nat × TrbEntry) : Nat × TrbEntry :=
  let key (x : Nat × TrbEntry) := (x.2.course, grantCount k e x.1, x.1)
  let (c1, g1, j1) := key a
  let (c2, g2, j2) := key b
  if c1 < c2 ∨ (c1 = c2 ∧ (g1 < g2 ∨ (g1 = g2 ∧ j1 ≤ j2))) then a else b

def pickFirst (k : Core) (e : Engine) : List (Nat × TrbEntry) → Option (Nat × TrbEntry)
  | [] => none
  | a :: l => match pickFirst k e l with
    | none => some a
    | some b => some (firstOf k e a b)

def busyOf (k : Core) (e : Engine) : Nat := k.busy.toList.getD (engineIndex e) 0

/-- The global instructions that the tile-memory unit holds (R172). -/
def globalsHeld (s : State) (c : Nat) : Nat :=
  ((s.coreEntries c).filter fun x => x.2.isGlobal && x.2.issued && !x.2.completed).length

/-- Whether an entry of a core is ready (R171), and has room in the tile-memory unit where it is global (R172). -/
def entryReady (s : State) (c : Nat) (x : Nat × TrbEntry) : Bool :=
  (s.stream (4 * c + x.1)).sourcesReady x.2 && s.poolRoom c x.2 && (!x.2.isGlobal || decide (s.globalsHeld c < 8))

/-- The entries of an engine that it has not taken. -/
def unissued (s : State) (c : Nat) (e : Engine) : List (Nat × TrbEntry) :=
  (s.coreEntries c).filter fun x => x.2.engine = some e ∧ !x.2.issued

/-- An engine takes the oldest ready entry it serves; a matrix instruction that begins while the device is narrow runs at
half width (R171, R173). -/
def issueOn (s : State) (c : Nat) (e : Engine) : State :=
  let k := s.core c
  if 0 < busyOf k e then s
  else match pickFirst k e ((s.unissued c e).filter (s.entryReady c)) with
    | none => s
    | some (j, x) =>
      let half := e == .matrix && s.board.narrow
      let k' := { k with
        busy := if h : engineIndex e < 5 then k.busy.set (engineIndex e) (if half then 2 * x.occ else x.occ) else k.busy
        halfTail := if e = .matrix then (if half then x.occ else 0) else k.halfTail
        grants := k.grants ++ [(k.cycle, e, j)] }
      (s.setCore c k').mapEntry (4 * c + j) x.seq fun y => { y with issued := true }

/-- An engine completes the oldest entry that it has taken; what waited for the result goes on (R19, R93). -/
def completeOn (s : State) (c : Nat) (e : Engine) : State :=
  let k := s.core c
  if 0 < busyOf k e then s
  else match pickFirst k e ((s.coreEntries c).filter fun x => x.2.engine = some e ∧ x.2.issued ∧ !x.2.completed) with
    | none => s
    | some (j, x) =>
      ((s.completeEntry (4 * c + j) x.seq).settleTrb (4 * c + j)).release (4 * c + j)

/-- Whether the head of a partition may retire: it has completed, and a store finds room in the store queue (R234). -/
def mayRetire (t : Stream) : Option TrbEntry :=
  match t.trb with
  | [] => none
  | e :: l =>
    let waiting := (t.storeQ.filter fun f => !((e :: l).any fun x => x.seq == f.seq)).length
    if e.completed && !((t.storeQ.any fun f => f.seq == e.seq) && decide (Config.storeQueueSize ≤ waiting)) then some e
    else none

/-- The head that retires next: the earliest course, then the lower stream (R163). -/
def retireNext (s : State) (c : Nat) : Option Nat :=
  let heads := (List.range 4).filterMap fun j => (mayRetire (s.stream (4 * c + j))).map fun e => (j, e.course)
  (heads.foldl (fun b x => match b with
    | none => some x
    | some y => if x.2 < y.2 then some x else some y) none).map (·.1)

/-- The head of a stream's partition retires. -/
def retireHead (s : State) (q : Nat) : State :=
  let t := s.stream q
  ((s.setStream q { t with trb := t.trb.drop 1 }).countRetired q 1).release q

/-- One head retires. -/
def retireOne (s : State) (c : Nat) : State :=
  match s.retireNext c with
  | none => s
  | some j => s.retireHead (4 * c + j)

/-- The engine for which stream `q` holds a word at its pc, with the cause of its stall: the older stores that overlap what it
reads (R169), the link, or a full agent (R326, R339), or fills that its regulators hold (R412). -/
def heldCause (s : State) (q : Nat) : Option Nat :=
  match (s.stream q).wait with
  | .reads _ => some 0
  | .link _ _ _ | .agentRoom => some 4
  | .fills => some 6
  | _ => none

/-- Why the oldest entry of an engine that is ready and has not been taken is not: a bank conflict, the link, a walk or a refill
(R405). The spec says neither what conflicts nor how long the others last, so which of them it is stays open. -/
def openCause (s : State) : State × Nat :=
  let (t, n) := s.freshFree
  (t, 3 + Config.anyOf n % 4)

/-- The counter that an engine adds to in a cycle (R405, log 6). -/
def cycleCounter (s : State) (c : Nat) (e : Engine) : State × Option Nat :=
  let k := s.core c
  let base := 8 * engineIndex e
  if 0 < busyOf k e then (s, some (if e = .matrix ∧ busyOf k e ≤ k.halfTail then base + 7 else 40 + engineIndex e))
  else match pickFirst k e (s.unissued c e) with
    | some (j, x) =>
      if !(s.stream (4 * c + j)).sourcesReady x then (s, some base)
      else if !s.poolRoom c x then (s, some (base + 1))
      else
        let (t, i) := s.openCause
        (t, some (base + i))
    | none =>
      match if e = .loadStore then (streamsAt c).findSome? s.heldCause else none with
      | some i => (s, some (base + i))
      | none =>
        if !((s.coreEntries c).any fun x => x.2.engine == some e && !x.2.completed) &&
            ((streamsAt c).any fun q => (s.stream q).wait == .room) then
          (s, some (base + 2))
        else (s, none)

/-- The counters of a core's cycle. -/
def countCycle (s : State) (c : Nat) : State :=
  match s.ownerOf c with
  | none => s
  | some (x, _) => engines.foldl (fun t e => match t.cycleCounter c e with
      | (u, some i) => u.addBank (dieOfCore c) x i 1
      | (u, none) => u) s

/-- The stream that decodes in the present cycle (R25): none where one has decoded in it. A stream that an event has met has
stopped decoding (R167). -/
def rotation (s : State) (c : Nat) : Option Nat :=
  let k := s.core c
  if k.decodedAt.toList.contains k.cycle then none
  else ((List.range 4).map fun j => (k.lastStream + 1 + j) % 4).find? fun j =>
    s.decodes (4 * c + j) && (s.stream (4 * c + j)).dueEvent.isNone && decide (k.decodedAt.toList.getD j 0 + 3 ≤ k.cycle)

/-- One clock cycle of a core (R25): its counters and engines go on, blocked streams whose waits have ended become ready (R19),
and events meet their streams, which takes no decode slot of a sibling. -/
def clockCycle (s : State) (c : Nat) : State :=
  let u := (s.countCycle c).releaseCore c
  let k := u.core c
  (streamsAt c).foldl takeEvent (u.setCore c { k with
    cycle := k.cycle + 1
    busy := k.busy.map (· - 1)
    grants := k.grants.filter fun g => decide (k.cycle + 1 < g.1 + 256) })

end State

/-- `ENTRY_ISSUE` (R171). -/
def execEntryIssue (core : Nat) (e : Engine) (s : State) : Out := ofCore core (s.issueOn core e)

/-- `ENGINE_COMPLETION` (R165): the destination was written with the word's effect; the entry completes. -/
def execEngineCompletion (core : Nat) (e : Engine) (s : State) : Out := ofCore core (s.completeOn core e)

/-- `TRB_RETIRE` (R163): at most two heads of a core retire. -/
def execTrbRetire (core : Nat) (s : State) : Out := ofCore core ((s.retireOne core).retireOne core)

/-- `TRAP_ENTRY` (R203) of a cause that the decoder of stream `q` finds at its word: a fetch that fails, a breakpoint, a
word that is no instruction, a loop that ends inside the word. The causes that a word finds while it executes are raised
in that word's own step. -/
def execTrapEntry (q : Nat) (s : State) : Out :=
  ofStream q (
    let u := { s with cur := q }
    if u.rotation (q / 4) != some (q % 4) then s
    else match u.fetchAll with
      | (_, .error (.later _)) => s
      | (t, .error f) => t.raiseAtDecode [] fun v => v.fetchFailed f
      | (t, .ok (ps, eff)) => match t.frontCause ps with
        | some (c, ea) => t.raiseAtDecode eff fun v => v.raise c ea
        | none => s)

/-- `EVENT_TAKEN` (R167). -/
def execEventTaken (q : Nat) (s : State) : Out := ofStream q (s.takeEvent q)

/-- `CORE_CLOCK_CYCLE` (R25): a clock cycle of a core, in which the stream whose turn it is takes the next move. -/
def execCoreClockCycle (core : Nat) (s : State) : Out :=
  ofCore core (
    let v := s.clockCycle core
    match v.rotation core with
    | some j => { v with agenda := .slot (4 * core + j) :: v.agenda }
    | none => v)

end Sys2Proof.Machine
end

