-- ==== Sys2Proof/Machine/StoreEvents.lean ====
section
/-! DEFINITION. The steps of the memory system: queued writes, atomics and their replies (R165, R232, R234, R242, R245,
R339, R340), full/empty requests (R249, R250), monitors (R256, R258), barrier messages (R315), copies (R263, R264), page
refills (R225), page walks (R353) and prefetches (R230, R236). -/

namespace Sys2Proof.Machine

namespace State

/-- A queued write sets out: its reply timer runs from now on (R332), and its fills begin (R412). -/
def sendStore (s : State) (q : Nat) (e : StoreEntry) : State :=
  let (t, n) := (s.startWrite q e.cells).freshId
  t.mapStores q fun f =>
    if f.seq = e.seq then { f with phase := .sent, sentAt := s.now (dieOfCore (q / 4)), order := n } else f

/-- A queued write has been carried out. -/
def setWritten (s : State) (q seq : Nat) : State :=
  s.mapStores q fun f => if f.seq = seq then { f with phase := .written } else f

/-- Whether a queued write may leave its core: its word has retired, what it waits for has performed, no sibling holds its
page, and no older write of the stream that is kept before it is still in the queue: one
that overlaps it, or for an `STR` one to the same core (R234, R240, R242, R253, R272). Other writes of a stream perform in
any order. One for the other die waits at the boundary, its reply timer running, while no row carries it (R336). -/
def maySend (s : State) (q : Nat) (e : StoreEntry) : Bool :=
  let older := (s.stream q).storeQ.filter fun f => decide (f.seq < e.seq)
  e.phase == .queued && !s.inTrb q e.seq && s.releaseReady q e.seq e.release && !e.ranges.any (s.rangeHeld q) &&
    older.all fun f => !anyOverlap f.ranges e.ranges &&
      !(f.kind == .remote && e.kind == .remote && targetCore f == targetCore e)

/-- The first queued write that may leave the core sets out for its home. -/
def sendNext (s : State) (q : Nat) : State :=
  match (s.stream q).storeQ.find? (s.maySend q) with
  | none => s
  | some e => if s.isFarReduction q e then (s.sendReduction q e).getD s else s.sendStore q e

/-- One of the entries of a list: which of several is free (R272, R281). -/
def anyEntry (s : State) {α : Type} : List α → State × Option α
  | [] => (s, none)
  | [e] => (s, some e)
  | e :: l =>
    let (t, n) := s.freshFree
    (t, (e :: l)[Config.anyOf n % (l.length + 1)]?)

/-- The writes of a stream that have set out, of the kinds that `kind` allows. -/
def sentWrites (s : State) (q : Nat) (kind : StoreKind → Bool) : List StoreEntry :=
  (s.stream q).storeQ.filter fun e => e.phase == .sent && kind e.kind && !s.isFarReduction q e && !s.targetMoves q e

/-- A write that has set out is carried out at its home, where `kind` allows it. -/
def writeNext (s : State) (q : Nat) (kind : StoreKind → Bool) : State :=
  match s.anyEntry ((s.sentWrites q kind).filter fun e => e.cells.all fun x => s.mayLand q e x.1) with
  | (_, none) => s
  | (t, some e) => (t.carryOut q e).setWritten q e.seq

/-- The pieces of a write that are still to be carried out, by their first places (R281). -/
def piecesOf (e : StoreEntry) : List Nat := (e.cells.map fun x => e.piece x.1).eraseDups

/-- A piece of an ordinary write is carried out, which of those that have reached their slices is free (R281); with the last
the write is. -/
def writePiece (s : State) (q : Nat) : State :=
  match s.anyEntry ((s.sentWrites q fun k => k == .scalar || k == .wide).filter fun e => (piecesOf e).any (s.mayLand q e)) with
  | (_, none) => s
  | (t, some e) => match t.anyEntry ((piecesOf e).filter (s.mayLand q e)) with
    | (_, none) => s
    | (u, some b) =>
      let (now, rest) := e.cells.partition fun x => e.piece x.1 == b
      (u.storeData q e.kind now).mapStores q fun f =>
        if f.seq = e.seq then
          { f with phase := if rest.isEmpty then .written else .sent, cells := rest, landed := f.landed ++ now }
        else f

/-- Whether the link brings the acknowledgement of a write back (R13, R320). -/
def ackReaches (s : State) (q : Nat) (e : StoreEntry) : Bool :=
  (e.landed ++ e.cells).all fun x => s.sends (s.siteOf x.1) (.core (q / 4))

/-- The acknowledgement of a write that was carried out reaches its core. -/
def ackNext (s : State) (q : Nat) (kind : StoreKind → Bool) : State :=
  match (s.stream q).storeQ.find? fun e => e.phase == .written && kind e.kind && s.ackReaches q e with
  | none => s
  | some e => s.retireStore q e

def isRemote : StoreKind → Bool
  | .remote => true
  | _ => false
def isReduction : StoreKind → Bool
  | .red _ _ => true
  | _ => false
def isFullEmpty : StoreKind → Bool
  | .stfl _ | .feclr => true
  | _ => false

/-- The requests that the agents hold for a stream, with their agents, oldest first. -/
def agentReqs (s : State) (q : Nat) : List (Nat × AgentReq) :=
  (s.dies.map fun d => (d.2.agents.map fun g => (g.2.out.filter fun r => r.stream = q).map fun r => (g.1, r)).flatten).flatten

/-- A change of the requests of an agent. -/
def mapAgent (s : State) (agent : Nat) (f : List AgentReq → List AgentReq) : State :=
  let d := agent / 16
  let x := s.die d
  let a := SMap.get {} x.agents agent
  s.setDie d { x with agents := SMap.set x.agents agent { a with out := f a.out } }

/-- The oldest request of a stream that has not been carried out reaches the far die (R340). -/
def carryFar (s : State) (q : Nat) : State :=
  match (s.agentReqs q).find? fun r => r.2.reply.isNone && s.rowCarries (r.1 % 16) && !s.heldBack q with
  | none => s
  | some (agent, r) =>
    let (t, reply, formed) := s.atomAtFarDie agent r
    t.mapAgent agent fun l => l.map fun x => if x.reqnum = r.reqnum then { x with reply := some reply, formed := formed } else x

/-- The reply of a far request returns (R245): an `ATOM` form ends, a reduction is acknowledged. A core that moves holds it, and
the peg of one that has moved forwards it (R218, R342, R447). -/
def replyFar (s : State) (q : Nat) : State :=
  match (s.agentReqs q).find? fun r => r.2.reply.isSome && s.rowCarries (s.siteRow (s.siteOf r.2.op.place)) with
  | none => s
  | some (agent, r) =>
    match (s.core (q / 4)).peg with
    | some p => s.mapAgent agent fun l => l.map fun x =>
        if x.reqnum = r.reqnum then { x with stream := 4 * p.dest + q % 4 } else x
    | none =>
    if r.red.isNone && s.holdsFor q then s else
    let t := (s.mapAgent agent fun l => l.filter fun x => x.reqnum ≠ r.reqnum).patchGuests (agent / 16) r.formed
    let reply := r.reply.getD (.value 0)
    t.whileMoving q fun t => match r.red with
      | some seq =>
        let u := match (t.stream q).storeQ.find? fun e => e.seq = seq with
          | some e => t.retireStore q { e with landed := r.formed }
          | none => t
        match reply with
        | .poisoned k => u.stopLate q k
        | _ => u
      | none =>
        let u := t.storeDone q (.red 0 0) r.formed
        if (u.stream q).wait = .reply r.reqnum.toNat then u.completeFor q fun v => v.atomDone r.d r.op reply else u

/-- The end of a limit or deadline in the time of a stream's die. -/
def passed (s : State) (q : Nat) (limit : Option Nat) : Bool :=
  limit.any fun n => decide (n ≤ s.now (dieOfCore (q / 4)))

end State

/-- `STORE_QUEUE_PERFORM` (R234). -/
def execStoreQueuePerform (q : Nat) (s : State) : Out := ofStream q (s.sendNext q)

/-- `WRITE` (R232, R281): a piece of a write reaches its home. -/
def execWrite (q : Nat) (s : State) : Out := ofStream q (s.writePiece q)

/-- `STR_PACKET` (R242): a core that moves receives the store after the move (R218). -/
def execStrPacket (q : Nat) (s : State) : Out := ofStream q (s.writeNext q State.isRemote)

/-- `WRACK` (R271): the acknowledgement marks the write performed. -/
def execWrack (q : Nat) (s : State) : Out :=
  ofStream q (s.ackNext q fun k => !State.isReduction k)

/-- `ATOM` (R340, R245): a request for the far die, or a reduction homed on the stream's die, is carried out once. -/
def execAtom (q : Nat) (s : State) : Out :=
  ofStream q (if (s.agentReqs q).any fun r => r.2.reply.isNone then s.carryFar q
    else s.writeNext q State.isReduction)

/-- `ATREP` (R245). -/
def execAtrep (q : Nat) (s : State) : Out :=
  ofStream q (if (s.agentReqs q).any fun r => r.2.reply.isSome then s.replyFar q
    else s.ackNext q State.isReduction)

/-- `FEOP` (R249): an `STFL` or `FECLR` is carried out at the home. -/
def execFeop (q : Nat) (s : State) : Out := ofStream q (s.writeNext q State.isFullEmpty)

/-- `FEREP` (R249): the home's answer to a full/empty request reaches its stream; a core that moves receives it after the
move (R218, R268). -/
def execFerep (q : Nat) (s : State) : Out :=
  ofStream q (if s.holdsFor q then s else s.whileMoving q fun t => t.hearFull q)

/-- `WAIT_LIMIT_EXPIRY` (R250): the request is withdrawn and the word raises `WAITLIMIT`, unless the home served it
first. -/
def execWaitLimitExpiry (q : Nat) (s : State) : Out :=
  ofStream q (match (s.stream q).wait with
    | .fe _ _ va _ limit =>
      if s.passed q limit && (s.stream q).run == .waiting && (s.fullNews q).isNone then
        s.raiseAt q .waitLimit (s.stream q).pc va
      else s
    | _ => s)

/-- `MON` (R258): a fired bit wakes the stream that waits. -/
def execMon (q : Nat) (s : State) : Out :=
  ofStream q (match (s.stream q).wait with
    | .mon d _ =>
      if ((s.stream q).m.toList.any fun r => r.fired) && (s.stream q).run == .waiting then
        s.completeFor q fun u => u.monWake d 1
      else s
    | _ => s)

/-- `MON_WAIT_DEADLINE` (R258). -/
def execMonWaitDeadline (q : Nat) (s : State) : Out :=
  ofStream q (match (s.stream q).wait with
    | .mon d limit =>
      if s.passed q limit && (s.stream q).run == .waiting then s.completeFor q fun u => u.monWake d 2 else s
    | _ => s)

/-- The deadline in the stream record at `r` of a saved context, which is in the time base of die 0, has passed: `TIMER` is set
pending in the image (R400, R415). -/
def State.fireSaved (s : State) (r : Nat) : State :=
  let dead := s.natAt (r + 0x318) 8
  if dead ≠ 0 ∧ dead ≤ s.now 0 then
    s.homeWrite 0 unitWriter ((r + 0x219, s.byteAt (r + 0x219) ||| 2#8) :: placed (r + 0x318) (leBytes 8 0))
  else s

/-- The deadlines of the saved contexts that have passed. -/
def State.fireSavedTimers (s : State) : State :=
  s.saved.foldl (fun t x =>
    (List.range (4 * x.table.length)).foldl (fun u i => u.fireSaved (State.savedRecord x (i / 4) (i % 4))) t) s

/-- `TIMER_DEADLINE` (R410): of a stream, and of those that are saved (R415). -/
def execTimerDeadline (q : Nat) (s₀ : State) : Out :=
  let s := s₀.fireSavedTimers
  ofStream q (
    let t := s.stream q
    let due (x : Word) : Bool := x != 0 && decide (x.toNat ≤ s.now (dieOfCore (q / 4)))
    let past (e : TrbEntry) : TrbEntry := if due e.before.tdead then { e with before := { e.before with tdead := 0 } } else e
    if due t.tdead then (s.setStream q { t with tdead := 0, trb := t.trb.map past }).setPend q 1
    else s)

/-- `BARMSG` (R315): the completion of a phase, or the release by a break, reaches a waiting member. -/
def execBarmsg (n : Nat) (s : State) : Out :=
  .next (match s.net[n]? with
    | some (.barDone q g p err _) =>
      if s.holdsFor q || !s.arrives n then s else (s.takeMsg n).whileMoving q fun t => t.barDone q g p err
    | some (.barBroken q g _) =>
      if s.holdsFor q || !s.arrives n then s else (s.takeMsg n).whileMoving q fun t => t.barReleased q g
    | _ => s)

/-- `COPY_TRANSFER` (R263, R281): the engine moves `n` units of a copy whose word has retired, and goes on to the next place
where no 64-byte block is left in part; what waited for its token goes on when it stops (R19). -/
def execCopyTransfer (core rec n : Nat) (s : State) : Out :=
  ofCore core (match s.copyRec core rec with
    | some r => if s.inTrb (4 * core + r.stream) r.seq then s else (s.copyStep core rec n).releaseCore core
    | none => s)

/-- `COPY_COMPLETE` (R264). -/
def execCopyComplete (core rec : Nat) (s : State) : Out := ofCore core ((s.copyFinish core rec).releaseCore core)

/-- `SCRATCHPAD_REFILL` (R225). A core that moves makes no page resident: its pages lie in their backing (R217). -/
def execScratchpadRefill (core page : Nat) (s : State) : Out :=
  ofCore core (
    if (s.core core).owner.isSome ∧ (s.page core page).backed ∧ !(s.core core).moving then s.refill core page else s)

/-! ## Page walks (R350 to R353) -/

/-- `PAGE_WALK` (R353): the walk of a miss of a core fills the TLBs. A fault fills nothing; the word that meets it
raises it. -/
def execPageWalk (core : Nat) (va : Word) (s : State) : Out :=
  ofCore core (match s.ownerOf core with
    | some (c, _) =>
      if va.toNat < 2 ^ 48 ∧ s.walkReaches core c va.toNat then
        match s.leafOf core c va.toNat with
        | .malformed level a => s.toHost 0 3 (BitVec.ofNat 64 (a + level * 2 ^ 56 + c * 2 ^ 58)) (dieOfCore core)
        | _ => s.fillTlb core c va.toNat
      else s
    | none => s)

/-! ## Prefetched lines (R230, R236) -/

/-- `RDREQ` (R230): a line request is served at its slice, and its data with the sector records sets out; a prefetch of a guest
copy that streams have seen superseded is given up (R236, R276). -/
def execRdreq (n : Nat) (s : State) : Out :=
  .next (match s.net[n]? with
    | some (.readReq core ctx va line l1) =>
      if !s.arrives n then s else
      let (t, x) := (s.takeMsg n).l2Line (dieOfCore core) line ctx va (.core core)
      if x.passed.isEmpty then t.post (.readData core ctx va line l1 x.data x.poison) else t
    | _ => s)

/-- `RDDATA` (R230, R276): the data of a line fills the L1D of a core that asked for it, unless the core has the
line already. -/
def execRddata (n : Nat) (s : State) : Out :=
  .next (match s.net[n]? with
    | some (.readData core ctx va line l1 data poison) =>
      if !s.arrives n then s else
      let t := s.takeMsg n
      let k := t.core core
      if l1 && (k.owner.map (·.1)) == some ctx && (SMap.find k.l1d line).isNone then
        t.fillL1 core line ⟨ctx, va, data, poison, []⟩
      else t
    | _ => s)

end Sys2Proof.Machine
end

