-- ==== Sys2Proof/Machine/Mortar.lean ====
section
/-! DEFINITION. The Mortar modules: sequence numbers, acknowledgement, replay, retrain and detours (R333 to R336, R455),
the slots of every output port (R328), and the repeats of remote atomics (R340). -/

namespace Sys2Proof.Machine

namespace MortarDir

/-- A number was accepted, when `a` is the last accepted one. -/
def reached (a n : BitVec 12) : Bool := decide ((a - n).toNat < 2048)

/-- A sent flit has been acknowledged. -/
def isAcked (d : MortarDir) (f : FlitBits) : Bool :=
  match d.acked with
  | none => false
  | some a => reached a (Flit.seq f)

/-- Nothing more comes of the packets of a class after this flit: it is the last of one, or the POISON that ends one (R337). -/
def ends (c : BitVec 2) (g : FlitBits) : Bool :=
  (Flit.cls g == c && Flit.isLast g) ||
    (Flit.cls g == 2#2 && Flit.kind (Flit.header g) == 0x3F && Flit.ended (Flit.header g) == c)

/-- The flits that the replay buffer keeps: those not acknowledged, and those of packets whose end is not. -/
def keep (acked : FlitBits → Bool) : List FlitBits → List FlitBits
  | [] => []
  | f :: l =>
    let done := acked f && (f :: l).any fun g => ends (Flit.cls f) g && acked g
    if done then keep acked l else f :: keep acked l

def unacked (d : MortarDir) : List FlitBits := d.replay.filter fun f => !d.isAcked f

/-- The sender learns that every flit up to `a` was accepted. -/
def acknowledge (d : MortarDir) (a : BitVec 12) : MortarDir :=
  let known := d.replay.any fun f => Flit.seq f == a && !d.isAcked f
  if known then
    let e := { d with acked := some a, sentAt := d.sentAt.filter fun x => !reached a (BitVec.ofNat 12 x.1) }
    let past := d.failedSeq.any (reached a)
    { e with
      replay := keep e.isAcked e.replay
      again := e.again.filter fun f => !e.isAcked f
      failedSeq := if past then none else e.failedSeq
      fails := if past then 0 else e.fails }
  else d

/-- The slots that the oldest unacknowledged flit has waited since it was sent last (R334). -/
def waited (d : MortarDir) : Nat :=
  match d.unacked with
  | [] => 0
  | f :: _ => d.slots - SMap.get d.slots d.sentAt (Flit.seq f).toNat

/-- The kind of the packet that a kept flit is of: that of the last first flit of its class up to it. -/
def kindOf (d : MortarDir) (f : FlitBits) : Nat :=
  let upTo := d.replay.take ((d.replay.findIdx? fun g => Flit.seq g == Flit.seq f).getD 0 + 1)
  ((upTo.reverse.find? fun g => Flit.cls g == Flit.cls f && Flit.isFirst g).map fun g => Flit.kind (Flit.header g)).getD 0

end MortarDir

namespace State

/-- The die at the sending end of a link, and a counter of a direction in the block of a die (R420). -/
def countLink (s : State) (link : Nat) (atSender : Bool) (i : Nat) : State :=
  let die := if atSender then link % 2 else 1 - link % 2
  s.addTelemetry die (0x40 * (2 * (link / 2) + (if atSender then 0 else 1)) + 8 * i) 1

def countModule (s : State) (m i : Nat) : State :=
  (s.addTelemetry 0 (0x800 + 0x20 * m + 8 * i) 1).addTelemetry 1 (0x800 + 0x20 * m + 8 * i) 1

/-- A retrain begins: the mainband stops (R335). A retrain that is asked for while one of the module is under way has no effect of its
own: the spec says so of failures and alarms (R342), and of a command it says nothing (log 96). -/
def startRetrain (s : State) (m : Nat) (commanded : Bool) : State :=
  let x := s.module m
  if x.retraining then s
  else (s.setModule m { x with retraining := true, commanded := commanded }).countModule m 0

/-- A nak or a timeout: the unacknowledged flits go again. After the third failed replay of one flit in a row the module retrains
instead (R334, R335, R447). -/
def startReplay (s : State) (link : Nat) : State :=
  let d := s.mortarDir link
  match d.unacked with
  | [] => s
  | f :: l =>
    let same := d.failedSeq == some (Flit.seq f)
    let n := if same then d.fails + 1 else 0
    let t := if same then s.countLink link true 4 else s
    if 3 ≤ n then t.startRetrain (link / 2) false
    else (t.setMortarDir link { t.mortarDir link with again := f :: l, failedSeq := some (Flit.seq f), fails := n }).countLink link true 3

/-- What a control word brings to the sender of `link`: acknowledgements, credits, and a nak (R323, R334). -/
def takeControl (s : State) (link : Nat) (f : FlitBits) : State :=
  let t := s.takeCredits (senderPort link) f
  if Flit.ack f then
    let u := t.setMortarDir link ((t.mortarDir link).acknowledge (Flit.ackseq f))
    if Flit.nak f then (u.countLink link true 2).startReplay link else u
  else t

/-- The flit is refused: the first refusal after an accepted flit is reported (R334, R456). -/
def refuse (s : State) (link : Nat) (f : FlitBits) : State :=
  let port := receiverPort link
  let d := s.mortarDir link
  let c := Flit.cls f
  let kind := if Flit.isFirst f then Flit.kind (Flit.header f)
    else ((reasm (s.inPort port) c).map fun r => Flit.kind r.header).getD 0
  let t := if c = 3#2 then s else s.freeSlot port (Flit.poolOf c kind) 1
  if d.nakSent then t
  else (t.setMortarDir link { d with nakSent := true, ackDue := some (true, d.expected - 1) }).countLink link false 2

/-- The module carries flits. -/
def carries (s : State) (m : Nat) : Bool := (s.module m).inService && !(s.module m).retraining

/-- The acknowledgement fields of a flit that leaves on `link`, for the other direction. -/
def tellAck (s : State) (link : Nat) (f : FlitBits) : State × FlitBits :=
  let back := if link % 2 = 0 then link + 1 else link - 1
  let d := s.mortarDir back
  match d.ackDue with
  | none => (s, Flit.setCtl f 18 14 0)
  | some (nak, a) =>
    (s.setMortarDir back { d with ackDue := none },
      Flit.setCtl f 18 14 (a.toNat + 2 ^ 12 + (if nak then 2 ^ 13 else 0)))

/-- A flit leaves a Mortar module. -/
def emitMortar (s : State) (link port : Nat) (f : FlitBits) : State :=
  let (t, g) := s.tellAck link f
  t.emit port g

/-- A new flit takes the next number, enters the replay buffer and leaves. -/
def sendNew (s : State) (link port : Nat) (f : FlitBits) : State :=
  let d := s.mortarDir link
  let g := Flit.setCtl f 0 12 d.nextSeq.toNat
  let t := s.setMortarDir link { d with
    nextSeq := d.nextSeq + 1, replay := d.replay ++ [g], sentAt := SMap.set d.sentAt d.nextSeq.toNat d.slots }
  (t.countLink link true 0).emitMortar link port g

/-- A replayed flit takes room at the far side again, which its refusal had freed (R456). -/
def spendCredit (s : State) (link port : Nat) (f : FlitBits) : State :=
  let o := s.outPort port
  let pool := Flit.poolOf (Flit.cls f) ((s.mortarDir link).kindOf f)
  s.setOutPort port { o with credits := if h : pool < 6 then o.credits.set pool (o.credits[pool] - 1) else o.credits }

/-- The next flit of the packets that a retrained module sends first; a packet whose next flit has not come to the port
waits for it without interruption (R335). -/
def nextWhole : List OutPacket → Option (Option FlitBits × List OutPacket)
  | [] => none
  | p :: l => match p.flits with
    | [] => some (none, p :: l)
    | f :: fs => some (some f, if p.left ≤ 1 then l else { p with flits := fs, left := p.left - 1, begun := true } :: l)

/-- A slot of a Mortar module (R328, R334). -/
def mortarSlot (s : State) (link port : Nat) : State :=
  let d := s.mortarDir link
  if !s.carries (link / 2) ∨ (s.outPort port).sent.isSome then s
  else
    let o := takeTurns (s.outPort port)
    let s0 := ((s.setMortarDir link { d with slots := d.slots + 1 }).setOutPort port o).countHeld port o
    let p := sendable o 1#2
    let b := sendable o 0#2
    let idle (o : OutPort) : State := (s0.setOutPort port o).emitMortar link port controlFlit
    match d.again with
    | f :: l =>
      let t := s0.setMortarDir link { s0.mortarDir link with
        again := l, sentAt := SMap.set d.sentAt (Flit.seq f).toNat (d.slots + 1) }
      ((t.spendCredit link port f).countLink link true 0).emitMortar link port f
    | [] =>
      if 256 ≤ d.replay.length then idle (settle o none p b)
      else match nextWhole d.whole with
        | some (some f, l) => (s0.setMortarDir link { s0.mortarDir link with whole := l }).sendNew link port f
        | some (none, _) => idle (settle o none p b)
        | none => match choose o with
          | none => idle (settle o none p b)
          | some c =>
            let (f, o') := popFlit o c
            (s0.setOutPort port (settle o' (some c) p b)).sendNew link port f

/-! ## Retrain (R335, R336) -/

/-- The packets of the replay buffer in the order in which they began: class and flits. -/
def packetsOf : List FlitBits → List (BitVec 2 × List FlitBits)
  | l => l.foldl (fun ps f =>
    if Flit.isFirst f then ps ++ [(Flit.cls f, [f])]
    else
      match ps.reverse.findIdx? fun p => p.1 == Flit.cls f with
      | none => ps
      | some i =>
        let k := ps.length - 1 - i
        ps.zipIdx.map fun e => if e.2 = k then (e.1.1, e.1.2 ++ [f]) else e.1) []

/-- A flit without what its first sending gave it. -/
def bare (f : FlitBits) : FlitBits := Flit.setCtl (Flit.setCtl f 16 16 0) 0 12 0

/-- A packet to be sent from its first flit again: its flits that are at the port, the number of all of them, and whether
it was open at the receiver. -/
structure Resend where
  pkt : OutPacket
  wasOpen : Bool

/-- The packet of a class that a port has begun and not ended: among those that an earlier retrain sends first, or in its queue. -/
def openAt (d : MortarDir) (o : OutPort) (c : BitVec 2) : Option OutPacket :=
  ((d.whole.find? fun x => x.begun && x.cls == c).orElse fun _ => (queueIn o c).find? (·.begun)).filter (!·.ended)

/-- What a sender has still to deliver of the packets it has begun, in the order in which they began: from the replay
buffer, with the rest that stands at the port, or among the packets that an earlier retrain sends first. Of a packet that a POISON
has ended nothing is sent again (R337, R342). -/
def undelivered' (d : MortarDir) (o : OutPort) : List Resend :=
  let accepted (f : FlitBits) : Bool := MortarDir.reached (d.expected - 1) (Flit.seq f)
  let ps := packetsOf d.replay
  (ps.zipIdx.filterMap fun e =>
    let p := e.1
    let whole := p.2.any Flit.isLast
    let newest := !(ps.drop (e.2 + 1)).any fun r => r.1 == p.1
    let pkt (id : Nat) (more : List FlitBits) (left : Nat) : Resend :=
      ⟨{ id := id, cls := p.1, flits := (p.2 ++ more).map bare, left := p.2.length + left,
         pool := Flit.poolOf p.1 (Flit.kind (Flit.header (p.2.headD 0))) }, p.2.any accepted⟩
    if p.2.any fun f => Flit.isLast f && accepted f then none
    else if whole then some (pkt 0 [] 0)
    else match openAt d o p.1 with
      | some r => if newest then some (pkt r.id r.flits r.left) else none
      | none => none) ++
  ((d.whole.filter fun x => !x.begun).map fun x => ⟨x, true⟩)

/-- The packets of a port that have not begun. -/
def unbegun (o : OutPort) (c : BitVec 2) : List OutPacket := (queueIn o c).filter fun x => !x.begun

/-- A link trained afresh: numbers, buffers and pools restart, and the sender's packets stand as R335 says. `whole` sends
the packets that were open at the receiver first, and takes their room; a packet that `ok` gives up ends as half-sent
(R336, R338). -/
def relink (s : State) (link : Nat) (whole : Bool) (ok : OutPacket → Bool) : State :=
  let port := senderPort link
  let d := s.mortarDir link
  let o := s.outPort port
  let every := undelivered' d o
  let all := every.filter fun r => ok r.pkt
  let first (r : Resend) : Bool := whole && r.wasOpen
  let back (c : BitVec 2) : List OutPacket :=
    ((all.filter fun r => r.pkt.cls == c && !first r).map (·.pkt)) ++ (unbegun o c).filter ok
  let firsts := (all.filter first).map (·.pkt)
  let t := s.setMortarDir link { whole := firsts }
  let room := firsts.foldl (fun (v : Vector Nat 6) p =>
    if h : p.pool < 6 then v.set p.pool (v[p.pool] - p.left) else v) (freshCredits port)
  let u := t.setOutPort port { credits := room, bulk := back 0#2, prompt := back 1#2, alert := back 2#2 }
  let gone := ((every.filter fun r => !ok r.pkt).map (·.pkt)) ++
    (([0#2, 1#2, 2#2].map fun c => (unbegun o c).filter fun p => !ok p).flatten)
  gone.foldl (fun v p => v.post (.poison (Flit.header (p.flits.headD 0)))) (u.setInPort (receiverPort link) {})

/-- The packets of a module out of service go along their column to the row that carries them (R336), and so do the flits
of them that are still to come. -/
def detour (s : State) (link : Nat) : State :=
  let port := senderPort link
  if (s.module (link / 2)).inService then s
  else match s.crossingRow (link / 2) with
  | none => s
  | some r =>
    let o := s.outPort port
    let out := routerOf port * 8 + (if r < link / 2 then 0 else 2)
    let x := s.outPort out
    let moved (a : Option Reassembly) : Option Reassembly := a.map fun y => if y.out = port then { y with out := out } else y
    let t := (s.setOutPort port { o with bulk := [], prompt := [], alert := [] }).setOutPort out
      { x with bulk := x.bulk ++ o.bulk, prompt := x.prompt ++ o.prompt, alert := x.alert ++ o.alert }
    { t with inPorts := SMap.mapVal (fun _ p => { p with bulk := moved p.bulk, prompt := moved p.prompt }) t.inPorts }

/-- Packets that wait at a module out of service go where a module carries them (R336). -/
def detourAll (s : State) : State := (List.range 32).foldl detour s

/-- A packet that carries an `ATOM` request. -/
def isAtomPacket (p : OutPacket) : Bool := Flit.kind (Flit.header (p.flits.headD 0)) == 5

/-- The end of a retrain. Where both halves pass training after a retrain that system software did not command, which half the
module keeps the spec does not say: here it is lanes 0 to 31 (log 96). -/
def endRetrain (s : State) (m : Nat) : State :=
  let x := s.module m
  let (t, k) := s.freshFree
  let good := Config.laneHalfGood k
  let exchanged := Config.exchangeOk k
  let ok (p : OutPacket) : Bool := exchanged || isAtomPacket p
  if !exchanged ∨ (!good.1 ∧ !good.2) then
    let u := (t.setModule m { x with retraining := false, inService := false, commanded := false }).countModule m 2
    (((u.relink (2 * m) false ok).relink (2 * m + 1) false ok).toHost 0 11 (BitVec.ofNat 64 m)).detourAll
  else
    let u := t.setModule m { x with
      retraining := false
      inService := true
      commanded := false
      narrow := !(x.commanded && good.1 && good.2)
      upperHalf := !good.1
      weak := [] }
    ((u.relink (2 * m) true ok).relink (2 * m + 1) true ok).detourAll

end State

/-! ## The steps -/

/-- `OUTPUT_PORT_SLOT` (R328, R341): one slot of an output port; 2048 is the host egress path. -/
def execOutputPortSlot (port : Nat) (s : State) : Out :=
  agent (decide (port ≤ 2048)) (match mortarPort port with
    | some link => s.mortarSlot link port
    | none => if port = 2048 then s.hostSlot else s.meshSlot port)

namespace State

/-- The other direction of a module. -/
def backOf (link : Nat) : Nat := if link % 2 = 0 then link + 1 else link - 1

/-- A flit at the far side of a direction of a module. -/
def mortarReceive (s : State) (link : Nat) (flit : FlitBits) : State :=
  let d := s.mortarDir link
  if !Flit.good flit then (s.countLink link false 1).refuse link flit
  else if Flit.isControl flit then
    let t := s.takeControl (backOf link) flit
    t.setInPort (receiverPort link) (countIdle (t.inPort (receiverPort link)) 3#2)
  else if Flit.seq flit = d.expected then
    let t := s.setMortarDir link { d with expected := d.expected + 1, nakSent := false, ackDue := some (false, d.expected) }
    (t.takeControl (backOf link) flit).acceptFlit (receiverPort link) true flit
  else (s.takeControl (backOf link) flit).refuse link flit

/-- A flit that comes over a module that carries flits: the one that was sent, of the kind that the step is of, or one that
fails its check. -/
def mortarArrival (s : State) (link : Nat) (control : Bool) (flit : FlitBits) : State :=
  if !s.carries (link / 2) then s
  else match s.arrivesFrom (senderPort link) flit with
    | none => s
    | some (t, _) => if Flit.good flit && Flit.isControl flit != control then s else t.mortarReceive link flit

end State

/-- `MORTAR_FLIT_RECEIVE` (R333, R334): a flit arrives at the far side of a direction of a module. -/
def execMortarFlitReceive (link : Nat) (flit : BitVec 512) (s : State) : Out :=
  agent (decide (link < 32)) (s.mortarArrival link false flit)

/-- `CONTROL_FLIT` (R323): a control flit brings acknowledgements and credits to the sender of the other direction. One that
fails its check is refused as any flit is (R334). -/
def execControlFlit (link : Nat) (flit : BitVec 512) (s : State) : Out :=
  agent (decide (link < 32)) (s.mortarArrival link true flit)

/-- `REPLAY_TIMEOUT` (R334): the oldest unacknowledged flit has waited 512 slots. -/
def execReplayTimeout (link : Nat) (s : State) : Out :=
  agent (decide (link < 32)) (
    let d := s.mortarDir link
    if s.carries (link / 2) && decide (512 ≤ d.waited) && d.again.isEmpty then s.startReplay link else s)

/-- `MARGIN_ALARM` (R335): the running margin of a lane has fallen below its threshold. -/
def execMarginAlarm (module lane : Nat) (s : State) : Out :=
  agent (decide (module < 16) && decide (lane < 64)) (
    let x := s.module module
    if s.carries module then (s.setModule module { x with weak := x.weak ++ [lane] }).startRetrain module false else s)

/-- `RETRAIN_COMPLETE` (R335, R336). -/
def execRetrainComplete (module : Nat) (s : State) : Out :=
  agent (decide (module < 16)) (if (s.module module).retraining then s.endRetrain module else s)

/-- `COMMANDED_RETRAIN` (R335, R336): system software has a module retrained. -/
def execCommandedRetrain (module : Nat) (s : State) : Out :=
  agent (decide (module < 16)) (if s.running then s.startRetrain module true else s)

/-- `ATOM_REPEAT_TIMEOUT` (R340): an agent whose reply has not returned after 20 µs sends the request again, unchanged; the
window carries it out at most once, and answers a repeat with the reply it holds. -/
def execAtomRepeatTimeout (agent' : Nat) (reqnum : BitVec 16) (s : State) : Out :=
  agent (decide (agent' < 32)) (
    match (SMap.get {} (s.die (agent' / 16)).agents agent').out.find? fun r =>
        r.reqnum = reqnum && decide (r.sentAt + 20000 ≤ s.now (agent' / 16)) &&
          s.rowCarries (agent' % 16) with
    | none => s
    | some r =>
      let (t, reply, formed) := s.atomAtFarDie agent' r
      t.mapAgent agent' fun l => l.map fun x =>
        if x.reqnum = r.reqnum then { x with reply := some reply, formed := formed, sentAt := t.now (agent' / 16) } else x)

end Sys2Proof.Machine
end

