-- ==== Sys2Proof/Machine/Dispatch.lean ====
section
/-! DEFINITION. The dispatch: one arm for each constructor of Instr, each a call of its meaning. -/

namespace Sys2Proof.Machine

def exec (i : Instr) (s : State) : Host.Outcome State Fault Refusal :=
  match i with
  | .batMov a b => Sys2Proof.Machine.execBatMov a b s
  | .batAdd a b => Sys2Proof.Machine.execBatAdd a b s
  | .batSub a b => Sys2Proof.Machine.execBatSub a b s
  | .batAnd a b => Sys2Proof.Machine.execBatAnd a b s
  | .batOr a b => Sys2Proof.Machine.execBatOr a b s
  | .batXor a b => Sys2Proof.Machine.execBatXor a b s
  | .batShl a b => Sys2Proof.Machine.execBatShl a b s
  | .batShr a b => Sys2Proof.Machine.execBatShr a b s
  | .batSra a b => Sys2Proof.Machine.execBatSra a b s
  | .batMul a b => Sys2Proof.Machine.execBatMul a b s
  | .batLdD a b => Sys2Proof.Machine.execBatLdD a b s
  | .batStD a b => Sys2Proof.Machine.execBatStD a b s
  | .batJr b => Sys2Proof.Machine.execBatJr b s
  | .batB o => Sys2Proof.Machine.execBatB o s
  | .batCall o => Sys2Proof.Machine.execBatCall o s
  | .imx p q => Sys2Proof.Machine.execImx p q s
  | .movi g im d => Sys2Proof.Machine.execMovi g im d s
  | .addi g im d => Sys2Proof.Machine.execAddi g im d s
  | .andi g im d => Sys2Proof.Machine.execAndi g im d s
  | .ori g im d => Sys2Proof.Machine.execOri g im d s
  | .xori g im d => Sys2Proof.Machine.execXori g im d s
  | .shli g im d => Sys2Proof.Machine.execShli g im d s
  | .shri g im d => Sys2Proof.Machine.execShri g im d s
  | .srai g im d => Sys2Proof.Machine.execSrai g im d s
  | .muli g im d => Sys2Proof.Machine.execMuli g im d s
  | .movh g im d => Sys2Proof.Machine.execMovh g im d s
  | .ldB g b im t => Sys2Proof.Machine.execLdB g b im t s
  | .ldBu g b im t => Sys2Proof.Machine.execLdBu g b im t s
  | .ldH g b im t => Sys2Proof.Machine.execLdH g b im t s
  | .ldHu g b im t => Sys2Proof.Machine.execLdHu g b im t s
  | .ldW g b im t => Sys2Proof.Machine.execLdW g b im t s
  | .ldWu g b im t => Sys2Proof.Machine.execLdWu g b im t s
  | .ldD g b im t => Sys2Proof.Machine.execLdD g b im t s
  | .ldxD g b im t => Sys2Proof.Machine.execLdxD g b im t s
  | .stB g b im t => Sys2Proof.Machine.execStB g b im t s
  | .stH g b im t => Sys2Proof.Machine.execStH g b im t s
  | .stW g b im t => Sys2Proof.Machine.execStW g b im t s
  | .stD g b im t => Sys2Proof.Machine.execStD g b im t s
  | .pref g b im l => Sys2Proof.Machine.execPref g b im l s
  | .add g d a b => Sys2Proof.Machine.execAdd g d a b s
  | .sub g d a b => Sys2Proof.Machine.execSub g d a b s
  | .mul g d a b => Sys2Proof.Machine.execMul g d a b s
  | .mulh g d a b => Sys2Proof.Machine.execMulh g d a b s
  | .mulhu g d a b => Sys2Proof.Machine.execMulhu g d a b s
  | .mulhm g d a b => Sys2Proof.Machine.execMulhm g d a b s
  | .div g d a b => Sys2Proof.Machine.execDiv g d a b s
  | .divu g d a b => Sys2Proof.Machine.execDivu g d a b s
  | .rem g d a b => Sys2Proof.Machine.execRem g d a b s
  | .remu g d a b => Sys2Proof.Machine.execRemu g d a b s
  | .min g d a b => Sys2Proof.Machine.execMin g d a b s
  | .minu g d a b => Sys2Proof.Machine.execMinu g d a b s
  | .max g d a b => Sys2Proof.Machine.execMax g d a b s
  | .maxu g d a b => Sys2Proof.Machine.execMaxu g d a b s
  | .adds g d a b => Sys2Proof.Machine.execAdds g d a b s
  | .subs g d a b => Sys2Proof.Machine.execSubs g d a b s
  | .addsu g d a b => Sys2Proof.Machine.execAddsu g d a b s
  | .subsu g d a b => Sys2Proof.Machine.execSubsu g d a b s
  | .abs g d a => Sys2Proof.Machine.execAbs g d a s
  | .neg g d a => Sys2Proof.Machine.execNeg g d a s
  | .and g d a b => Sys2Proof.Machine.execAnd g d a b s
  | .or g d a b => Sys2Proof.Machine.execOr g d a b s
  | .xor g d a b => Sys2Proof.Machine.execXor g d a b s
  | .andn g d a b => Sys2Proof.Machine.execAndn g d a b s
  | .orn g d a b => Sys2Proof.Machine.execOrn g d a b s
  | .xnor g d a b => Sys2Proof.Machine.execXnor g d a b s
  | .shl g d a b => Sys2Proof.Machine.execShl g d a b s
  | .shr g d a b => Sys2Proof.Machine.execShr g d a b s
  | .sra g d a b => Sys2Proof.Machine.execSra g d a b s
  | .rol g d a b => Sys2Proof.Machine.execRol g d a b s
  | .ror g d a b => Sys2Proof.Machine.execRor g d a b s
  | .clz g d a => Sys2Proof.Machine.execClz g d a s
  | .ctz g d a => Sys2Proof.Machine.execCtz g d a s
  | .popc g d a => Sys2Proof.Machine.execPopc g d a s
  | .brev g d a => Sys2Proof.Machine.execBrev g d a s
  | .bswap g d a => Sys2Proof.Machine.execBswap g d a s
  | .sxtB g d a => Sys2Proof.Machine.execSxtB g d a s
  | .sxtH g d a => Sys2Proof.Machine.execSxtH g d a s
  | .sxtW g d a => Sys2Proof.Machine.execSxtW g d a s
  | .zxtB g d a => Sys2Proof.Machine.execZxtB g d a s
  | .zxtH g d a => Sys2Proof.Machine.execZxtH g d a s
  | .zxtW g d a => Sys2Proof.Machine.execZxtW g d a s
  | .bfx g d a b => Sys2Proof.Machine.execBfx g d a b s
  | .bfxu g d a b => Sys2Proof.Machine.execBfxu g d a b s
  | .bfi g d a b => Sys2Proof.Machine.execBfi g d a b s
  | .addW g d a b => Sys2Proof.Machine.execAddW g d a b s
  | .subW g d a b => Sys2Proof.Machine.execSubW g d a b s
  | .mulW g d a b => Sys2Proof.Machine.execMulW g d a b s
  | .divW g d a b => Sys2Proof.Machine.execDivW g d a b s
  | .divuW g d a b => Sys2Proof.Machine.execDivuW g d a b s
  | .remW g d a b => Sys2Proof.Machine.execRemW g d a b s
  | .remuW g d a b => Sys2Proof.Machine.execRemuW g d a b s
  | .shlW g d a b => Sys2Proof.Machine.execShlW g d a b s
  | .shrW g d a b => Sys2Proof.Machine.execShrW g d a b s
  | .sraW g d a b => Sys2Proof.Machine.execSraW g d a b s
  | .rdi g d a => Sys2Proof.Machine.execRdi g d a s
  | .rdlc g d a => Sys2Proof.Machine.execRdlc g d a s
  | .wri g d a => Sys2Proof.Machine.execWri g d a s
  | .wrlc g d a => Sys2Proof.Machine.execWrlc g d a s
  | .rdlb g d a => Sys2Proof.Machine.execRdlb g d a s
  | .wrlb g d a => Sys2Proof.Machine.execWrlb g d a s
  | .rdp g d => Sys2Proof.Machine.execRdp g d s
  | .wrp g a => Sys2Proof.Machine.execWrp g a s
  | .rdpc g d => Sys2Proof.Machine.execRdpc g d s
  | .madd g d a b => Sys2Proof.Machine.execMadd g d a b s
  | .msub g d a b => Sys2Proof.Machine.execMsub g d a b s
  | .shadd1 g d a b => Sys2Proof.Machine.execShadd1 g d a b s
  | .shadd2 g d a b => Sys2Proof.Machine.execShadd2 g d a b s
  | .shadd3 g d a b => Sys2Proof.Machine.execShadd3 g d a b s
  | .shadd4 g d a b => Sys2Proof.Machine.execShadd4 g d a b s
  | .cmp g d a b c => Sys2Proof.Machine.execCmp g d a b c s
  | .icmpi g n c im d => Sys2Proof.Machine.execIcmpi g n c im d s
  | .pand g d a b => Sys2Proof.Machine.execPand g d a b s
  | .por g d a b => Sys2Proof.Machine.execPor g d a b s
  | .pxor g d a b => Sys2Proof.Machine.execPxor g d a b s
  | .pandn g d a b => Sys2Proof.Machine.execPandn g d a b s
  | .porn g d a b => Sys2Proof.Machine.execPorn g d a b s
  | .pnand g d a b => Sys2Proof.Machine.execPnand g d a b s
  | .pnor g d a b => Sys2Proof.Machine.execPnor g d a b s
  | .pxnor g d a b => Sys2Proof.Machine.execPxnor g d a b s
  | .sel g d a b c => Sys2Proof.Machine.execSel g d a b c s
  | .cset g d c => Sys2Proof.Machine.execCset g d c s
  | .selz g d a c => Sys2Proof.Machine.execSelz g d a c s
  | .fcmp g d a b c => Sys2Proof.Machine.execFcmp g d a b c s
  | .fadd g d a b m => Sys2Proof.Machine.execFadd g d a b m s
  | .fsub g d a b m => Sys2Proof.Machine.execFsub g d a b m s
  | .fmul g d a b m => Sys2Proof.Machine.execFmul g d a b m s
  | .fdiv g d a b m => Sys2Proof.Machine.execFdiv g d a b m s
  | .fma g d a b m => Sys2Proof.Machine.execFma g d a b m s
  | .fms g d a b m => Sys2Proof.Machine.execFms g d a b m s
  | .fsqrt g d a m => Sys2Proof.Machine.execFsqrt g d a m s
  | .fcvtIF g d a m => Sys2Proof.Machine.execFcvtIF g d a m s
  | .fmin g d a b => Sys2Proof.Machine.execFmin g d a b s
  | .fmax g d a b => Sys2Proof.Machine.execFmax g d a b s
  | .fneg g d a => Sys2Proof.Machine.execFneg g d a s
  | .fabs g d a => Sys2Proof.Machine.execFabs g d a s
  | .fcpys g d a b => Sys2Proof.Machine.execFcpys g d a b s
  | .fclass g d a => Sys2Proof.Machine.execFclass g d a s
  | .fcvtFI g d a m => Sys2Proof.Machine.execFcvtFI g d a m s
  | .fcvtFU g d a m => Sys2Proof.Machine.execFcvtFU g d a m s
  | .fcvtUF g d a m => Sys2Proof.Machine.execFcvtUF g d a m s
  | .bL g o n => Sys2Proof.Machine.execBL g o n s
  | .callL g o n => Sys2Proof.Machine.execCallL g o n s
  | .jrL g a n => Sys2Proof.Machine.execJrL g a n s
  | .callr g a n => Sys2Proof.Machine.execCallr g a n s
  | .loop n a l => Sys2Proof.Machine.execLoop n a l s
  | .lexit n => Sys2Proof.Machine.execLexit n s
  | .hld g d sc => Sys2Proof.Machine.execHld g d sc s
  | .hldL g d sc => Sys2Proof.Machine.execHldL g d sc s
  | .hst g a sc => Sys2Proof.Machine.execHst g a sc s
  | .hstL g a sc => Sys2Proof.Machine.execHstL g a sc s
  | .hsetd g d k sc x => Sys2Proof.Machine.execHsetd g d k sc x s
  | .hoff g d k sc => Sys2Proof.Machine.execHoff g d k sc s
  | .xset g d a => Sys2Proof.Machine.execXset g d a s
  | .xget g d a => Sys2Proof.Machine.execXget g d a s
  | .sysr g r d => Sys2Proof.Machine.execSysr g r d s
  | .sysw g r d => Sys2Proof.Machine.execSysw g r d s
  | .sysx g r d => Sys2Proof.Machine.execSysx g r d s
  | .vaddF g d a b m => Sys2Proof.Machine.execVaddF g d a b m s
  | .vsubF g d a b m => Sys2Proof.Machine.execVsubF g d a b m s
  | .vmulF g d a b m => Sys2Proof.Machine.execVmulF g d a b m s
  | .vdivF g d a b m => Sys2Proof.Machine.execVdivF g d a b m s
  | .vminF g d a b => Sys2Proof.Machine.execVminF g d a b s
  | .vmaxF g d a b => Sys2Proof.Machine.execVmaxF g d a b s
  | .vfmaF g d a b m => Sys2Proof.Machine.execVfmaF g d a b m s
  | .vfmsF g d a b m => Sys2Proof.Machine.execVfmsF g d a b m s
  | .vsqrt g d a m => Sys2Proof.Machine.execVsqrt g d a m s
  | .vrcp g d a m => Sys2Proof.Machine.execVrcp g d a m s
  | .vrsq g d a m => Sys2Proof.Machine.execVrsq g d a m s
  | .vexp2 g d a m => Sys2Proof.Machine.execVexp2 g d a m s
  | .vlog2 g d a m => Sys2Proof.Machine.execVlog2 g d a m s
  | .vnegF g d a => Sys2Proof.Machine.execVnegF g d a s
  | .vabsF g d a => Sys2Proof.Machine.execVabsF g d a s
  | .vcpysF g d a b => Sys2Proof.Machine.execVcpysF g d a b s
  | .vclassF g d a => Sys2Proof.Machine.execVclassF g d a s
  | .vrndF g d a m => Sys2Proof.Machine.execVrndF g d a m s
  | .vaddI g d a b => Sys2Proof.Machine.execVaddI g d a b s
  | .vsubI g d a b => Sys2Proof.Machine.execVsubI g d a b s
  | .vmulI g d a b => Sys2Proof.Machine.execVmulI g d a b s
  | .vmulhI g d a b => Sys2Proof.Machine.execVmulhI g d a b s
  | .vmulhU g d a b => Sys2Proof.Machine.execVmulhU g d a b s
  | .vminI g d a b => Sys2Proof.Machine.execVminI g d a b s
  | .vminU g d a b => Sys2Proof.Machine.execVminU g d a b s
  | .vmaxI g d a b => Sys2Proof.Machine.execVmaxI g d a b s
  | .vmaxU g d a b => Sys2Proof.Machine.execVmaxU g d a b s
  | .vaddsI g d a b => Sys2Proof.Machine.execVaddsI g d a b s
  | .vsubsI g d a b => Sys2Proof.Machine.execVsubsI g d a b s
  | .vaddsU g d a b => Sys2Proof.Machine.execVaddsU g d a b s
  | .vsubsU g d a b => Sys2Proof.Machine.execVsubsU g d a b s
  | .vabsI g d a => Sys2Proof.Machine.execVabsI g d a s
  | .vnegI g d a => Sys2Proof.Machine.execVnegI g d a s
  | .vmaddI g d a b => Sys2Proof.Machine.execVmaddI g d a b s
  | .vand g d a b => Sys2Proof.Machine.execVand g d a b s
  | .vor g d a b => Sys2Proof.Machine.execVor g d a b s
  | .vxor g d a b => Sys2Proof.Machine.execVxor g d a b s
  | .vandn g d a b => Sys2Proof.Machine.execVandn g d a b s
  | .vnot g d a => Sys2Proof.Machine.execVnot g d a s
  | .vshl g d a b => Sys2Proof.Machine.execVshl g d a b s
  | .vshr g d a b => Sys2Proof.Machine.execVshr g d a b s
  | .vsra g d a b => Sys2Proof.Machine.execVsra g d a b s
  | .vshli g d a k => Sys2Proof.Machine.execVshli g d a k s
  | .vshri g d a k => Sys2Proof.Machine.execVshri g d a k s
  | .vsrai g d a k => Sys2Proof.Machine.execVsrai g d a k s
  | .vpopc g d a => Sys2Proof.Machine.execVpopc g d a s
  | .vclz g d a => Sys2Proof.Machine.execVclz g d a s
  | .vfcmpEq g d a b => Sys2Proof.Machine.execVfcmpEq g d a b s
  | .vfcmpLt g d a b => Sys2Proof.Machine.execVfcmpLt g d a b s
  | .vfcmpLe g d a b => Sys2Proof.Machine.execVfcmpLe g d a b s
  | .vfcmpUn g d a b => Sys2Proof.Machine.execVfcmpUn g d a b s
  | .vfcmpNe g d a b => Sys2Proof.Machine.execVfcmpNe g d a b s
  | .vcmpEq g d a b => Sys2Proof.Machine.execVcmpEq g d a b s
  | .vcmpNe g d a b => Sys2Proof.Machine.execVcmpNe g d a b s
  | .vcmpLt g d a b => Sys2Proof.Machine.execVcmpLt g d a b s
  | .vcmpLe g d a b => Sys2Proof.Machine.execVcmpLe g d a b s
  | .vcmpLtu g d a b => Sys2Proof.Machine.execVcmpLtu g d a b s
  | .vcmpLeu g d a b => Sys2Proof.Machine.execVcmpLeu g d a b s
  | .vsel g d a b c => Sys2Proof.Machine.execVsel g d a b c s
  | .vany g d a => Sys2Proof.Machine.execVany g d a s
  | .vall g d a => Sys2Proof.Machine.execVall g d a s
  | .vcvtFI g d a m => Sys2Proof.Machine.execVcvtFI g d a m s
  | .vcvtFU g d a m => Sys2Proof.Machine.execVcvtFU g d a m s
  | .vcvtIF g d a m => Sys2Proof.Machine.execVcvtIF g d a m s
  | .vcvtUF g d a m => Sys2Proof.Machine.execVcvtUF g d a m s
  | .vpackF16 g d a b m => Sys2Proof.Machine.execVpackF16 g d a b m s
  | .vpackBf16 g d a b m => Sys2Proof.Machine.execVpackBf16 g d a b m s
  | .vpackE4m3Lo g d a b m => Sys2Proof.Machine.execVpackE4m3Lo g d a b m s
  | .vpackE4m3Hi g d a b m => Sys2Proof.Machine.execVpackE4m3Hi g d a b m s
  | .vpackE5m2Lo g d a b m => Sys2Proof.Machine.execVpackE5m2Lo g d a b m s
  | .vpackE5m2Hi g d a b m => Sys2Proof.Machine.execVpackE5m2Hi g d a b m s
  | .vpackI16 g d a b => Sys2Proof.Machine.execVpackI16 g d a b s
  | .vpackI8Lo g d a b => Sys2Proof.Machine.execVpackI8Lo g d a b s
  | .vpackI8Hi g d a b => Sys2Proof.Machine.execVpackI8Hi g d a b s
  | .vunpkF16 g d a p => Sys2Proof.Machine.execVunpkF16 g d a p s
  | .vunpkBf16 g d a p => Sys2Proof.Machine.execVunpkBf16 g d a p s
  | .vunpkE4m3 g d a p => Sys2Proof.Machine.execVunpkE4m3 g d a p s
  | .vunpkE5m2 g d a p => Sys2Proof.Machine.execVunpkE5m2 g d a p s
  | .vunpkTc8 g d a k p => Sys2Proof.Machine.execVunpkTc8 g d a k p s
  | .vunpkI16 g d a p => Sys2Proof.Machine.execVunpkI16 g d a p s
  | .vunpkI8 g d a p => Sys2Proof.Machine.execVunpkI8 g d a p s
  | .vredAddF g d a m => Sys2Proof.Machine.execVredAddF g d a m s
  | .vredMinF g d a => Sys2Proof.Machine.execVredMinF g d a s
  | .vredMaxF g d a => Sys2Proof.Machine.execVredMaxF g d a s
  | .vredAddI g d a => Sys2Proof.Machine.execVredAddI g d a s
  | .vredMinI g d a => Sys2Proof.Machine.execVredMinI g d a s
  | .vredMaxI g d a => Sys2Proof.Machine.execVredMaxI g d a s
  | .vredMinU g d a => Sys2Proof.Machine.execVredMinU g d a s
  | .vredMaxU g d a => Sys2Proof.Machine.execVredMaxU g d a s
  | .vscanAddF g d a m => Sys2Proof.Machine.execVscanAddF g d a m s
  | .vscanAddI g d a => Sys2Proof.Machine.execVscanAddI g d a s
  | .vmov g d a => Sys2Proof.Machine.execVmov g d a s
  | .viota g d => Sys2Proof.Machine.execViota g d s
  | .vld g d sc => Sys2Proof.Machine.execVld g d sc s
  | .vldL g d sc => Sys2Proof.Machine.execVldL g d sc s
  | .vldx g d sc => Sys2Proof.Machine.execVldx g d sc s
  | .vlds g d sc x => Sys2Proof.Machine.execVlds g d sc x s
  | .vldsL g d sc x => Sys2Proof.Machine.execVldsL g d sc x s
  | .vgth g d a sc => Sys2Proof.Machine.execVgth g d a sc s
  | .vgthL g d a sc => Sys2Proof.Machine.execVgthL g d a sc s
  | .vst g a sc => Sys2Proof.Machine.execVst g a sc s
  | .vstL g a sc => Sys2Proof.Machine.execVstL g a sc s
  | .vsts g a sc x => Sys2Proof.Machine.execVsts g a sc x s
  | .vstsL g a sc x => Sys2Proof.Machine.execVstsL g a sc x s
  | .vsct g im a sc => Sys2Proof.Machine.execVsct g im a sc s
  | .vsctL g im a sc => Sys2Proof.Machine.execVsctL g im a sc s
  | .vstm g m a sc => Sys2Proof.Machine.execVstm g m a sc s
  | .vstmL g m a sc => Sys2Proof.Machine.execVstmL g m a sc s
  | .vperm g d a b => Sys2Proof.Machine.execVperm g d a b s
  | .vrot g d a k => Sys2Proof.Machine.execVrot g d a k s
  | .vbcst g d a k => Sys2Proof.Machine.execVbcst g d a k s
  | .vzipLo g d a b => Sys2Proof.Machine.execVzipLo g d a b s
  | .vzipHi g d a b => Sys2Proof.Machine.execVzipHi g d a b s
  | .vuzpEv g d a b => Sys2Proof.Machine.execVuzpEv g d a b s
  | .vuzpOd g d a b => Sys2Proof.Machine.execVuzpOd g d a b s
  | .vrng g d a k => Sys2Proof.Machine.execVrng g d a k s
  | .vrngU g d a k => Sys2Proof.Machine.execVrngU g d a k s
  | .vfromt g d a q => Sys2Proof.Machine.execVfromt g d a q s
  | .vtot g d a q => Sys2Proof.Machine.execVtot g d a q s
  | .vext g d a k => Sys2Proof.Machine.execVext g d a k s
  | .vins g d a k => Sys2Proof.Machine.execVins g d a k s
  | .vbcs g d a => Sys2Proof.Machine.execVbcs g d a s
  | .cbkEncLo g d a b k => Sys2Proof.Machine.execCbkEncLo g d a b k s
  | .cbkEncHi g d a b k => Sys2Proof.Machine.execCbkEncHi g d a b k s
  | .vencF4 g d a b m => Sys2Proof.Machine.execVencF4 g d a b m s
  | .vdecF4 g d a p => Sys2Proof.Machine.execVdecF4 g d a p s
  | .tld g d a sc => Sys2Proof.Machine.execTld g d a sc s
  | .tldT g d a sc => Sys2Proof.Machine.execTldT g d a sc s
  | .tldP6 g d a sc => Sys2Proof.Machine.execTldP6 g d a sc s
  | .tst g t a sc => Sys2Proof.Machine.execTst g t a sc s
  | .tmov g d a => Sys2Proof.Machine.execTmov g d a s
  | .tzero g d => Sys2Proof.Machine.execTzero g d s
  | .tcvt g d a sc p k f => Sys2Proof.Machine.execTcvt g d a sc p k f s
  | .tred g d a k m f => Sys2Proof.Machine.execTred g d a k m f s
  | .mma g d a b m p => Sys2Proof.Machine.execMma g d a b m p s
  | .mmaSp g d a b t p => Sys2Proof.Machine.execMmaSp g d a b t p s
  | .mmaTc g d a b y x p => Sys2Proof.Machine.execMmaTc g d a b y x p s
  | .czero g d => Sys2Proof.Machine.execCzero g d s
  | .cmov g d a => Sys2Proof.Machine.execCmov g d a s
  | .cld g d a => Sys2Proof.Machine.execCld g d a s
  | .cst g d a => Sys2Proof.Machine.execCst g d a s
  | .ccvtE4m3 g d a p m => Sys2Proof.Machine.execCcvtE4m3 g d a p m s
  | .ccvtE5m2 g d a p m => Sys2Proof.Machine.execCcvtE5m2 g d a p m s
  | .ccvtF16 g d a p m => Sys2Proof.Machine.execCcvtF16 g d a p m s
  | .ccvtBf16 g d a p m => Sys2Proof.Machine.execCcvtBf16 g d a p m s
  | .ccvtF32 g d a p m => Sys2Proof.Machine.execCcvtF32 g d a p m s
  | .ccvtF4 g d a p m => Sys2Proof.Machine.execCcvtF4 g d a p m s
  | .csclR g d a v m => Sys2Proof.Machine.execCsclR g d a v m s
  | .csclC g d a v m => Sys2Proof.Machine.execCsclC g d a v m s
  | .cbkLd g d sc => Sys2Proof.Machine.execCbkLd g d sc s
  | .cbkLdL g d sc => Sys2Proof.Machine.execCbkLdL g d sc s
  | .eret => Sys2Proof.Machine.execEret s
  | .eretStep => Sys2Proof.Machine.execEretStep s
  | .brk g k => Sys2Proof.Machine.execBrk g k s
  | .rdus g d a => Sys2Proof.Machine.execRdus g d a s
  | .wrus g d a => Sys2Proof.Machine.execWrus g d a s
  | .rdtime g d k => Sys2Proof.Machine.execRdtime g d k s
  | .lda g d a r sc z => Sys2Proof.Machine.execLda g d a r sc z s
  | .stl g r sc a b z => Sys2Proof.Machine.execStl g r sc a b z s
  | .str g a b z => Sys2Proof.Machine.execStr g a b z s
  | .atomAdd g d a b z => Sys2Proof.Machine.execAtomAdd g d a b z s
  | .atomMin g d a b z => Sys2Proof.Machine.execAtomMin g d a b z s
  | .atomMax g d a b z => Sys2Proof.Machine.execAtomMax g d a b z s
  | .atomAnd g d a b z => Sys2Proof.Machine.execAtomAnd g d a b z s
  | .atomOr g d a b z => Sys2Proof.Machine.execAtomOr g d a b z s
  | .atomXor g d a b z => Sys2Proof.Machine.execAtomXor g d a b z s
  | .atomXchg g d a b z => Sys2Proof.Machine.execAtomXchg g d a b z s
  | .atomCas g d a b z => Sys2Proof.Machine.execAtomCas g d a b z s
  | .atomFaddF32 g d a b => Sys2Proof.Machine.execAtomFaddF32 g d a b s
  | .redAddW g a b => Sys2Proof.Machine.execRedAddW g a b s
  | .redAddD g a b => Sys2Proof.Machine.execRedAddD g a b s
  | .redMinW g a b => Sys2Proof.Machine.execRedMinW g a b s
  | .redMinD g a b => Sys2Proof.Machine.execRedMinD g a b s
  | .redMaxW g a b => Sys2Proof.Machine.execRedMaxW g a b s
  | .redMaxD g a b => Sys2Proof.Machine.execRedMaxD g a b s
  | .redAndW g a b => Sys2Proof.Machine.execRedAndW g a b s
  | .redAndD g a b => Sys2Proof.Machine.execRedAndD g a b s
  | .redOrW g a b => Sys2Proof.Machine.execRedOrW g a b s
  | .redOrD g a b => Sys2Proof.Machine.execRedOrD g a b s
  | .redXorW g a b => Sys2Proof.Machine.execRedXorW g a b s
  | .redXorD g a b => Sys2Proof.Machine.execRedXorD g a b s
  | .redAddF32 g a b => Sys2Proof.Machine.execRedAddF32 g a b s
  | .ldfe g d a => Sys2Proof.Machine.execLdfe g d a s
  | .ldff g d a => Sys2Proof.Machine.execLdff g d a s
  | .stfl g a b => Sys2Proof.Machine.execStfl g a b s
  | .feclr g a => Sys2Proof.Machine.execFeclr g a s
  | .lock g d a => Sys2Proof.Machine.execLock g d a s
  | .unlock g a => Sys2Proof.Machine.execUnlock g a s
  | .pinL g d a => Sys2Proof.Machine.execPinL g d a s
  | .unpinL g a => Sys2Proof.Machine.execUnpinL g a s
  | .plockL g d a => Sys2Proof.Machine.execPlockL g d a s
  | .punlockL g a => Sys2Proof.Machine.execPunlockL g a s
  | .fenceAcq g r m sc => Sys2Proof.Machine.execFenceAcq g r m sc s
  | .fenceRel g r m sc => Sys2Proof.Machine.execFenceRel g r m sc s
  | .fenceAr g r m sc => Sys2Proof.Machine.execFenceAr g r m sc s
  | .monArm g a k => Sys2Proof.Machine.execMonArm g a k s
  | .monDisarm g k => Sys2Proof.Machine.execMonDisarm g k s
  | .monWait g d a => Sys2Proof.Machine.execMonWait g d a s
  | .copyG2l g d a sc => Sys2Proof.Machine.execCopyG2l g d a sc s
  | .copyL2g g d a sc => Sys2Proof.Machine.execCopyL2g g d a sc s
  | .copyG2lB g d a sc k => Sys2Proof.Machine.execCopyG2lB g d a sc k s
  | .copyL2gB g d a sc k => Sys2Proof.Machine.execCopyL2gB g d a sc k s
  | .copyResume g sc => Sys2Proof.Machine.execCopyResume g sc s
  | .copyCancel g sc => Sys2Proof.Machine.execCopyCancel g sc s
  | .copyChk g sc => Sys2Proof.Machine.execCopyChk g sc s
  | .taskSpawn g d a x => Sys2Proof.Machine.execTaskSpawn g d a x s
  | .taskNext g => Sys2Proof.Machine.execTaskNext g s
  | .taskDone g => Sys2Proof.Machine.execTaskDone g s
  | .taskYield g a => Sys2Proof.Machine.execTaskYield g a s
  | .cancel g d a => Sys2Proof.Machine.execCancel g d a s
  | .taskInfo g d k => Sys2Proof.Machine.execTaskInfo g d k s
  | .gjoin g d a t => Sys2Proof.Machine.execGjoin g d a t s
  | .gleave g a => Sys2Proof.Machine.execGleave g a s
  | .bar g d a => Sys2Proof.Machine.execBar g d a s
  | .barArr g d a => Sys2Proof.Machine.execBarArr g d a s
  | .barWait g d a => Sys2Proof.Machine.execBarWait g d a s
  | .steCfg g d a => Sys2Proof.Machine.execSteCfg g d a s
  | .steIns g d a => Sys2Proof.Machine.execSteIns g d a s
  | .steUpd g d a => Sys2Proof.Machine.execSteUpd g d a s
  | .steDraw g d a b => Sys2Proof.Machine.execSteDraw g d a b s
  | .steSum g d q => Sys2Proof.Machine.execSteSum g d q s
  | .rangeTag g d a b => Sys2Proof.Machine.execRangeTag g d a b s
  | .rangeTagH g d k => Sys2Proof.Machine.execRangeTagH g d k s
  | .rangeClr g d => Sys2Proof.Machine.execRangeClr g d s
  | .rangeRd g d a k => Sys2Proof.Machine.execRangeRd g d a k s
  | .nestClaim g d a => Sys2Proof.Machine.execNestClaim g d a s
  | .perfRd g d a => Sys2Proof.Machine.execPerfRd g d a s
  | .entryIssue core e => Sys2Proof.Machine.execEntryIssue core e s
  | .engineCompletion core e => Sys2Proof.Machine.execEngineCompletion core e s
  | .trbRetire core => Sys2Proof.Machine.execTrbRetire core s
  | .storeQueuePerform q => Sys2Proof.Machine.execStoreQueuePerform q s
  | .trapEntry q => Sys2Proof.Machine.execTrapEntry q s
  | .eventTaken q => Sys2Proof.Machine.execEventTaken q s
  | .uncorrectableError site => Sys2Proof.Machine.execUncorrectableError site s
  | .scratchpadRefill core page => Sys2Proof.Machine.execScratchpadRefill core page s
  | .pageWalk core va => Sys2Proof.Machine.execPageWalk core va s
  | .rdreq n => Sys2Proof.Machine.execRdreq n s
  | .rddata n => Sys2Proof.Machine.execRddata n s
  | .write q => Sys2Proof.Machine.execWrite q s
  | .wrack q => Sys2Proof.Machine.execWrack q s
  | .atom q => Sys2Proof.Machine.execAtom q s
  | .atrep q => Sys2Proof.Machine.execAtrep q s
  | .strPacket q => Sys2Proof.Machine.execStrPacket q s
  | .feop q => Sys2Proof.Machine.execFeop q s
  | .ferep q => Sys2Proof.Machine.execFerep q s
  | .mon q => Sys2Proof.Machine.execMon q s
  | .barmsg n => Sys2Proof.Machine.execBarmsg n s
  | .stecmd n => Sys2Proof.Machine.execStecmd n s
  | .sterep n => Sys2Proof.Machine.execSterep n s
  | .steCfgCreate t => Sys2Proof.Machine.execSteCfgCreate t s
  | .steCfgBuild t => Sys2Proof.Machine.execSteCfgBuild t s
  | .steCfgSet t => Sys2Proof.Machine.execSteCfgSet t s
  | .steCfgRelease t => Sys2Proof.Machine.execSteCfgRelease t s
  | .steInsExec t => Sys2Proof.Machine.execSteInsExec t s
  | .steUpdExec t => Sys2Proof.Machine.execSteUpdExec t s
  | .steDrawExec t => Sys2Proof.Machine.execSteDrawExec t s
  | .steSumExec t => Sys2Proof.Machine.execSteSumExec t s
  | .copyTransfer core rec n => Sys2Proof.Machine.execCopyTransfer core rec n s
  | .copyComplete core rec => Sys2Proof.Machine.execCopyComplete core rec s
  | .launchWrite page die v => Sys2Proof.Machine.execLaunchWrite page die v s
  | .launchNop die ctx => Sys2Proof.Machine.execLaunchNop die ctx s
  | .launchTasks die ctx => Sys2Proof.Machine.execLaunchTasks die ctx s
  | .launchStart die ctx => Sys2Proof.Machine.execLaunchStart die ctx s
  | .launchServe die ctx => Sys2Proof.Machine.execLaunchServe die ctx s
  | .launchCancel die ctx => Sys2Proof.Machine.execLaunchCancel die ctx s
  | .start n => Sys2Proof.Machine.execStart n s
  | .taskDelivery die => Sys2Proof.Machine.execTaskDelivery die s
  | .taskmsg die => Sys2Proof.Machine.execTaskmsg die s
  | .spillRefill die => Sys2Proof.Machine.execSpillRefill die s
  | .hostEventWrite page v => Sys2Proof.Machine.execHostEventWrite page v s
  | .ctxcreate die => Sys2Proof.Machine.execCtxcreate die s
  | .ctxset die => Sys2Proof.Machine.execCtxset die s
  | .invtlb die => Sys2Proof.Machine.execInvtlb die s
  | .migrate die => Sys2Proof.Machine.execMigrate die s
  | .migrationDrainComplete n => Sys2Proof.Machine.execMigrationDrainComplete n s
  | .migrationInstall n => Sys2Proof.Machine.execMigrationInstall n s
  | .pegForward n => Sys2Proof.Machine.execPegForward n s
  | .marker n => Sys2Proof.Machine.execMarker n s
  | .repart die => Sys2Proof.Machine.execRepart die s
  | .switchout die => Sys2Proof.Machine.execSwitchout die s
  | .resume die => Sys2Proof.Machine.execResume die s
  | .clrfault die => Sys2Proof.Machine.execClrfault die s
  | .ctxdestroy die => Sys2Proof.Machine.execCtxdestroy die s
  | .sethome die => Sys2Proof.Machine.execSethome die s
  | .setqueue die => Sys2Proof.Machine.execSetqueue die s
  | .setspill die => Sys2Proof.Machine.execSetspill die s
  | .streamset die => Sys2Proof.Machine.execStreamset die s
  | .outputPortSlot port => Sys2Proof.Machine.execOutputPortSlot port s
  | .meshFlitReceive port flit => Sys2Proof.Machine.execMeshFlitReceive port flit s
  | .mortarFlitReceive link flit => Sys2Proof.Machine.execMortarFlitReceive link flit s
  | .controlFlit link flit => Sys2Proof.Machine.execControlFlit link flit s
  | .replayTimeout link => Sys2Proof.Machine.execReplayTimeout link s
  | .marginAlarm module lane => Sys2Proof.Machine.execMarginAlarm module lane s
  | .retrainComplete module => Sys2Proof.Machine.execRetrainComplete module s
  | .poison n => Sys2Proof.Machine.execPoison n s
  | .mgmt n => Sys2Proof.Machine.execMgmt n s
  | .snoop line => Sys2Proof.Machine.execSnoop line s
  | .reassemblyWatchdog port => Sys2Proof.Machine.execReassemblyWatchdog port s
  | .replyTimerExpiry q => Sys2Proof.Machine.execReplyTimerExpiry q s
  | .atomRepeatTimeout agent reqnum => Sys2Proof.Machine.execAtomRepeatTimeout agent reqnum s
  | .timerDeadline q => Sys2Proof.Machine.execTimerDeadline q s
  | .waitLimitExpiry q => Sys2Proof.Machine.execWaitLimitExpiry q s
  | .monWaitDeadline q => Sys2Proof.Machine.execMonWaitDeadline q s
  | .timeCalibration => Sys2Proof.Machine.execTimeCalibration s
  | .timeStep die v => Sys2Proof.Machine.execTimeStep die v s
  | .regulatorAdmit stack ctx n => Sys2Proof.Machine.execRegulatorAdmit stack ctx n s
  | .regulatorWrite stack ctx v => Sys2Proof.Machine.execRegulatorWrite stack ctx v s
  | .powerAlarm src => Sys2Proof.Machine.execPowerAlarm src s
  | .alarmClear src => Sys2Proof.Machine.execAlarmClear src s
  | .clockStepDown => Sys2Proof.Machine.execClockStepDown s
  | .clockStepUp => Sys2Proof.Machine.execClockStepUp s
  | .coldReset => Sys2Proof.Machine.execColdReset s
  | .reboot v => Sys2Proof.Machine.execReboot v s
  | .rollbackCommit v => Sys2Proof.Machine.execRollbackCommit v s
  | .hostPortFreezeClear v => Sys2Proof.Machine.execHostPortFreezeClear v s
  | .steFreezeClear k v => Sys2Proof.Machine.execSteFreezeClear k v s
  | .copyEngineFreezeClear core v => Sys2Proof.Machine.execCopyEngineFreezeClear core v s
  | .hostWindowWrite off v => Sys2Proof.Machine.execHostWindowWrite off v s
  | .hostWrite space addr bytes => Sys2Proof.Machine.execHostWrite space addr bytes s
  | .hostRead space addr n => Sys2Proof.Machine.execHostRead space addr n s
  | .illegalWord => Sys2Proof.Machine.execIllegalWord s
  | .oscillatorTick die => Sys2Proof.Machine.execOscillatorTick die s
  | .coreClockCycle core => Sys2Proof.Machine.execCoreClockCycle core s
  | .commandedRetrain module => Sys2Proof.Machine.execCommandedRetrain module s

end Sys2Proof.Machine
end

