-- ==== Sys2Proof/Machine/RunWord.lean ====
section
/-! DEFINITION. Decoding and running the word of a list of parcels. The second function computes the same without
building the instruction between decode and exec (see Words). -/

namespace Sys2Proof.Machine

/-- A brick's fields by their major, with the range checks' verdict and the meaning. -/
noncomputable def majorRun (maj : Nat) (g : BitVec 3) (lo : BitVec 5) (up : BitVec 16) : Option Leaf :=
  (decodeMajor maj g lo up).map fun i => (i.wf, exec i)

theorem run_ite {c : Prop} [Decidable c] {a b : Option Instr} {a' b' : Option Leaf}
    (h : a.map (fun i => (i.wf, exec i)) = a') (k : b.map (fun i => (i.wf, exec i)) = b') :
    (if c then a else b).map (fun i => (i.wf, exec i)) = (if c then a' else b') := by
  split <;> assumption

theorem run_bind {β : Type} {o : Option β} {f : β → Option Instr} {f' : β → Option Leaf}
    (h : ∀ m, (f m).map (fun i => (i.wf, exec i)) = f' m) :
    (o.bind f).map (fun i => (i.wf, exec i)) = o.bind f' := by
  cases o
  · rfl
  · exact h _

theorem leafMaj00_run (g : BitVec 3) (lo : BitVec 5) (up : BitVec 16) :
    (decodeMaj00 g lo up).map (fun i => (i.wf, exec i)) = leafMaj00 g lo up := by
  unfold decodeMaj00 leafMaj00
  repeat' first | refine run_ite ?_ ?_ | refine run_bind fun _ => ?_ | rfl

theorem leafMaj01_run (g : BitVec 3) (lo : BitVec 5) (up : BitVec 16) :
    (decodeMaj01 g lo up).map (fun i => (i.wf, exec i)) = leafMaj01 g lo up := by
  unfold decodeMaj01 leafMaj01
  repeat' first | refine run_ite ?_ ?_ | refine run_bind fun _ => ?_ | rfl

theorem leafMaj02_run (g : BitVec 3) (lo : BitVec 5) (up : BitVec 16) :
    (decodeMaj02 g lo up).map (fun i => (i.wf, exec i)) = leafMaj02 g lo up := by
  unfold decodeMaj02 leafMaj02
  repeat' first | refine run_ite ?_ ?_ | refine run_bind fun _ => ?_ | rfl

theorem leafMaj03_run (g : BitVec 3) (lo : BitVec 5) (up : BitVec 16) :
    (decodeMaj03 g lo up).map (fun i => (i.wf, exec i)) = leafMaj03 g lo up := by
  unfold decodeMaj03 leafMaj03
  repeat' first | refine run_ite ?_ ?_ | refine run_bind fun _ => ?_ | rfl

theorem leafMaj04_run (g : BitVec 3) (lo : BitVec 5) (up : BitVec 16) :
    (decodeMaj04 g lo up).map (fun i => (i.wf, exec i)) = leafMaj04 g lo up := by
  unfold decodeMaj04 leafMaj04
  repeat' first | refine run_ite ?_ ?_ | refine run_bind fun _ => ?_ | rfl

theorem leafMaj05_run (g : BitVec 3) (lo : BitVec 5) (up : BitVec 16) :
    (decodeMaj05 g lo up).map (fun i => (i.wf, exec i)) = leafMaj05 g lo up := by
  unfold decodeMaj05 leafMaj05
  repeat' first | refine run_ite ?_ ?_ | refine run_bind fun _ => ?_ | rfl

theorem leafMaj08_run (g : BitVec 3) (lo : BitVec 5) (up : BitVec 16) :
    (decodeMaj08 g lo up).map (fun i => (i.wf, exec i)) = leafMaj08 g lo up := by
  unfold decodeMaj08 leafMaj08
  repeat' first | refine run_ite ?_ ?_ | refine run_bind fun _ => ?_ | rfl

theorem leafMaj09_run (g : BitVec 3) (lo : BitVec 5) (up : BitVec 16) :
    (decodeMaj09 g lo up).map (fun i => (i.wf, exec i)) = leafMaj09 g lo up := by
  unfold decodeMaj09 leafMaj09
  repeat' first | refine run_ite ?_ ?_ | refine run_bind fun _ => ?_ | rfl

theorem leafMaj10_run (g : BitVec 3) (lo : BitVec 5) (up : BitVec 16) :
    (decodeMaj10 g lo up).map (fun i => (i.wf, exec i)) = leafMaj10 g lo up := by
  unfold decodeMaj10 leafMaj10
  repeat' first | refine run_ite ?_ ?_ | refine run_bind fun _ => ?_ | rfl

theorem leafMaj11_run (g : BitVec 3) (lo : BitVec 5) (up : BitVec 16) :
    (decodeMaj11 g lo up).map (fun i => (i.wf, exec i)) = leafMaj11 g lo up := by
  unfold decodeMaj11 leafMaj11
  repeat' first | refine run_ite ?_ ?_ | refine run_bind fun _ => ?_ | rfl

theorem leafMaj12_run (g : BitVec 3) (lo : BitVec 5) (up : BitVec 16) :
    (decodeMaj12 g lo up).map (fun i => (i.wf, exec i)) = leafMaj12 g lo up := by
  unfold decodeMaj12 leafMaj12
  repeat' first | refine run_ite ?_ ?_ | refine run_bind fun _ => ?_ | rfl

theorem leafMaj13_run (g : BitVec 3) (lo : BitVec 5) (up : BitVec 16) :
    (decodeMaj13 g lo up).map (fun i => (i.wf, exec i)) = leafMaj13 g lo up := by
  unfold decodeMaj13 leafMaj13
  repeat' first | refine run_ite ?_ ?_ | refine run_bind fun _ => ?_ | rfl

theorem leafMaj14_run (g : BitVec 3) (lo : BitVec 5) (up : BitVec 16) :
    (decodeMaj14 g lo up).map (fun i => (i.wf, exec i)) = leafMaj14 g lo up := by
  unfold decodeMaj14 leafMaj14
  repeat' first | refine run_ite ?_ ?_ | refine run_bind fun _ => ?_ | rfl

theorem leafMaj15_run (g : BitVec 3) (lo : BitVec 5) (up : BitVec 16) :
    (decodeMaj15 g lo up).map (fun i => (i.wf, exec i)) = leafMaj15 g lo up := by
  unfold decodeMaj15 leafMaj15
  repeat' first | refine run_ite ?_ ?_ | refine run_bind fun _ => ?_ | rfl

theorem leafMaj16_run (g : BitVec 3) (lo : BitVec 5) (up : BitVec 16) :
    (decodeMaj16 g lo up).map (fun i => (i.wf, exec i)) = leafMaj16 g lo up := by
  unfold decodeMaj16 leafMaj16
  repeat' first | refine run_ite ?_ ?_ | refine run_bind fun _ => ?_ | rfl

theorem leafMaj18_run (g : BitVec 3) (lo : BitVec 5) (up : BitVec 16) :
    (decodeMaj18 g lo up).map (fun i => (i.wf, exec i)) = leafMaj18 g lo up := by
  unfold decodeMaj18 leafMaj18
  repeat' first | refine run_ite ?_ ?_ | refine run_bind fun _ => ?_ | rfl

theorem leafMaj19_run (g : BitVec 3) (lo : BitVec 5) (up : BitVec 16) :
    (decodeMaj19 g lo up).map (fun i => (i.wf, exec i)) = leafMaj19 g lo up := by
  unfold decodeMaj19 leafMaj19
  repeat' first | refine run_ite ?_ ?_ | refine run_bind fun _ => ?_ | rfl

theorem leafMaj1A_run (g : BitVec 3) (lo : BitVec 5) (up : BitVec 16) :
    (decodeMaj1A g lo up).map (fun i => (i.wf, exec i)) = leafMaj1A g lo up := by
  unfold decodeMaj1A leafMaj1A
  repeat' first | refine run_ite ?_ ?_ | refine run_bind fun _ => ?_ | rfl

theorem leafMaj20_run (g : BitVec 3) (lo : BitVec 5) (up : BitVec 16) :
    (decodeMaj20 g lo up).map (fun i => (i.wf, exec i)) = leafMaj20 g lo up := by
  unfold decodeMaj20 leafMaj20
  repeat' first | refine run_ite ?_ ?_ | refine run_bind fun _ => ?_ | rfl

theorem leafMaj21_run (g : BitVec 3) (lo : BitVec 5) (up : BitVec 16) :
    (decodeMaj21 g lo up).map (fun i => (i.wf, exec i)) = leafMaj21 g lo up := by
  unfold decodeMaj21 leafMaj21
  repeat' first | refine run_ite ?_ ?_ | refine run_bind fun _ => ?_ | rfl

theorem leafMaj22_run (g : BitVec 3) (lo : BitVec 5) (up : BitVec 16) :
    (decodeMaj22 g lo up).map (fun i => (i.wf, exec i)) = leafMaj22 g lo up := by
  unfold decodeMaj22 leafMaj22
  repeat' first | refine run_ite ?_ ?_ | refine run_bind fun _ => ?_ | rfl

theorem leafMaj23_run (g : BitVec 3) (lo : BitVec 5) (up : BitVec 16) :
    (decodeMaj23 g lo up).map (fun i => (i.wf, exec i)) = leafMaj23 g lo up := by
  unfold decodeMaj23 leafMaj23
  repeat' first | refine run_ite ?_ ?_ | refine run_bind fun _ => ?_ | rfl

theorem leafMaj24_run (g : BitVec 3) (lo : BitVec 5) (up : BitVec 16) :
    (decodeMaj24 g lo up).map (fun i => (i.wf, exec i)) = leafMaj24 g lo up := by
  unfold decodeMaj24 leafMaj24
  repeat' first | refine run_ite ?_ ?_ | refine run_bind fun _ => ?_ | rfl

theorem leafMaj25_run (g : BitVec 3) (lo : BitVec 5) (up : BitVec 16) :
    (decodeMaj25 g lo up).map (fun i => (i.wf, exec i)) = leafMaj25 g lo up := by
  unfold decodeMaj25 leafMaj25
  repeat' first | refine run_ite ?_ ?_ | refine run_bind fun _ => ?_ | rfl

theorem leafMaj26_run (g : BitVec 3) (lo : BitVec 5) (up : BitVec 16) :
    (decodeMaj26 g lo up).map (fun i => (i.wf, exec i)) = leafMaj26 g lo up := by
  unfold decodeMaj26 leafMaj26
  repeat' first | refine run_ite ?_ ?_ | refine run_bind fun _ => ?_ | rfl

theorem leafMaj27_run (g : BitVec 3) (lo : BitVec 5) (up : BitVec 16) :
    (decodeMaj27 g lo up).map (fun i => (i.wf, exec i)) = leafMaj27 g lo up := by
  unfold decodeMaj27 leafMaj27
  repeat' first | refine run_ite ?_ ?_ | refine run_bind fun _ => ?_ | rfl

theorem leafMaj28_run (g : BitVec 3) (lo : BitVec 5) (up : BitVec 16) :
    (decodeMaj28 g lo up).map (fun i => (i.wf, exec i)) = leafMaj28 g lo up := by
  unfold decodeMaj28 leafMaj28
  repeat' first | refine run_ite ?_ ?_ | refine run_bind fun _ => ?_ | rfl

theorem leafMaj29_run (g : BitVec 3) (lo : BitVec 5) (up : BitVec 16) :
    (decodeMaj29 g lo up).map (fun i => (i.wf, exec i)) = leafMaj29 g lo up := by
  unfold decodeMaj29 leafMaj29
  repeat' first | refine run_ite ?_ ?_ | refine run_bind fun _ => ?_ | rfl

theorem leafMaj2A_run (g : BitVec 3) (lo : BitVec 5) (up : BitVec 16) :
    (decodeMaj2A g lo up).map (fun i => (i.wf, exec i)) = leafMaj2A g lo up := by
  unfold decodeMaj2A leafMaj2A
  repeat' first | refine run_ite ?_ ?_ | refine run_bind fun _ => ?_ | rfl

theorem leafMaj2B_run (g : BitVec 3) (lo : BitVec 5) (up : BitVec 16) :
    (decodeMaj2B g lo up).map (fun i => (i.wf, exec i)) = leafMaj2B g lo up := by
  unfold decodeMaj2B leafMaj2B
  repeat' first | refine run_ite ?_ ?_ | refine run_bind fun _ => ?_ | rfl

theorem leafMaj2C_run (g : BitVec 3) (lo : BitVec 5) (up : BitVec 16) :
    (decodeMaj2C g lo up).map (fun i => (i.wf, exec i)) = leafMaj2C g lo up := by
  unfold decodeMaj2C leafMaj2C
  repeat' first | refine run_ite ?_ ?_ | refine run_bind fun _ => ?_ | rfl

theorem leafMaj2D_run (g : BitVec 3) (lo : BitVec 5) (up : BitVec 16) :
    (decodeMaj2D g lo up).map (fun i => (i.wf, exec i)) = leafMaj2D g lo up := by
  unfold decodeMaj2D leafMaj2D
  repeat' first | refine run_ite ?_ ?_ | refine run_bind fun _ => ?_ | rfl

theorem leafMaj2E_run (g : BitVec 3) (lo : BitVec 5) (up : BitVec 16) :
    (decodeMaj2E g lo up).map (fun i => (i.wf, exec i)) = leafMaj2E g lo up := by
  unfold decodeMaj2E leafMaj2E
  repeat' first | refine run_ite ?_ ?_ | refine run_bind fun _ => ?_ | rfl

theorem leafMaj2F_run (g : BitVec 3) (lo : BitVec 5) (up : BitVec 16) :
    (decodeMaj2F g lo up).map (fun i => (i.wf, exec i)) = leafMaj2F g lo up := by
  unfold decodeMaj2F leafMaj2F
  repeat' first | refine run_ite ?_ ?_ | refine run_bind fun _ => ?_ | rfl

theorem leafMaj30_run (g : BitVec 3) (lo : BitVec 5) (up : BitVec 16) :
    (decodeMaj30 g lo up).map (fun i => (i.wf, exec i)) = leafMaj30 g lo up := by
  unfold decodeMaj30 leafMaj30
  repeat' first | refine run_ite ?_ ?_ | refine run_bind fun _ => ?_ | rfl

theorem leafMaj31_run (g : BitVec 3) (lo : BitVec 5) (up : BitVec 16) :
    (decodeMaj31 g lo up).map (fun i => (i.wf, exec i)) = leafMaj31 g lo up := by
  unfold decodeMaj31 leafMaj31
  repeat' first | refine run_ite ?_ ?_ | refine run_bind fun _ => ?_ | rfl

theorem leafMaj38_run (g : BitVec 3) (lo : BitVec 5) (up : BitVec 16) :
    (decodeMaj38 g lo up).map (fun i => (i.wf, exec i)) = leafMaj38 g lo up := by
  unfold decodeMaj38 leafMaj38
  repeat' first | refine run_ite ?_ ?_ | refine run_bind fun _ => ?_ | rfl

theorem leafMaj39_run (g : BitVec 3) (lo : BitVec 5) (up : BitVec 16) :
    (decodeMaj39 g lo up).map (fun i => (i.wf, exec i)) = leafMaj39 g lo up := by
  unfold decodeMaj39 leafMaj39
  repeat' first | refine run_ite ?_ ?_ | refine run_bind fun _ => ?_ | rfl

theorem leafMaj40_run (g : BitVec 3) (lo : BitVec 5) (up : BitVec 16) :
    (decodeMaj40 g lo up).map (fun i => (i.wf, exec i)) = leafMaj40 g lo up := by
  unfold decodeMaj40 leafMaj40
  repeat' first | refine run_ite ?_ ?_ | refine run_bind fun _ => ?_ | rfl

theorem leafMaj41_run (g : BitVec 3) (lo : BitVec 5) (up : BitVec 16) :
    (decodeMaj41 g lo up).map (fun i => (i.wf, exec i)) = leafMaj41 g lo up := by
  unfold decodeMaj41 leafMaj41
  repeat' first | refine run_ite ?_ ?_ | refine run_bind fun _ => ?_ | rfl

theorem leafMaj42_run (g : BitVec 3) (lo : BitVec 5) (up : BitVec 16) :
    (decodeMaj42 g lo up).map (fun i => (i.wf, exec i)) = leafMaj42 g lo up := by
  unfold decodeMaj42 leafMaj42
  repeat' first | refine run_ite ?_ ?_ | refine run_bind fun _ => ?_ | rfl

theorem leafMaj43_run (g : BitVec 3) (lo : BitVec 5) (up : BitVec 16) :
    (decodeMaj43 g lo up).map (fun i => (i.wf, exec i)) = leafMaj43 g lo up := by
  unfold decodeMaj43 leafMaj43
  repeat' first | refine run_ite ?_ ?_ | refine run_bind fun _ => ?_ | rfl

theorem leafMaj44_run (g : BitVec 3) (lo : BitVec 5) (up : BitVec 16) :
    (decodeMaj44 g lo up).map (fun i => (i.wf, exec i)) = leafMaj44 g lo up := by
  unfold decodeMaj44 leafMaj44
  repeat' first | refine run_ite ?_ ?_ | refine run_bind fun _ => ?_ | rfl

theorem leafMaj45_run (g : BitVec 3) (lo : BitVec 5) (up : BitVec 16) :
    (decodeMaj45 g lo up).map (fun i => (i.wf, exec i)) = leafMaj45 g lo up := by
  unfold decodeMaj45 leafMaj45
  repeat' first | refine run_ite ?_ ?_ | refine run_bind fun _ => ?_ | rfl

theorem leafMaj46_run (g : BitVec 3) (lo : BitVec 5) (up : BitVec 16) :
    (decodeMaj46 g lo up).map (fun i => (i.wf, exec i)) = leafMaj46 g lo up := by
  unfold decodeMaj46 leafMaj46
  repeat' first | refine run_ite ?_ ?_ | refine run_bind fun _ => ?_ | rfl

theorem leafMaj47_run (g : BitVec 3) (lo : BitVec 5) (up : BitVec 16) :
    (decodeMaj47 g lo up).map (fun i => (i.wf, exec i)) = leafMaj47 g lo up := by
  unfold decodeMaj47 leafMaj47
  repeat' first | refine run_ite ?_ ?_ | refine run_bind fun _ => ?_ | rfl

theorem leafMaj48_run (g : BitVec 3) (lo : BitVec 5) (up : BitVec 16) :
    (decodeMaj48 g lo up).map (fun i => (i.wf, exec i)) = leafMaj48 g lo up := by
  unfold decodeMaj48 leafMaj48
  repeat' first | refine run_ite ?_ ?_ | refine run_bind fun _ => ?_ | rfl

theorem leafMaj50_run (g : BitVec 3) (lo : BitVec 5) (up : BitVec 16) :
    (decodeMaj50 g lo up).map (fun i => (i.wf, exec i)) = leafMaj50 g lo up := by
  unfold decodeMaj50 leafMaj50
  repeat' first | refine run_ite ?_ ?_ | refine run_bind fun _ => ?_ | rfl

theorem leafMaj51_run (g : BitVec 3) (lo : BitVec 5) (up : BitVec 16) :
    (decodeMaj51 g lo up).map (fun i => (i.wf, exec i)) = leafMaj51 g lo up := by
  unfold decodeMaj51 leafMaj51
  repeat' first | refine run_ite ?_ ?_ | refine run_bind fun _ => ?_ | rfl

theorem leafMaj52_run (g : BitVec 3) (lo : BitVec 5) (up : BitVec 16) :
    (decodeMaj52 g lo up).map (fun i => (i.wf, exec i)) = leafMaj52 g lo up := by
  unfold decodeMaj52 leafMaj52
  repeat' first | refine run_ite ?_ ?_ | refine run_bind fun _ => ?_ | rfl

theorem leafMaj53_run (g : BitVec 3) (lo : BitVec 5) (up : BitVec 16) :
    (decodeMaj53 g lo up).map (fun i => (i.wf, exec i)) = leafMaj53 g lo up := by
  unfold decodeMaj53 leafMaj53
  repeat' first | refine run_ite ?_ ?_ | refine run_bind fun _ => ?_ | rfl

theorem leafMaj54_run (g : BitVec 3) (lo : BitVec 5) (up : BitVec 16) :
    (decodeMaj54 g lo up).map (fun i => (i.wf, exec i)) = leafMaj54 g lo up := by
  unfold decodeMaj54 leafMaj54
  repeat' first | refine run_ite ?_ ?_ | refine run_bind fun _ => ?_ | rfl

theorem leafMaj58_run (g : BitVec 3) (lo : BitVec 5) (up : BitVec 16) :
    (decodeMaj58 g lo up).map (fun i => (i.wf, exec i)) = leafMaj58 g lo up := by
  unfold decodeMaj58 leafMaj58
  repeat' first | refine run_ite ?_ ?_ | refine run_bind fun _ => ?_ | rfl

theorem leafMaj59_run (g : BitVec 3) (lo : BitVec 5) (up : BitVec 16) :
    (decodeMaj59 g lo up).map (fun i => (i.wf, exec i)) = leafMaj59 g lo up := by
  unfold decodeMaj59 leafMaj59
  repeat' first | refine run_ite ?_ ?_ | refine run_bind fun _ => ?_ | rfl

theorem leafMaj5C_run (g : BitVec 3) (lo : BitVec 5) (up : BitVec 16) :
    (decodeMaj5C g lo up).map (fun i => (i.wf, exec i)) = leafMaj5C g lo up := by
  unfold decodeMaj5C leafMaj5C
  repeat' first | refine run_ite ?_ ?_ | refine run_bind fun _ => ?_ | rfl

theorem leafMaj5D_run (g : BitVec 3) (lo : BitVec 5) (up : BitVec 16) :
    (decodeMaj5D g lo up).map (fun i => (i.wf, exec i)) = leafMaj5D g lo up := by
  unfold decodeMaj5D leafMaj5D
  repeat' first | refine run_ite ?_ ?_ | refine run_bind fun _ => ?_ | rfl

theorem leafMaj5E_run (g : BitVec 3) (lo : BitVec 5) (up : BitVec 16) :
    (decodeMaj5E g lo up).map (fun i => (i.wf, exec i)) = leafMaj5E g lo up := by
  unfold decodeMaj5E leafMaj5E
  repeat' first | refine run_ite ?_ ?_ | refine run_bind fun _ => ?_ | rfl

theorem leafMaj68_run (g : BitVec 3) (lo : BitVec 5) (up : BitVec 16) :
    (decodeMaj68 g lo up).map (fun i => (i.wf, exec i)) = leafMaj68 g lo up := by
  unfold decodeMaj68 leafMaj68
  repeat' first | refine run_ite ?_ ?_ | refine run_bind fun _ => ?_ | rfl

theorem leafMaj69_run (g : BitVec 3) (lo : BitVec 5) (up : BitVec 16) :
    (decodeMaj69 g lo up).map (fun i => (i.wf, exec i)) = leafMaj69 g lo up := by
  unfold decodeMaj69 leafMaj69
  repeat' first | refine run_ite ?_ ?_ | refine run_bind fun _ => ?_ | rfl

theorem leafMaj6A_run (g : BitVec 3) (lo : BitVec 5) (up : BitVec 16) :
    (decodeMaj6A g lo up).map (fun i => (i.wf, exec i)) = leafMaj6A g lo up := by
  unfold decodeMaj6A leafMaj6A
  repeat' first | refine run_ite ?_ ?_ | refine run_bind fun _ => ?_ | rfl

theorem leafMaj6B_run (g : BitVec 3) (lo : BitVec 5) (up : BitVec 16) :
    (decodeMaj6B g lo up).map (fun i => (i.wf, exec i)) = leafMaj6B g lo up := by
  unfold decodeMaj6B leafMaj6B
  repeat' first | refine run_ite ?_ ?_ | refine run_bind fun _ => ?_ | rfl

theorem leafMaj6C_run (g : BitVec 3) (lo : BitVec 5) (up : BitVec 16) :
    (decodeMaj6C g lo up).map (fun i => (i.wf, exec i)) = leafMaj6C g lo up := by
  unfold decodeMaj6C leafMaj6C
  repeat' first | refine run_ite ?_ ?_ | refine run_bind fun _ => ?_ | rfl

theorem leafMaj70_run (g : BitVec 3) (lo : BitVec 5) (up : BitVec 16) :
    (decodeMaj70 g lo up).map (fun i => (i.wf, exec i)) = leafMaj70 g lo up := by
  unfold decodeMaj70 leafMaj70
  repeat' first | refine run_ite ?_ ?_ | refine run_bind fun _ => ?_ | rfl

theorem leafMaj71_run (g : BitVec 3) (lo : BitVec 5) (up : BitVec 16) :
    (decodeMaj71 g lo up).map (fun i => (i.wf, exec i)) = leafMaj71 g lo up := by
  unfold decodeMaj71 leafMaj71
  repeat' first | refine run_ite ?_ ?_ | refine run_bind fun _ => ?_ | rfl

theorem leafMaj72_run (g : BitVec 3) (lo : BitVec 5) (up : BitVec 16) :
    (decodeMaj72 g lo up).map (fun i => (i.wf, exec i)) = leafMaj72 g lo up := by
  unfold decodeMaj72 leafMaj72
  repeat' first | refine run_ite ?_ ?_ | refine run_bind fun _ => ?_ | rfl

theorem leafMaj74_run (g : BitVec 3) (lo : BitVec 5) (up : BitVec 16) :
    (decodeMaj74 g lo up).map (fun i => (i.wf, exec i)) = leafMaj74 g lo up := by
  unfold decodeMaj74 leafMaj74
  repeat' first | refine run_ite ?_ ?_ | refine run_bind fun _ => ?_ | rfl

theorem leafMaj75_run (g : BitVec 3) (lo : BitVec 5) (up : BitVec 16) :
    (decodeMaj75 g lo up).map (fun i => (i.wf, exec i)) = leafMaj75 g lo up := by
  unfold decodeMaj75 leafMaj75
  repeat' first | refine run_ite ?_ ?_ | refine run_bind fun _ => ?_ | rfl

theorem leafMaj78_run (g : BitVec 3) (lo : BitVec 5) (up : BitVec 16) :
    (decodeMaj78 g lo up).map (fun i => (i.wf, exec i)) = leafMaj78 g lo up := by
  unfold decodeMaj78 leafMaj78
  repeat' first | refine run_ite ?_ ?_ | refine run_bind fun _ => ?_ | rfl

theorem leafMaj7C_run (g : BitVec 3) (lo : BitVec 5) (up : BitVec 16) :
    (decodeMaj7C g lo up).map (fun i => (i.wf, exec i)) = leafMaj7C g lo up := by
  unfold decodeMaj7C leafMaj7C
  repeat' first | refine run_ite ?_ ?_ | refine run_bind fun _ => ?_ | rfl

theorem leafMaj7D_run (g : BitVec 3) (lo : BitVec 5) (up : BitVec 16) :
    (decodeMaj7D g lo up).map (fun i => (i.wf, exec i)) = leafMaj7D g lo up := by
  unfold decodeMaj7D leafMaj7D
  repeat' first | refine run_ite ?_ ?_ | refine run_bind fun _ => ?_ | rfl

theorem leafMaj7E_run (g : BitVec 3) (lo : BitVec 5) (up : BitVec 16) :
    (decodeMaj7E g lo up).map (fun i => (i.wf, exec i)) = leafMaj7E g lo up := by
  unfold decodeMaj7E leafMaj7E
  repeat' first | refine run_ite ?_ ?_ | refine run_bind fun _ => ?_ | rfl

@[csimp] theorem majorRun_leaf : @majorRun = @majorLeaf := by
  funext maj g lo up
  unfold majorRun decodeMajor majorLeaf
  refine run_ite (leafMaj00_run g lo up) ?_
  refine run_ite (leafMaj01_run g lo up) ?_
  refine run_ite (leafMaj02_run g lo up) ?_
  refine run_ite (leafMaj03_run g lo up) ?_
  refine run_ite (leafMaj04_run g lo up) ?_
  refine run_ite (leafMaj05_run g lo up) ?_
  refine run_ite (leafMaj08_run g lo up) ?_
  refine run_ite (leafMaj09_run g lo up) ?_
  refine run_ite (leafMaj10_run g lo up) ?_
  refine run_ite (leafMaj11_run g lo up) ?_
  refine run_ite (leafMaj12_run g lo up) ?_
  refine run_ite (leafMaj13_run g lo up) ?_
  refine run_ite (leafMaj14_run g lo up) ?_
  refine run_ite (leafMaj15_run g lo up) ?_
  refine run_ite (leafMaj16_run g lo up) ?_
  refine run_ite (leafMaj18_run g lo up) ?_
  refine run_ite (leafMaj19_run g lo up) ?_
  refine run_ite (leafMaj1A_run g lo up) ?_
  refine run_ite (leafMaj20_run g lo up) ?_
  refine run_ite (leafMaj21_run g lo up) ?_
  refine run_ite (leafMaj22_run g lo up) ?_
  refine run_ite (leafMaj23_run g lo up) ?_
  refine run_ite (leafMaj24_run g lo up) ?_
  refine run_ite (leafMaj25_run g lo up) ?_
  refine run_ite (leafMaj26_run g lo up) ?_
  refine run_ite (leafMaj27_run g lo up) ?_
  refine run_ite (leafMaj28_run g lo up) ?_
  refine run_ite (leafMaj29_run g lo up) ?_
  refine run_ite (leafMaj2A_run g lo up) ?_
  refine run_ite (leafMaj2B_run g lo up) ?_
  refine run_ite (leafMaj2C_run g lo up) ?_
  refine run_ite (leafMaj2D_run g lo up) ?_
  refine run_ite (leafMaj2E_run g lo up) ?_
  refine run_ite (leafMaj2F_run g lo up) ?_
  refine run_ite (leafMaj30_run g lo up) ?_
  refine run_ite (leafMaj31_run g lo up) ?_
  refine run_ite (leafMaj38_run g lo up) ?_
  refine run_ite (leafMaj39_run g lo up) ?_
  refine run_ite (leafMaj40_run g lo up) ?_
  refine run_ite (leafMaj41_run g lo up) ?_
  refine run_ite (leafMaj42_run g lo up) ?_
  refine run_ite (leafMaj43_run g lo up) ?_
  refine run_ite (leafMaj44_run g lo up) ?_
  refine run_ite (leafMaj45_run g lo up) ?_
  refine run_ite (leafMaj46_run g lo up) ?_
  refine run_ite (leafMaj47_run g lo up) ?_
  refine run_ite (leafMaj48_run g lo up) ?_
  refine run_ite (leafMaj50_run g lo up) ?_
  refine run_ite (leafMaj51_run g lo up) ?_
  refine run_ite (leafMaj52_run g lo up) ?_
  refine run_ite (leafMaj53_run g lo up) ?_
  refine run_ite (leafMaj54_run g lo up) ?_
  refine run_ite (leafMaj58_run g lo up) ?_
  refine run_ite (leafMaj59_run g lo up) ?_
  refine run_ite (leafMaj5C_run g lo up) ?_
  refine run_ite (leafMaj5D_run g lo up) ?_
  refine run_ite (leafMaj5E_run g lo up) ?_
  refine run_ite (leafMaj68_run g lo up) ?_
  refine run_ite (leafMaj69_run g lo up) ?_
  refine run_ite (leafMaj6A_run g lo up) ?_
  refine run_ite (leafMaj6B_run g lo up) ?_
  refine run_ite (leafMaj6C_run g lo up) ?_
  refine run_ite (leafMaj70_run g lo up) ?_
  refine run_ite (leafMaj71_run g lo up) ?_
  refine run_ite (leafMaj72_run g lo up) ?_
  refine run_ite (leafMaj74_run g lo up) ?_
  refine run_ite (leafMaj75_run g lo up) ?_
  refine run_ite (leafMaj78_run g lo up) ?_
  refine run_ite (leafMaj7C_run g lo up) ?_
  refine run_ite (leafMaj7D_run g lo up) ?_
  refine run_ite (leafMaj7E_run g lo up) ?_
  rfl

/-- The word that the parcels hold runs; what decode rejects raises ILLEGAL (R50). -/
noncomputable def runDecoded (ps : List (BitVec 16)) (s : State) : Out :=
  match decode ps with
  | .ok (i, _) => exec i s
  | .error _ => execIllegalWord s

def runBat (p : BitVec 16) (s : State) : Out :=
  match decodeBatChecked p with
  | .ok i => exec i s
  | .error _ => execIllegalWord s

def runBrick (p0 p1 : BitVec 16) (s : State) : Out :=
  if majorOf p0 = 0x7F then
    if p0.extractLsb' 0 4 = 0#4 then execImx (p0.extractLsb' 4 4) p1 s else execIllegalWord s
  else if assignedMajor (majorOf p0) then
    match majorRun (majorOf p0) (p0.extractLsb' 5 3) (p0.extractLsb' 0 5) p1 with
    | some (true, run) => run s
    | _ => execIllegalWord s
  else execIllegalWord s

def runParcels (ps : List (BitVec 16)) (s : State) : Out :=
  match ps with
  | [] => execIllegalWord s
  | p0 :: rest =>
    if isBrick p0 then
      match rest with
      | [] => execIllegalWord s
      | p1 :: _ => runBrick p0 p1 s
    else runBat p0 s

theorem runBrick_eq (p0 p1 : BitVec 16) (s : State) :
    runBrick p0 p1 s = (match decodeBrick p0 p1 with
      | .ok i => exec i s
      | .error _ => execIllegalWord s) := by
  unfold runBrick decodeBrick majorRun
  dsimp only
  split
  · split <;> rfl
  · split
    · cases decodeMajor (majorOf p0) (p0.extractLsb' 5 3) (p0.extractLsb' 0 5) p1 with
      | none => rfl
      | some i => unfold checked; cases h : i.wf <;> simp [h]
    · rfl

@[csimp] theorem runDecoded_run : @runDecoded = @runParcels := by
  funext ps s
  unfold runDecoded runParcels decode
  cases ps with
  | nil => rfl
  | cons p0 rest =>
    cases hb : isBrick p0 with
    | false =>
      simp only [hb, Bool.false_eq_true, if_false]
      unfold runBat
      cases decodeBatChecked p0 <;> rfl
    | true =>
      cases rest with
      | nil => simp [hb]
      | cons p1 r =>
        simp only [hb, if_true]
        rw [runBrick_eq]
        cases decodeBrick p0 p1 <;> rfl

end Sys2Proof.Machine
end

