-- ==== Sys2Proof/Machine/Decoder.lean ====
section
/-! DEFINITION. What a stream's decoder does with the word at its pc: events, fetch, and the order of the decode checks
(R49). -/

namespace Sys2Proof.Machine

namespace State

/-- The word of the running stream whose parcels have arrived (R49, steps 2 to 6); `eff` are those that say what it
does. It is held while a token that it reads is still to come (R262), while an engine has yet to produce an operand
that its stream waits for (R19, R95), while no physical register is free for the token it takes (R262), and, where it takes
effect once or raises a cause, while an older entry has not retired. -/
def decodeWord (s : State) (ps eff : List (BitVec 16)) : Out :=
  match s.frontCause ps with
  | some (c, ea) => .next (s.raiseAtDecode eff fun t => t.raise c ea)
  | none =>
    let t := s.me
    let tokens := ((scalarReads eff).filter t.isPending).map t.scalarName
    let open' := if blocksStream eff then t.unproduced (t.readNames eff) else []
    if s.readP (guardOf eff) && !tokens.isEmpty then .next (s.blockOn (.operands tokens))
    else if s.readP (guardOf eff) && !open'.isEmpty then .next (s.blockOn (.operands open'))
    else if actsOnce eff && !t.trb.isEmpty then
      .next (if blocksStream eff then s.blockOn .retired else s.holdFor .retired)
    else if s.readP (guardField eff) && takesToken eff && !s.tokenRoom s.myCore then .next s.holdWord
    else
      let u := s.enterTrb eff
      match runDecoded ps (if isPrefix ps then u else u.clearSkip) with
      | .next v => .next (if s.tooEarly v then s.holdFor .retired else v.ran s u.me.seqNext eff)
      | r => r

/-- The word at the pc of the running stream has not come: the stream tries again in a later slot, and its reply timer runs on
(R332). -/
def waitFetch (s : State) (w : Wait) : State :=
  s.holdFor (match s.me.wait, w with
    | .link n _ _, .link _ l a => .link n l a
    | _, w => w)

/-- Stream `q`, whose turn it is (R25), decodes. -/
def decodeStep (s0 : State) (q : Nat) : Out :=
  let s := { s0 with cur := q }.release q
  if !s.decodes q then .next s
  else if Config.trbPartition ≤ s.me.trb.length then .next (s.blockOn .room)
  else match (s.takeSlot q).fetchAll with
    | (t, .error (.later w)) => .next (t.waitFetch w)
    | (t, .error f) => .next (t.raiseAtDecode [] fun u => u.fetchFailed f)
    | (t, .ok (ps, eff)) => t.decodeWord ps eff

end State

end Sys2Proof.Machine
end

