-- ==== Sys2Proof/Machine/Turns.lean ====
section
/-! DEFINITION. Whose move is next: the agenda, and the fixed order in which agents move when it is empty (log 3). -/

namespace Sys2Proof.Machine

/-- The step is one of the machine's own, not a word of a program. -/
def isEvent (i : Instr) : Bool := (encode i).isEmpty

namespace State

/-- A stream that has something to do: a word to decode, an event to take, entries to retire, or stores to perform. -/
def isLive (s : State) (q : Nat) : Bool :=
  let t := s.stream q
  s.decodes q || t.dueEvent.isSome || (t.run = .blocked && s.released q) || !t.trb.isEmpty || !t.storeQ.isEmpty

/-- The live stream after the one that moved last, in cyclic order. -/
def nextStream (s : State) : Option Nat :=
  let l := (s.streams.map (·.1)).filter s.isLive
  match l.filter fun q => decide (s.cur < q) with
  | q :: _ => some q
  | [] => l.head?

/-- The engines of a core in one of its cycles: each that is free completes what it has taken and takes its next entry, and two
heads retire (R163, R171). -/
def runEngines (s : State) (c : Nat) : State :=
  let t := engines.foldl (fun u e => (u.completeOn c e).issueOn c e) ((streamsAt c).foldl settleTrb s)
  (t.retireOne c).retireOne c

/-- A whole cycle of a core: its clock, its engines, and the decode of the stream whose turn it is (R25). -/
def coreTurn (s : State) (c : Nat) : Out :=
  let t := (s.clockCycle c).runEngines c
  match t.rotation c with
  | some j => t.decodeStep (4 * c + j)
  | none => .next t

/-- The move that an empty agenda gives a stream: its oldest retired store performs, or a far reduction sets out, where it
can; else a piece of a write of it that is on its way lands; else its core has a cycle. -/
def quietTurn (s0 : State) (q : Nat) : Out :=
  let s := { s0 with cur := q }
  let head (t : State) : Option Phase := ((t.stream q).storeQ.head?).map (·.phase)
  let (u, done) := s.performHead q
  if done || head u != head s then .next { u with cur := q }
  else if (s.sentWrites q fun k => k == .scalar || k == .wide).any fun e => (piecesOf e).any (s.mayLand q e) then
    .next { s.writePiece q with cur := q }
  else s.coreTurn (q / 4)

/-- The move that an empty agenda makes. -/
def defaultTurn (s : State) : Out :=
  match s.nextStream with
  | some q => s.quietTurn q
  | none => .next s

/-- The `n` bytes at a place as a read of core `c` through `via` finds them now, where they are sound. -/
def seenNow (s : State) (c : Nat) (via : Via) (place n : Nat) : Option (List Byte) :=
  let line := place / 128 * 128
  let cached := match via with
    | .home => none
    | .l2 => SMap.find (s.die (dieOfCore c)).guest line
    | .l1 => match SMap.find (s.core c).l1d line with
      | some l => some l
      | none => SMap.find (s.die (dieOfCore c)).guest line
  match cached with
  | some l => if (l.bad (place % 128) n).isNone then some (l.bytes (place % 128) n) else none
  | none =>
    let good (k : Nat) : Bool := s.sectorGood k && !(s.sector k).poison
    if good place && good (place + n - 1) && s.reaches (.core c) (s.siteOf place) then some (s.bytesAt place n) else none

/-- Whether a word of stream `q` may read `n` bytes before older words of the stream have read theirs: the stream runs, its
newest word awaits nothing, and they are an aligned block or an element (R281) of no other core's scratchpad and of no page
that a sibling holds. -/
def mayReadAhead (s : State) (q ahead place n : Nat) : Bool :=
  let t := s.stream q
  (t.run == .ready || t.run == .blocked) && !t.atWait && (s.ownerOf (q / 4)).isSome && !(s.core (q / 4)).moving &&
    decide (0 < ahead ∧ ahead ≤ Config.trbPartition) && [1, 2, 4, 8, 16, 64].contains n && decide (place % n = 0) &&
    (decide (place < 2 ^ 48) || decide (2 ^ 52 ≤ place) ||
      (decide ((place - 2 ^ 48) / 2 ^ 20 = q / 4) && !s.pageHeld q ((place - 2 ^ 48) % 2 ^ 20 / 4096)))

/-- The word that stream `q` decodes as the `ahead`-th from now reads an element or a block (R169, R272): it may do so before the older
reads of its stream, which the spec leaves in no order with it, and while their entries wait in the TRB. What it read holds
for that word unless an older word orders its reads, or an older write or home read of the stream comes to the place. -/
def readEarly (s : State) (q ahead place n : Nat) (via : Via) : State :=
  if s.mayReadAhead q ahead place n then
    match s.seenNow (q / 4) via place n with
    | some l =>
      let kept := s.ahead.filter fun a => decide ((s.stream a.stream).seqNext < a.word)
      { s with ahead := ⟨q, (s.stream q).seqNext + ahead, routeOf via place, place, l⟩ :: kept }
    | none => s
  else s

/-- A move that the agenda names: the decode slot of a stream, which it has only when the rotation comes to it (R25), a step that
is no word, or a read ahead of program order. -/
def turn (s : State) : Turn → Out
  | .slot q =>
    if Config.streamCount ≤ q then .fault .noSuchAgent
    else if s.rotation (q / 4) = some (q % 4) then s.decodeStep q
    else .next s
  | .readAhead q ahead place n via =>
    if q < Config.streamCount then .next (s.readEarly q ahead place n via) else .fault .noSuchAgent
  | .event i => if isEvent i then exec i s else .fault .noSuchAgent

end State

/-- The address at which `withFetchWord` lets its word stand. -/
def firstWordAt : Nat := 0x4000

/-- The context that `withFetchWord` gives core 0: pitch 1 × 1 at (0, 0), page-table root 0x1000. -/
def firstCtx : Ctx :=
  { desc := BitVec.ofNat 512 (0x1000 + 1 * 2 ^ 64 + 1 * 2 ^ 88 + 1 * 2 ^ 96)
    table := [BitVec.ofNat 128 (2 ^ 8)] }

/-- The bytes of the two table entries that map the first GiB onto itself, readable, writable and executable. -/
def firstTables : List (Nat × Byte) :=
  placed 0x1000 (leBytes 8 0x2001) ++ placed 0x2000 (leBytes 8 0x1F)

/-- Whether a word needs supervisor level (R129, R207). -/
def needsSupervisor (w : Nat) : Bool :=
  let maj := w / 256 % 128
  let lo := w % 32
  (maj == 0x7D && (lo == 0 || lo == 1 || lo == 3 || lo == 4)) ||
    (maj == 0x7C && (0x100 ≤ w / 65536 % 4096 && w / 65536 % 4096 < 0x120))

end Sys2Proof.Machine
end

