-- ==== Sys2Proof/Machine/Step.lean ====
section
/-! DEFINITION. One step of the machine, and the placing of a word where the next step fetches it. -/

namespace Sys2Proof.Machine

/-- One step: the agent that the agenda names first moves; with an empty agenda, the default order chooses. -/
def step (s : State) : Host.Outcome State Fault Refusal :=
  match s.agenda with
  | [] => s.defaultTurn
  | t :: rest => { s with agenda := rest }.turn t

/-- The state with the word `w` of the opcode table stored where the next step fetches it: at `firstWordAt` of a context
that holds core 0, whose stream 0 is ready there, has its turn and moves next (log 15). -/
def State.withFetchWord (s : State) (nbits w : Nat) : State :=
  let s1 := { s with agenda := [.slot 0] }.setCtx 0 firstCtx
  let k := s1.core 0
  let s2 := s1.setCore 0 { k with
    owner := some (0, 0), l1i := [], tlb := [], moving := false
    lastStream := 3, decodedAt := Vector.replicate 4 0, cycle := k.cycle + 3 }
  let s3 := s2.merge unitWriter (firstTables ++ placed firstWordAt (tableBytes nbits w))
  s3.setStream 0 { s3.stream 0 with
    run := .ready, wait := .none, trb := [], pend := 0, step := false, skip := false
    level := needsSupervisor (w % 2 ^ nbits), pc := BitVec.ofNat 64 firstWordAt }

end Sys2Proof.Machine
end

