-- ==== Sys2Proof/Safety.lean ====
section
/-! DEFINITION. What counts as a safe run, and the vocabulary of the statements: when a word passes control to the next
one, what it leaves unchanged, and the invariants. -/

namespace Sys2Proof.Machine

/-- The outcome is a next state. -/
def Completes (o : Host.Outcome State Fault Refusal) : Prop := ∃ t, o = .next t

/-- The outcome, if it is a next state, is one with the property. -/
def Leads (o : Host.Outcome State Fault Refusal) (p : State → Prop) : Prop := ∀ t, o = .next t → p t

/-- The memory is in its canonical form. -/
def State.memWf (s : State) : Prop := Memory.wf s.cells = true

/-- A stream at address `a` goes on there: no loop pair ends at `a` (R116), `a` may be fetched (R35), and the word that
comes to `a` ran without single step (R209). -/
def Stream.PassesTo (t : Stream) (a : Word) : Prop :=
  (∀ n, t.endsAt n a = false) ∧ neverFetched a = false ∧ t.step = false

/-- The running stream's word of `len` bytes passes control to the word behind it. -/
def State.Passes (s : State) (len : Nat) : Prop := s.me.PassesTo (s.me.pc + BitVec.ofNat 64 len)

/-- The running stream goes on behind its word of `len` bytes. -/
def State.nextWord (s : State) (len : Nat) : State := s.goTo (s.me.pc + BitVec.ofNat 64 len)

/-- The outcome of a brick whose whole effect is S[d] := v. -/
def State.writesS (s : State) (d : BitVec 5) (v : Word) : Host.Outcome State Fault Refusal :=
  .next ((s.writeS d v).nextWord 4)

/-- The outcome of a brick whose whole effect is P[d] := b. -/
def State.writesP (s : State) (d : BitVec 3) (b : Bool) : Host.Outcome State Fault Refusal :=
  .next ((s.writeP d b).nextWord 4)

end Sys2Proof.Machine
end

