-- ==== Sys2Proof/Certificates/Slice0/Obligations.lean ====
section
/-! DEFINITION. The statements for the provers, and the vocabulary they share. -/

open Sys2Proof Sys2Proof.Machine

/-! ## Scalar registers (chapter 04) -/

/-- R90, R199: reading S[m] after a write of S[n]. `S0` reads 0 and takes no write; at supervisor level `S28` and `S29`
are the supervisor bank, which is apart from the user registers. -/
def Sys2Proof.Spec.ScalarRegistersReadBack : Prop :=
  (∀ (s : State) (n m : BitVec 5) (v : Word),
    (s.writeS n v).readS m = if m = n ∧ n ≠ 0#5 then v else s.readS m) ∧
  (∀ s : State, s.readS 0#5 = 0) ∧
  (∀ (s : State) (v : Word), s.me.level = true →
    ((s.writeS 28#5 v).me.sb28 = v ∧ (s.writeS 28#5 v).me.s = s.me.s) ∧
    ((s.writeS 29#5 v).me.sb29 = v ∧ (s.writeS 29#5 v).me.s = s.me.s)) ∧
  (∀ (s : State) (n : BitVec 5) (v : Word), s.me.level = false →
    (s.writeS n v).me.sb28 = s.me.sb28 ∧ (s.writeS n v).me.sb29 = s.me.sb29)

/-- R91: reading P[m] after a write of P[n]; `P0` is true and takes no write. -/
def Sys2Proof.Spec.PredicatesReadBack : Prop :=
  (∀ (s : State) (n m : BitVec 3) (b : Bool),
    (s.writeP n b).readP m = if m = n ∧ n ≠ 0#3 then b else s.readP m) ∧
  (∀ s : State, s.readP 0#3 = true)

/-- Scalar and predicate registers read back what is written to them. (Spec.ScalarRegistersReadBack, Spec.PredicatesReadBack.) -/
def Obligations.RegistersReadBack : Prop := Spec.ScalarRegistersReadBack ∧ Spec.PredicatesReadBack

/-- R38, R39: the ten arithmetic bats write S[fa] from S[fa] and S[fb], and go on 2 bytes further. -/
def Sys2Proof.Spec.BatArithmetic : Prop :=
  ∀ (s : State) (a b : BitVec 5), s.Passes 2 →
    let x := s.readS a
    let y := s.readS b
    let w (v : Word) : Out := .next ((s.writeS a v).nextWord 2)
    exec (.batMov a b) s = w y ∧
    exec (.batAdd a b) s = w (BitVec.ofNat 64 (x.toNat + y.toNat)) ∧
    exec (.batSub a b) s = w (BitVec.ofInt 64 (x.toInt - y.toInt)) ∧
    exec (.batAnd a b) s = w (x &&& y) ∧
    exec (.batOr a b) s = w (x ||| y) ∧
    exec (.batXor a b) s = w (x ^^^ y) ∧
    exec (.batShl a b) s = w (BitVec.ofNat 64 (x.toNat * 2 ^ (y.toNat % 64))) ∧
    exec (.batShr a b) s = w (BitVec.ofNat 64 (x.toNat / 2 ^ (y.toNat % 64))) ∧
    exec (.batSra a b) s = w (BitVec.ofInt 64 (x.toInt / 2 ^ (y.toNat % 64))) ∧
    exec (.batMul a b) s = w (BitVec.ofNat 64 (x.toNat * y.toNat))

/-- R52: the ten immediate words write S[d] from S[d] and the sign-extended imm12. The shift amounts are those a
well-formed word carries. -/
def Sys2Proof.Spec.ImmediateArithmetic : Prop :=
  ∀ (s : State) (g : BitVec 3) (i : BitVec 12) (d : BitVec 5), s.readP g = true → s.Passes 4 →
    let x := s.readS d
    let imm : Word := BitVec.ofInt 64 i.toInt
    exec (.movi g i d) s = s.writesS d imm ∧
    exec (.addi g i d) s = s.writesS d (BitVec.ofInt 64 (x.toInt + i.toInt)) ∧
    exec (.andi g i d) s = s.writesS d (x &&& imm) ∧
    exec (.ori g i d) s = s.writesS d (x ||| imm) ∧
    exec (.xori g i d) s = s.writesS d (x ^^^ imm) ∧
    (i.toNat < 64 →
      exec (.shli g i d) s = s.writesS d (BitVec.ofNat 64 (x.toNat * 2 ^ i.toNat)) ∧
      exec (.shri g i d) s = s.writesS d (BitVec.ofNat 64 (x.toNat / 2 ^ i.toNat)) ∧
      exec (.srai g i d) s = s.writesS d (BitVec.ofInt 64 (x.toInt / 2 ^ i.toNat))) ∧
    exec (.muli g i d) s = s.writesS d (BitVec.ofInt 64 (x.toInt * i.toInt)) ∧
    exec (.movh g i d) s = s.writesS d (BitVec.ofNat 64 (imm.toNat % 2 ^ 32 * 2 ^ 32 + x.toNat % 2 ^ 32))

/-- The bats, and the words with an immediate. (Spec.BatArithmetic, Spec.ImmediateArithmetic.) -/
def Obligations.BatAndImmediateArithmetic : Prop := Spec.BatArithmetic ∧ Spec.ImmediateArithmetic

/-- Stream `q` may take a word: the rotation of its core comes to it (R25), and its partition of the TRB has room. -/
def Sys2Proof.Spec.mayDecode (s : State) (q : Nat) : Prop :=
  s.rotation (q / 4) = some (q % 4) ∧ (s.stream q).trb.length < 24

/-- R49: a brick of the major with a minor from `n` on raises ILLEGAL in the step that gives its stream the next slot, where
the brick arrives and no breakpoint stands at it. -/
def Sys2Proof.Spec.MinorsRaiseIllegal (m n : Nat) : Prop :=
  ∀ (s t : State) (q : Nat) (rest : List Turn) (p0 p1 : BitVec 16),
    p0.getLsbD 15 = true → p0.toNat / 2 ^ 8 % 2 ^ 7 = m → n ≤ p0.toNat % 2 ^ 5 →
    s.agenda = .slot q :: rest → q < 1024 →
    let s1 : State := { s with agenda := rest, cur := q }
    Spec.mayDecode s1 q → (s1.takeSlot q).fetchAll = (t, .ok ([p0, p1], [p0, p1])) → (t.breakpointAt t.me.pc) = none →
    step s = .next (t.raiseAtDecode [p0, p1] fun u => u.raise .illegal 0)

/-- The end of the range of `n`-bit integers on the side of an integer, and an integer brought into that range. -/
def Sys2Proof.Spec.limitOf (n : Nat) (x : Int) : Int := if 0 ≤ x then 2 ^ (n - 1) - 1 else -(2 ^ (n - 1))
def Sys2Proof.Spec.sat (n : Nat) (x : Int) : Int := max (-(2 ^ (n - 1))) (min (2 ^ (n - 1) - 1) x)

/-- R98: the twenty words of major 0x00. Division rounds toward zero; a division by zero gives the end of the range on
the dividend's side; a remainder by zero is 0. -/
def Sys2Proof.Spec.IntegerArithmetic : Prop :=
  Spec.MinorsRaiseIllegal 0x00 20 ∧
  ∀ (s : State) (g : BitVec 3) (d a b : BitVec 5), s.readP g = true → s.Passes 4 →
    let x := s.readS a
    let y := s.readS b
    exec (.add g d a b) s = s.writesS d (BitVec.ofInt 64 (x.toInt + y.toInt)) ∧
    exec (.sub g d a b) s = s.writesS d (BitVec.ofInt 64 (x.toInt - y.toInt)) ∧
    exec (.mul g d a b) s = s.writesS d (BitVec.ofInt 64 (x.toInt * y.toInt)) ∧
    exec (.mulh g d a b) s = s.writesS d (BitVec.ofInt 64 (x.toInt * y.toInt / 2 ^ 64)) ∧
    exec (.mulhu g d a b) s = s.writesS d (BitVec.ofNat 64 (x.toNat * y.toNat / 2 ^ 64)) ∧
    exec (.mulhm g d a b) s = s.writesS d (BitVec.ofInt 64 ((x.toNat : Int) * y.toInt / 2 ^ 64)) ∧
    exec (.div g d a b) s = s.writesS d (BitVec.ofInt 64
      (if y = 0 then Spec.limitOf 64 x.toInt else Spec.sat 64 (x.toInt.tdiv y.toInt))) ∧
    exec (.divu g d a b) s = s.writesS d (if y = 0 then BitVec.allOnes 64 else x / y) ∧
    exec (.rem g d a b) s = s.writesS d
      (if y = 0 then 0 else BitVec.ofInt 64 (x.toInt - x.toInt.tdiv y.toInt * y.toInt)) ∧
    exec (.remu g d a b) s = s.writesS d (if y = 0 then 0 else x % y) ∧
    exec (.min g d a b) s = s.writesS d (BitVec.ofInt 64 (min x.toInt y.toInt)) ∧
    exec (.minu g d a b) s = s.writesS d (BitVec.ofNat 64 (min x.toNat y.toNat)) ∧
    exec (.max g d a b) s = s.writesS d (BitVec.ofInt 64 (max x.toInt y.toInt)) ∧
    exec (.maxu g d a b) s = s.writesS d (BitVec.ofNat 64 (max x.toNat y.toNat)) ∧
    exec (.adds g d a b) s = s.writesS d (BitVec.ofInt 64 (Spec.sat 64 (x.toInt + y.toInt))) ∧
    exec (.subs g d a b) s = s.writesS d (BitVec.ofInt 64 (Spec.sat 64 (x.toInt - y.toInt))) ∧
    exec (.addsu g d a b) s = s.writesS d (BitVec.ofNat 64 (min (2 ^ 64 - 1) (x.toNat + y.toNat))) ∧
    exec (.subsu g d a b) s = s.writesS d (BitVec.ofNat 64 (x.toNat - y.toNat)) ∧
    exec (.abs g d a) s = s.writesS d (BitVec.ofNat 64 x.toInt.natAbs) ∧
    exec (.neg g d a) s = s.writesS d (BitVec.ofInt 64 (-x.toInt))

/-- R99: the eleven words of major 0x01. Only bits 5 to 0 of a shift amount count. -/
def Sys2Proof.Spec.LogicAndShifts : Prop :=
  Spec.MinorsRaiseIllegal 0x01 11 ∧
  ∀ (s : State) (g : BitVec 3) (d a b : BitVec 5), s.readP g = true → s.Passes 4 →
    let x := s.readS a
    let y := s.readS b
    let k := y.toNat % 64
    exec (.and g d a b) s = s.writesS d (x &&& y) ∧
    exec (.or g d a b) s = s.writesS d (x ||| y) ∧
    exec (.xor g d a b) s = s.writesS d (x ^^^ y) ∧
    exec (.andn g d a b) s = s.writesS d (x &&& ~~~y) ∧
    exec (.orn g d a b) s = s.writesS d (x ||| ~~~y) ∧
    exec (.xnor g d a b) s = s.writesS d (~~~(x ^^^ y)) ∧
    exec (.shl g d a b) s = s.writesS d (BitVec.ofNat 64 (x.toNat * 2 ^ k)) ∧
    exec (.shr g d a b) s = s.writesS d (BitVec.ofNat 64 (x.toNat / 2 ^ k)) ∧
    exec (.sra g d a b) s = s.writesS d (BitVec.ofInt 64 (x.toInt / 2 ^ k)) ∧
    exec (.rol g d a b) s = s.writesS d ((x <<< k) ||| (x >>> (64 - k))) ∧
    exec (.ror g d a b) s = s.writesS d ((x >>> k) ||| (x <<< (64 - k)))

/-- Integer arithmetic, logic and shifts. (Spec.IntegerArithmetic, Spec.LogicAndShifts.) -/
def Obligations.IntegerAndLogicWords : Prop := Spec.IntegerArithmetic ∧ Spec.LogicAndShifts

/-- R100: the words of major 0x02, each bit of the result where the rule gives bits, and the counts by what they
count. -/
def Sys2Proof.Spec.BitOperations : Prop :=
  Spec.MinorsRaiseIllegal 0x02 14 ∧
  ∀ (s : State) (g : BitVec 3) (d a b : BitVec 5), s.readP g = true → s.Passes 4 →
    let x := s.readS a
    let y := s.readS b
    let pos := y.toNat % 64
    let m := min (y.toNat / 256 % 128) (64 - pos)
    (∃ n : Nat, exec (.clz g d a) s = s.writesS d (BitVec.ofNat 64 n) ∧ n ≤ 64 ∧
      (∀ j : Nat, j < n → x.getLsbD (63 - j) = false) ∧ (n < 64 → x.getLsbD (63 - n) = true)) ∧
    (∃ n : Nat, exec (.ctz g d a) s = s.writesS d (BitVec.ofNat 64 n) ∧ n ≤ 64 ∧
      (∀ j : Nat, j < n → x.getLsbD j = false) ∧ (n < 64 → x.getLsbD n = true)) ∧
    exec (.popc g d a) s = s.writesS d (BitVec.ofNat 64 ((List.range 64).filter fun j => x.getLsbD j).length) ∧
    (∃ r : Word, exec (.brev g d a) s = s.writesS d r ∧ ∀ j : Nat, j < 64 → r.getLsbD j = x.getLsbD (63 - j)) ∧
    (∃ r : Word, exec (.bswap g d a) s = s.writesS d r ∧
      ∀ j : Nat, j < 8 → r.extractLsb' (8 * j) 8 = x.extractLsb' (8 * (7 - j)) 8) ∧
    exec (.sxtB g d a) s = s.writesS d (BitVec.ofInt 64 (x.setWidth 8).toInt) ∧
    exec (.sxtH g d a) s = s.writesS d (BitVec.ofInt 64 (x.setWidth 16).toInt) ∧
    exec (.sxtW g d a) s = s.writesS d (BitVec.ofInt 64 (x.setWidth 32).toInt) ∧
    exec (.zxtB g d a) s = s.writesS d (BitVec.ofNat 64 (x.toNat % 2 ^ 8)) ∧
    exec (.zxtH g d a) s = s.writesS d (BitVec.ofNat 64 (x.toNat % 2 ^ 16)) ∧
    exec (.zxtW g d a) s = s.writesS d (BitVec.ofNat 64 (x.toNat % 2 ^ 32)) ∧
    (∃ r : Word, exec (.bfx g d a b) s = s.writesS d r ∧ ∀ j : Nat, j < 64 → r.getLsbD j =
      (decide (0 < m) && x.getLsbD (pos + if j < m then j else m - 1))) ∧
    (∃ r : Word, exec (.bfxu g d a b) s = s.writesS d r ∧ ∀ j : Nat, j < 64 →
      r.getLsbD j = (decide (j < m) && x.getLsbD (pos + j))) ∧
    (∃ r : Word, exec (.bfi g d a b) s = s.writesS d r ∧ ∀ j : Nat, j < 64 →
      r.getLsbD j = if pos ≤ j ∧ j < pos + m then x.getLsbD (j - pos) else (s.readS d).getLsbD j)

/-- R101, R103: the 32-bit operations write the sign-extended 32-bit result, and the fused forms their sums. -/
def Sys2Proof.Spec.NarrowAndFusedArithmetic : Prop :=
  Spec.MinorsRaiseIllegal 0x03 10 ∧ Spec.MinorsRaiseIllegal 0x05 6 ∧
  ∀ (s : State) (g : BitVec 3) (d a b : BitVec 5), s.readP g = true → s.Passes 4 →
    let x : BitVec 32 := (s.readS a).setWidth 32
    let y : BitVec 32 := (s.readS b).setWidth 32
    let k := (s.readS b).toNat % 32
    let w (v : BitVec 32) : Out := s.writesS d (BitVec.ofInt 64 v.toInt)
    exec (.addW g d a b) s = w (BitVec.ofInt 32 (x.toInt + y.toInt)) ∧
    exec (.subW g d a b) s = w (BitVec.ofInt 32 (x.toInt - y.toInt)) ∧
    exec (.mulW g d a b) s = w (BitVec.ofInt 32 (x.toInt * y.toInt)) ∧
    exec (.divW g d a b) s = w (BitVec.ofInt 32
      (if y = 0 then Spec.limitOf 32 x.toInt else Spec.sat 32 (x.toInt.tdiv y.toInt))) ∧
    exec (.divuW g d a b) s = w (if y = 0 then BitVec.allOnes 32 else x / y) ∧
    exec (.remW g d a b) s = w (if y = 0 then 0 else BitVec.ofInt 32 (x.toInt - x.toInt.tdiv y.toInt * y.toInt)) ∧
    exec (.remuW g d a b) s = w (if y = 0 then 0 else x % y) ∧
    exec (.shlW g d a b) s = w (BitVec.ofNat 32 (x.toNat * 2 ^ k)) ∧
    exec (.shrW g d a b) s = w (BitVec.ofNat 32 (x.toNat / 2 ^ k)) ∧
    exec (.sraW g d a b) s = w (BitVec.ofInt 32 (x.toInt / 2 ^ k)) ∧
    exec (.madd g d a b) s = s.writesS d (s.readS d + s.readS a * s.readS b) ∧
    exec (.msub g d a b) s = s.writesS d (s.readS d - s.readS a * s.readS b) ∧
    exec (.shadd1 g d a b) s = s.writesS d (s.readS a + s.readS b * 2) ∧
    exec (.shadd2 g d a b) s = s.writesS d (s.readS a + s.readS b * 4) ∧
    exec (.shadd3 g d a b) s = s.writesS d (s.readS a + s.readS b * 8) ∧
    exec (.shadd4 g d a b) s = s.writesS d (s.readS a + s.readS b * 16)

/-- Bit operations, 32-bit and fused arithmetic. (Spec.BitOperations, Spec.NarrowAndFusedArithmetic.) -/
def Obligations.BitAndNarrowWords : Prop := Spec.BitOperations ∧ Spec.NarrowAndFusedArithmetic

/-- R102: moves between the register files. After a move into a loop pair the end check runs on the pairs as the move
left them. -/
def Sys2Proof.Spec.MovesBetweenFiles : Prop :=
  Spec.MinorsRaiseIllegal 0x04 9 ∧
  ∀ (s : State) (g : BitVec 3) (d a : BitVec 5) (n : BitVec 2), s.readP g = true →
    (s.Passes 4 →
      exec (.rdi g d n) s = s.writesS d ((s.me.i[n.toNat]).setWidth 64) ∧
      exec (.rdlc g d n) s = s.writesS d ((s.me.lc[n.toNat]).setWidth 64) ∧
      exec (.rdlb g d n) s = s.writesS d (s.me.lb[n.toNat]) ∧
      (∃ r : Word, exec (.rdp g d) s = s.writesS d r ∧
        ∀ j : Nat, j < 64 → r.getLsbD j = (decide (j < 8) && s.readP (BitVec.ofNat 3 j))) ∧
      (∃ t : State, exec (.wrp g a) s = .next (t.nextWord 4) ∧
        (∀ k : BitVec 3, k ≠ 0#3 → t.readP k = (s.readS a).getLsbD k.toNat) ∧
        t = s.setMe { s.me with p := t.me.p }) ∧
      exec (.rdpc g d) s = s.writesS d s.me.pc) ∧
    (∀ t : State, t = s.setMe { s.me with i := s.me.i.set n.toNat ((s.readS a).setWidth 32) } → t.Passes 4 →
      exec (.wri g n a) s = .next (t.nextWord 4)) ∧
    (∀ t : State, t = s.setMe { s.me with lc := s.me.lc.set n.toNat ((s.readS a).setWidth 32) } → t.Passes 4 →
      exec (.wrlc g n a) s = .next (t.nextWord 4)) ∧
    (∀ t : State, t = s.setMe { s.me with
        lb := s.me.lb.set n.toNat ((0 : BitVec 7) ++ (s.readS a).extractLsb' 1 56 ++ (0 : BitVec 1)) } → t.Passes 4 →
      exec (.wrlb g n a) s = .next (t.nextWord 4))

/-- R104: the twelve conditions of `CMP`. -/
def Sys2Proof.Spec.cmp (c : CmpCc) (x y : Word) : Prop :=
  match c with
  | .eq => x = y
  | .ne => x ≠ y
  | .lt => x.toInt < y.toInt
  | .le => x.toInt ≤ y.toInt
  | .gt => y.toInt < x.toInt
  | .ge => y.toInt ≤ x.toInt
  | .ltu => x.toNat < y.toNat
  | .leu => x.toNat ≤ y.toNat
  | .gtu => y.toNat < x.toNat
  | .geu => y.toNat ≤ x.toNat
  | .tst => x &&& y ≠ 0
  | .tstn => x &&& y = 0

/-- R105: the conditions of `ICMPI` on exact integers. -/
def Sys2Proof.Spec.icmp (c : ICmpCc) (x y : Int) : Prop :=
  match c with
  | .eq => x = y
  | .ne => x ≠ y
  | .lt => x < y
  | .ge => y ≤ x

/-- R104 to R107: comparisons and predicate logic write P[d]; the selects write S[d]. -/
def Sys2Proof.Spec.PredicateWords : Prop :=
  Spec.MinorsRaiseIllegal 0x10 12 ∧ Spec.MinorsRaiseIllegal 0x11 8 ∧
  ∀ (s : State) (g : BitVec 3), s.readP g = true → s.Passes 4 →
    (∀ (d : BitVec 3) (a b : BitVec 5) (c : CmpCc), ∃ r : Bool,
      exec (.cmp g d a b c) s = s.writesP d r ∧ (r = true ↔ Spec.cmp c (s.readS a) (s.readS b))) ∧
    (∀ (d : BitVec 3) (n : BitVec 2) (c : ICmpCc) (i : BitVec 12), ∃ r : Bool,
      exec (.icmpi g n c i d) s = s.writesP d r ∧ (r = true ↔ Spec.icmp c (s.me.i[n.toNat]).toNat i.toInt)) ∧
    (∀ d a b : BitVec 3,
      exec (.pand g d a b) s = s.writesP d (s.readP a && s.readP b) ∧
      exec (.por g d a b) s = s.writesP d (s.readP a || s.readP b) ∧
      exec (.pxor g d a b) s = s.writesP d (s.readP a ^^ s.readP b) ∧
      exec (.pandn g d a b) s = s.writesP d (s.readP a && !s.readP b) ∧
      exec (.porn g d a b) s = s.writesP d (s.readP a || !s.readP b) ∧
      exec (.pnand g d a b) s = s.writesP d (!(s.readP a && s.readP b)) ∧
      exec (.pnor g d a b) s = s.writesP d (!(s.readP a || s.readP b)) ∧
      exec (.pxnor g d a b) s = s.writesP d (!(s.readP a ^^ s.readP b))) ∧
    (∀ (d a b : BitVec 5) (c : BitVec 3),
      exec (.sel g d a b c) s = s.writesS d (if s.readP c = true then s.readS a else s.readS b) ∧
      exec (.cset g d c) s = s.writesS d (if s.readP c = true then 1 else 0) ∧
      exec (.selz g d a c) s = s.writesS d (if s.readP c = true then s.readS a else 0))

/-- Moves between the scalar files, and the predicate words. (Spec.MovesBetweenFiles, Spec.PredicateWords.) -/
def Obligations.MovesAndPredicateWords : Prop := Spec.MovesBetweenFiles ∧ Spec.PredicateWords

/-- The FP32 value in the low half of a scalar register, and a result code as a register value (R108). -/
def Sys2Proof.Spec.fp (w : Word) : Val := Fmt.fp32.value (w.toNat % 2 ^ 32)
def Sys2Proof.Spec.fpWord (c : Nat) : Word := BitVec.ofNat 64 (c % 2 ^ 32)

/-- R108 to R111: scalar FP32. The rounded words round once, in the mode of the word; under `.RS` the key is
SRSEED with the low byte of `X0` added on top by exclusive or, and the counter is 0. -/
def Obligations.ScalarFloatingPoint : Prop :=
  ∀ (s : State) (g : BitVec 3) (d a b : BitVec 5) (m : RMode), s.readP g = true → s.Passes 4 →
    let r : Rnd := ⟨m, s.me.srseed ^^^ BitVec.ofNat 64 (s.me.x[0].toNat % 256 * 2 ^ 56)⟩
    let x := s.readS a
    let y := s.readS b
    exec (.fadd g d a b m) s = s.writesS d (Spec.fpWord (Fmt.fp32.sum r 0 [Spec.fp x, Spec.fp y])) ∧
    exec (.fsub g d a b m) s = s.writesS d (Spec.fpWord (Fmt.fp32.sum r 0 [Spec.fp x, (Spec.fp y).neg])) ∧
    exec (.fmul g d a b m) s = s.writesS d (Spec.fpWord (Fmt.fp32.ofVal r 0 ((Spec.fp x).mul (Spec.fp y)))) ∧
    exec (.fdiv g d a b m) s = s.writesS d (Spec.fpWord (Fmt.fp32.div r 0 (Spec.fp x) (Spec.fp y))) ∧
    exec (.fma g d a b m) s = s.writesS d
      (Spec.fpWord (Fmt.fp32.sum r 0 [Spec.fp (s.readS d), (Spec.fp x).mul (Spec.fp y)])) ∧
    exec (.fms g d a b m) s = s.writesS d
      (Spec.fpWord (Fmt.fp32.sum r 0 [Spec.fp (s.readS d), ((Spec.fp x).mul (Spec.fp y)).neg])) ∧
    exec (.fsqrt g d a m) s = s.writesS d (Spec.fpWord (Fmt.fp32.sqrt r 0 (Spec.fp x))) ∧
    exec (.fcvtIF g d a m) s = s.writesS d (BitVec.ofInt 64 ((Spec.fp x).toInt r 0 (-(2 ^ 63)) (2 ^ 63 - 1))) ∧
    exec (.fcvtUF g d a m) s = s.writesS d (BitVec.ofInt 64 ((Spec.fp x).toInt r 0 0 (2 ^ 64 - 1))) ∧
    exec (.fcvtFI g d a m) s = s.writesS d (Spec.fpWord (Fmt.fp32.ofInt r 0 x.toInt)) ∧
    exec (.fcvtFU g d a m) s = s.writesS d (Spec.fpWord (Fmt.fp32.ofInt r 0 x.toNat)) ∧
    exec (.fmin g d a b) s = s.writesS d (Spec.fpWord (Fmt.fp32.pick true (x.toNat % 2 ^ 32) (y.toNat % 2 ^ 32))) ∧
    exec (.fmax g d a b) s = s.writesS d (Spec.fpWord (Fmt.fp32.pick false (x.toNat % 2 ^ 32) (y.toNat % 2 ^ 32))) ∧
    (∃ v : Word, exec (.fneg g d a) s = s.writesS d v ∧
      ∀ j : Nat, j < 64 → v.getLsbD j = (decide (j < 32) && (x.getLsbD j ^^ decide (j = 31)))) ∧
    (∃ v : Word, exec (.fabs g d a) s = s.writesS d v ∧
      ∀ j : Nat, j < 64 → v.getLsbD j = (decide (j < 31) && x.getLsbD j)) ∧
    (∃ v : Word, exec (.fcpys g d a b) s = s.writesS d v ∧
      ∀ j : Nat, j < 64 → v.getLsbD j = (decide (j < 32) && if j = 31 then y.getLsbD 31 else x.getLsbD j)) ∧
    exec (.fclass g d a) s = s.writesS d (BitVec.ofNat 64 (Fmt.fp32.classWord (x.toNat % 2 ^ 32))) ∧
    (∀ (e : BitVec 3) (c : FCmpCc), ∃ h : Bool, exec (.fcmp g e a b c) s = s.writesP e h ∧
      (h = true ↔ match c with
        | .eq => (Spec.fp x).cmp (Spec.fp y) = some .eq
        | .lt => (Spec.fp x).cmp (Spec.fp y) = some .lt
        | .le => (Spec.fp x).cmp (Spec.fp y) = some .lt ∨ (Spec.fp x).cmp (Spec.fp y) = some .eq
        | .un => (Spec.fp x).cmp (Spec.fp y) = none
        | .ne => (Spec.fp x).cmp (Spec.fp y) ≠ some .eq))

/-- R77: a number that a format represents rounds to itself, in every mode and under every draw: the value of a finite
FP32, FP16, BF16, E4M3 or E5M2 code encodes as that code. -/
def Obligations.RepresentableValuesRoundToThemselves : Prop :=
  ∀ (f : Fmt), f ∈ [Fmt.fp32, Fmt.fp16, Fmt.bf16, Fmt.e4m3, Fmt.e5m2] → ∀ (r : Rnd) (ctr c : Nat), c < 2 ^ f.bits →
    (∃ neg m e, f.value c = .fin neg m e) → f.ofVal r ctr (f.value c) = c

/-- R35, R38, R112 to R114: a transfer whose condition holds goes to its target, with the end check left out; `CALL`
forms write the return address; a false condition falls through and changes nothing. The target of `JR` and `CALLR`
is the value S[a] had before the word. -/
def Sys2Proof.Spec.TransfersGoToTheirTarget : Prop :=
  ∀ (s : State), s.me.step = false →
    let own := s.me.pc
    let ok (t : Word) : Prop := t.getLsbD 0 = false ∧ t.toNat < 2 ^ 48
    (∀ b : BitVec 5, ok (s.readS b) → exec (.batJr b) s = .next (s.goTo (s.readS b))) ∧
    (∀ o : BitVec 10, ok (own + BitVec.ofInt 64 (2 * o.toInt)) →
      exec (.batB o) s = .next (s.goTo (own + BitVec.ofInt 64 (2 * o.toInt))) ∧
      exec (.batCall o) s = .next ((s.writeS 31#5 (own + 2)).goTo (own + BitVec.ofInt 64 (2 * o.toInt)))) ∧
    (∀ (g : BitVec 3) (n : BitVec 1) (o : BitVec 16) (a : BitVec 5),
      let cond : Prop := (n = 0#1 ∧ s.readP g = true) ∨ (n = 1#1 ∧ s.readP g = false)
      (cond → ok (own + BitVec.ofInt 64 (2 * o.toInt)) →
        exec (.bL g o n) s = .next (s.goTo (own + BitVec.ofInt 64 (2 * o.toInt))) ∧
        exec (.callL g o n) s = .next ((s.writeS 31#5 (own + 4)).goTo (own + BitVec.ofInt 64 (2 * o.toInt)))) ∧
      (cond → ok (s.readS a) →
        exec (.jrL g a n) s = .next (s.goTo (s.readS a)) ∧
        exec (.callr g a n) s = .next ((s.writeS 31#5 (own + 4)).goTo (s.readS a))) ∧
      (¬ cond → s.Passes 4 →
        exec (.bL g o n) s = .next (s.nextWord 4) ∧ exec (.callL g o n) s = .next (s.nextWord 4) ∧
        exec (.jrL g a n) s = .next (s.nextWord 4) ∧ exec (.callr g a n) s = .next (s.nextWord 4)))

/-- The outcome of a taken transfer to a bad target: to an odd one ALIGN, to another at or above 2⁴⁸ PAGE, each with the target as
fault address and nothing else done. -/
def Sys2Proof.Spec.BadTarget (s : State) (target : Word) (o : Out) : Prop :=
  (target.getLsbD 0 = true → o = .next (s.raise .align target)) ∧
  (target.getLsbD 0 = false → 2 ^ 48 ≤ target.toNat → o = .next (s.raise .page target))

/-- R35: a taken transfer to an odd address raises ALIGN at the word, and one to an address at or above 2⁴⁸ raises PAGE,
with the target as fault address and no register written by the word: every form, by register or offset, guarded or not. -/
def Sys2Proof.Spec.BadTargetsTrapAtTheTransfer : Prop :=
  ∀ (s : State) (a : BitVec 5),
    let dest := s.readS a
    let by' (o : Int) : Word := s.me.pc + BitVec.ofInt 64 (2 * o)
    Spec.BadTarget s dest (exec (.batJr a) s) ∧
    (∀ o : BitVec 10, Spec.BadTarget s (by' o.toInt) (exec (.batB o) s) ∧
      Spec.BadTarget s (by' o.toInt) (exec (.batCall o) s)) ∧
    (∀ (g : BitVec 3) (n : BitVec 1) (o : BitVec 16),
      (n = 0#1 ∧ s.readP g = true) ∨ (n = 1#1 ∧ s.readP g = false) →
      Spec.BadTarget s (by' o.toInt) (exec (.bL g o n) s) ∧ Spec.BadTarget s (by' o.toInt) (exec (.callL g o n) s) ∧
      Spec.BadTarget s dest (exec (.jrL g a n) s) ∧ Spec.BadTarget s dest (exec (.callr g a n) s))

/-- Branches, calls and jumps. (Spec.TransfersGoToTheirTarget, Spec.BadTargetsTrapAtTheTransfer.) -/
def Obligations.TransfersOfControl : Prop := Spec.TransfersGoToTheirTarget ∧ Spec.BadTargetsTrapAtTheTransfer

/-! ## Loops, prefixed pairs, guards (chapters 02 and 04) -/

/-- The stream with one iteration of pair `n` counted: the index goes up and the count down (R116). -/
def Sys2Proof.Spec.counted (t : Stream) (n : BitVec 2) : Stream :=
  { t with i := t.i.set n.toNat (t.i[n.toNat] + 1), lc := t.lc.set n.toNat (t.lc[n.toNat] - 1) }

/-- R92: the first address of the body of pair `n`, and its end. -/
def Sys2Proof.Spec.bodyStart (t : Stream) (n : BitVec 2) : Word := BitVec.ofNat 64 (t.lb[n.toNat].toNat % 2 ^ 48)
def Sys2Proof.Spec.bodyEnd (t : Stream) (n : BitVec 2) : Word :=
  Spec.bodyStart t n + BitVec.ofNat 64 (2 * (t.lb[n.toNat].toNat / 2 ^ 48 % 512))
/-- Pair `n` is active, has a body, and ends at the address. -/
def Sys2Proof.Spec.ends (t : Stream) (n : BitVec 2) (a : Word) : Prop :=
  t.lc[n.toNat] ≠ 0 ∧ t.lb[n.toNat].toNat / 2 ^ 48 % 512 ≠ 0 ∧ a = Spec.bodyEnd t n

/-- R116: the end check. Where no active pair ends at the address, nothing changes. Otherwise the highest such pair counts
an iteration; with iterations left, control goes to its start and no lower pair is looked at; with none left, the check
goes on with the lower pairs. -/
def Sys2Proof.Spec.EndCheckIterates : Prop :=
  ∀ (t : Stream) (a : Word),
    ((∀ n, ¬ Spec.ends t n a) → t.endCheck a = (t, a)) ∧
    (∀ n, Spec.ends t n a → (∀ m : BitVec 2, n < m → ¬ Spec.ends t m a) →
      (t.lc[n.toNat] ≠ 1 → t.endCheck a = (Spec.counted t n, Spec.bodyStart t n)) ∧
      (t.lc[n.toNat] = 1 → t.endCheck a = (Spec.counted t n).endCheck a))

/-- A word of `len` bytes of state `s` whose effect leads to `t` reaches the end of an active pair, of no higher one: with iterations
left, control goes to the start of its body; with none left and no lower pair ending there, to the word behind it. -/
def Sys2Proof.Spec.LoopsBack (s t : State) (len : Nat) (o : Out) : Prop :=
  let a := s.me.pc + BitVec.ofNat 64 len
  ∀ n : BitVec 2, Spec.ends t.me n a → (∀ m : BitVec 2, n < m → ¬ Spec.ends t.me m a) → t.me.step = false →
    (t.me.lc[n.toNat] ≠ 1 → o = .next ((t.setMe (Spec.counted t.me n)).goTo (Spec.bodyStart t.me n))) ∧
    (t.me.lc[n.toNat] = 1 → (∀ m : BitVec 2, m < n → ¬ Spec.ends t.me m a) → a.toNat < 2 ^ 48 →
      o = .next ((t.setMe (Spec.counted t.me n)).goTo a))

/-- R116: the words that run to the end of an active pair loop back to its start, or leave it: bats, immediate words, words
that their guard switches off. -/
def Sys2Proof.Spec.WordsLoopBack : Prop :=
  ∀ (s : State) (g : BitVec 3) (a b : BitVec 5) (i : BitVec 12),
    Spec.LoopsBack s (s.writeS a (s.readS b)) 2 (exec (.batMov a b) s) ∧
    Spec.LoopsBack s (s.writeS a (s.readS a + s.readS b)) 2 (exec (.batAdd a b) s) ∧
    (s.readP g = true →
      Spec.LoopsBack s (s.writeS a (BitVec.ofInt 64 i.toInt)) 4 (exec (.movi g i a) s) ∧
      Spec.LoopsBack s (s.writeS a (s.readS a + s.readS b)) 4 (exec (.add g a a b) s)) ∧
    (s.readP g = false → Spec.LoopsBack s s 4 (exec (.movi g i a) s) ∧ Spec.LoopsBack s s 4 (exec (.add g a a b) s))

/-- The end check, and the words that reach the end of a body. (Spec.EndCheckIterates, Spec.WordsLoopBack.) -/
def Obligations.EndCheckCountsIterations : Prop := Spec.EndCheckIterates ∧ Spec.WordsLoopBack

/-- R118, R200, R209: with the single-step bit set, a word that has taken effect raises STEP where it would have gone on, with its
own address as fault address: sequential words and transfers. -/
def Sys2Proof.Spec.StepFollowsTheWord : Prop :=
  ∀ (s : State) (g : BitVec 3) (a b : BitVec 5) (i : BitVec 12), s.me.step = true →
    let stepped (t : State) (next : Word) : Out := .next ((t.goTo next).raiseAt s.cur .step next s.me.pc)
    let on (t : State) (len : Nat) (o : Out) : Prop :=
      let next := s.me.pc + BitVec.ofNat 64 len
      (∀ n, ¬ Spec.ends t.me n next) → next.toNat < 2 ^ 48 → o = stepped t next
    on (s.writeS a (s.readS b)) 2 (exec (.batMov a b) s) ∧
    (s.readP g = true → on (s.writeS a (BitVec.ofInt 64 i.toInt)) 4 (exec (.movi g i a) s)) ∧
    (s.readP g = false → on s 4 (exec (.movi g i a) s)) ∧
    ((s.readS b).getLsbD 0 = false → (s.readS b).toNat < 2 ^ 48 →
      exec (.batJr b) s = stepped s (s.readS b) ∧
      (s.readP g = true → exec (.callr g b 0) s = stepped (s.writeS 31#5 (s.me.pc + 4)) (s.readS b)))

/-- R115: `LOOP` sets up its pair and enters the body, or passes to the pair's end where the count is 0; `LEXIT` ends an
active pair and passes to its end, and does nothing to an inactive one. -/
def Obligations.LoopAndLexit : Prop :=
  ∀ (s : State) (n : BitVec 2) (a : BitVec 5) (l : BitVec 9),
    (∀ t : State, t = s.setMe { s.me with
        lb := s.me.lb.set n.toNat (BitVec.ofNat 64 (l.toNat * 2 ^ 48 + (s.me.pc + 4).toNat % 2 ^ 48))
        lc := s.me.lc.set n.toNat ((s.readS a).setWidth 32)
        i := s.me.i.set n.toNat 0 } →
      ((s.readS a).setWidth 32 ≠ (0 : BitVec 32) → t.Passes 4 → exec (.loop n a l) s = .next (t.nextWord 4)) ∧
      ((s.readS a).setWidth 32 = (0 : BitVec 32) → t.me.PassesTo (Spec.bodyEnd t.me n) →
        exec (.loop n a l) s = .next (t.goTo (Spec.bodyEnd t.me n)))) ∧
    (∀ t : State, t = s.setMe { s.me with lc := s.me.lc.set n.toNat 0 } →
      s.me.lc[n.toNat] ≠ 0 → t.me.PassesTo (Spec.bodyEnd s.me n) →
        exec (.lexit n) s = .next (t.goTo (Spec.bodyEnd s.me n))) ∧
    (s.me.lc[n.toNat] = 0 → s.Passes 4 → exec (.lexit n) s = .next (s.nextWord 4))

/-- The reads of the running stream's word in the given ranges may be made, in state `u`: no sibling holds a page of them, every
older store that overlaps them has performed without stopping the stream, the range slots have counted them, and no regulator
holds the walks and the fills that they start. -/
def Sys2Proof.Spec.MayRead (s : State) (via : Via) (ranges pieces : List (Nat × Nat × Nat)) (u : State) : Prop :=
  ranges.any (s.rangeHeld s.cur) = false ∧
    ∃ v, s.drainFor ranges = (v, true) ∧ v.me.faultMark = s.me.faultMark ∧ u = v.startReads via pieces ∧ u.heldBack u.cur = false

/-- After its reads, in state `t`, the word of `len` bytes of state `s` goes on: its stream has not stopped, and it passes to the
word behind it. -/
def Sys2Proof.Spec.GoesOn (s t : State) (len : Nat) : Prop :=
  t.me.faultMark = s.me.faultMark ∧ t.me.pc = s.me.pc ∧ t.Passes len

/-- A scalar read of `n` bytes at `ea` finds its bytes `l` at `place`: the checks of R223 pass, the read may be made, and it
answers; `t` is the state with the line it filled. -/
def Sys2Proof.Spec.Reads (s : State) (via : Via) (n : Nat) (ea : Word) (place : Nat) (t : State) (l : List Byte) : Prop :=
  s.checkScalar ea { size := n, acc := .load, window := true, via := some via } = .ok place ∧ ∃ u,
    Spec.MayRead s via [s.rangeOf ea place n] [(ea.toNat % 2 ^ 48, place, n)] u ∧
    u.readPiece u.myCore u.myCtxId via (ea.toNat % 2 ^ 48) place n = (t, .ok l) ∧ l.length = n

/-- The running word waits for the link to the other die (R13, R336). -/
def Sys2Proof.Spec.WaitsForLink (s : State) (o : Out) : Prop := ∃ since rows a, o = .next (s.holdFor (.link since rows a))

/-- The running stream is at a prefix with payload `p`, `q`, the brick `ps` follows, no trap rule of R47 applies, and the
registers that the second word reads are at hand; `t` is the state after its fetch. -/
def Sys2Proof.Spec.PairAt (s : State) (ps : List (BitVec 16)) (t : State) : Prop :=
  s.fetchWord (s.me.pc + 4) = (t, .ok ps) ∧ t.me.pc = s.me.pc ∧
  (∀ n, t.me.endsAt n (s.me.pc + 4) = false) ∧ (∀ n, t.me.endsAt n (s.me.pc + 6) = false) ∧
  (t.breakpointAt (s.me.pc + 4)) = none ∧ t.me.pending = [] ∧ t.Passes 8

/-- R44, R46: `IMX` and the RI or M brick behind it run as one instruction of eight bytes, whose immediate is the
sign-extended concatenation of payload and imm12. -/
def Sys2Proof.Spec.PrefixedPairRunsAsOne : Prop :=
  ∀ (s t : State) (p : BitVec 4) (q : BitVec 16) (g : BitVec 3) (i : BitVec 12) (d : BitVec 5),
    t.readP g = true →
    let imm : Word := (p ++ q ++ i).signExtend 64
    let w (v : Word) : Out := .next ((t.writeS d v).nextWord 8).clearSkip
    (Spec.PairAt s (encode (.movi g i d)) t → exec (.imx p q) s = w imm) ∧
    (Spec.PairAt s (encode (.addi g i d)) t → exec (.imx p q) s = w (t.readS d + imm)) ∧
    (Spec.PairAt s (encode (.andi g i d)) t → exec (.imx p q) s = w (t.readS d &&& imm)) ∧
    (Spec.PairAt s (encode (.ori g i d)) t → exec (.imx p q) s = w (t.readS d ||| imm)) ∧
    (Spec.PairAt s (encode (.xori g i d)) t → exec (.imx p q) s = w (t.readS d ^^^ imm)) ∧
    (Spec.PairAt s (encode (.muli g i d)) t → exec (.imx p q) s = w (t.readS d * imm)) ∧
    (Spec.PairAt s (encode (.movh g i d)) t →
      exec (.imx p q) s = w (imm.setWidth 32 ++ (t.readS d).setWidth 32)) ∧
    (∀ b : BitVec 4, Spec.PairAt s (encode (.ldD g b i d)) t → ∀ (u : State) (place : Nat) (l : List Byte),
      Spec.Reads t .l1 8 (t.readS (if b = 0 then 0 else BitVec.ofNat 5 (16 + b.toNat)) + imm) place u l → Spec.GoesOn t u 8 →
      exec (.imx p q) s = .next ((u.writeS d (BitVec.ofNat 64 (leNat l))).nextWord 8).clearSkip)

/-- R47: a bat, or another prefix, behind a prefix raises PREFIX_MISUSE at the prefix, with the address of the following
word as fault address. -/
def Sys2Proof.Spec.PrefixMisuse : Prop :=
  ∀ (s t : State) (p : BitVec 4) (q : BitVec 16),
    (∀ w : BitVec 16, s.fetchWord (s.me.pc + 4) = (t, .ok [w]) →
      exec (.imx p q) s = .next (t.raise .prefixMisuse (s.me.pc + 4)).clearSkip) ∧
    (∀ (p' : BitVec 4) (q' : BitVec 16), s.fetchWord (s.me.pc + 4) = (t, .ok (encode (.imx p' q'))) → t.me.pc = s.me.pc →
      exec (.imx p q) s = .next (t.raise .prefixMisuse (s.me.pc + 4)).clearSkip)

/-- Pairs that IMX begins. (Spec.PrefixedPairRunsAsOne, Spec.PrefixMisuse.) Where two rows of the table of R47 fit, the
order is the model's choice (log 70). -/
def Obligations.PairsWithAnImmediate : Prop := Spec.PrefixedPairRunsAsOne ∧ Spec.PrefixMisuse

/-- The level that a word needs (R207, R302): supervisor level, user level, or either. -/
def Sys2Proof.Spec.levelFits (s : State) : Instr → Prop
  | .eret | .eretStep | .rdus _ _ _ | .wrus _ _ _ => s.me.level = true
  | .sysr _ r _ | .sysw _ r _ | .sysx _ r _ =>
    match r with
    | .mesh | .epc | .ecause | .eaddr | .trapbase | .bp _ => s.me.level = true
    | _ => True
  | .taskNext _ | .taskDone _ | .taskYield _ _ => s.me.level = false
  | _ => True

/-- R41: a brick whose guard is false changes nothing but the next fetch address. The guard stands in bits 7 to 5 of the
first parcel; the prefix has none, and in the branch majors 0x18 and 0x19 it is the branch condition. -/
def Obligations.FalseGuardHasNoEffect : Prop :=
  ∀ (s : State) (i : Instr) (p0 p1 : BitVec 16), encode i = [p0, p1] →
    majorOf p0 ≠ 0x18 → majorOf p0 ≠ 0x19 → majorOf p0 ≠ 0x7F → Spec.levelFits s i →
    s.readP (p0.extractLsb' 5 3) = false → s.Passes 4 → exec i s = .next (s.nextWord 4)

/-- R207: at user level a supervisor-only word raises PRIV, whatever its guard; and a word for user level only raises it
at supervisor level. -/
def Obligations.PrivilegedWordsRaisePriv : Prop :=
  ∀ (s : State) (g : BitVec 3) (d a : BitVec 5) (k : BitVec 1) (r : SysReg),
    (s.me.level = false →
      exec .eret s = .next (s.raise .priv 0) ∧ exec .eretStep s = .next (s.raise .priv 0) ∧
      exec (.rdus g d k) s = .next (s.raise .priv 0) ∧ exec (.wrus g k a) s = .next (s.raise .priv 0) ∧
      (r ∈ [.mesh, .epc, .ecause, .eaddr, .trapbase] ∨ (∃ n, r = .bp n) →
        exec (.sysr g r d) s = .next (s.raise .priv 0) ∧ exec (.sysw g r d) s = .next (s.raise .priv 0) ∧
        exec (.sysx g r d) s = .next (s.raise .priv 0))) ∧
    (s.me.level = true →
      exec (.taskNext g) s = .next (s.raise .priv 0) ∧ exec (.taskDone g) s = .next (s.raise .priv 0) ∧
      exec (.taskYield g a) s = .next (s.raise .priv 0))

/-! ## Traps and system registers (chapters 05 and 08) -/

/-- R203: a cause at user level other than UNCORR and FREEZE enters the handler: `SYS.EPC` takes bits 47 to 1 of the
restart address, `SYS.ECAUSE` the code, `SYS.EADDR` the fault address; the level rises, single step ends, the event's
pending bit is cleared, where no further host value is held, and the next fetch is at `SYS.TRAPBASE` + 64 · code. The
partition of the TRB is empty. The registers, the task, the groups, the store queue, the copies and the memory stay. -/
def Sys2Proof.Spec.TrapEntersHandler : Prop :=
  ∀ (s : State) (q : Nat) (c : Cause) (epc ea : Word),
    c ≠ .uncorr → c ≠ .freeze → (s.stream q).level = false →
    let t := s.stream q
    let u := (s.raiseAt q c epc ea).stream q
    u.epc = epc &&& 0x0000FFFFFFFFFFFE#64 ∧ u.ecause.toNat = c.code ∧ u.eaddr = ea ∧ u.level = true ∧
    u.step = false ∧ u.run = .ready ∧ u.pc = t.trapbase + BitVec.ofNat 64 (64 * c.code) ∧ u.faultMark = t.faultMark ∧
    u.s = t.s ∧ u.p = t.p ∧ u.i = t.i ∧ u.lc = t.lc ∧ u.lb = t.lb ∧ u.h = t.h ∧ u.x = t.x ∧ u.v = t.v ∧ u.t = t.t ∧
    u.c = t.c ∧ u.k = t.k ∧ u.sb28 = t.sb28 ∧ u.sb29 = t.sb29 ∧ u.bp = t.bp ∧ u.trapbase = t.trapbase ∧
    u.srseed = t.srseed ∧ u.tdead = t.tdead ∧ u.task = t.task ∧ u.groups = t.groups ∧ u.storeQ = t.storeQ ∧ u.trb = [] ∧
    (let gone : BitVec 5 := match c with
        | .cancelled => 16
        | .groupBroken => 8
        | .hostIrq => 4
        | .timer => 2
        | .migrate => 1
        | _ => 0
     (c ≠ .hostIrq ∨ t.hostQueue = [] → u.pend = t.pend &&& ~~~gone) ∧
     ∀ v l, c = .hostIrq → t.hostQueue = v :: l → u.pend = t.pend ||| 4#5 ∧ u.hval = v ∧ u.hostQueue = l) ∧
    (s.raiseAt q c epc ea).cores = s.cores ∧ (s.raiseAt q c epc ea).cells = s.cells

/-- R200: the nineteen causes and their codes 0 to 18; no two share one. -/
def Sys2Proof.Spec.CauseCodesAreDistinct : Prop :=
  ([.illegal, .prefixMisuse, .priv, .align, .page, .prot, .format, .nonfinite, .waitLimit, .brk, .step, .cancelled, .groupBroken,
    .copyFault, .migrate, .uncorr, .freeze, .timer, .hostIrq] : List Cause).map Cause.code = List.range 19 ∧
  (∀ c : Cause, c.code ≤ 18) ∧ (∀ c c' : Cause, c.code = c'.code → c = c')

/-- Taking an exception, and the codes of its causes. (Spec.TrapEntersHandler, Spec.CauseCodesAreDistinct.) -/
def Obligations.TakingAnException : Prop := Spec.TrapEntersHandler ∧ Spec.CauseCodesAreDistinct

/-- R204, R214: a cause at supervisor level, or UNCORR or FREEZE at any, stops the stream: it is idle with its fault mark
set, has no task, and a fault record with the double-trap flag goes to its context's fault queue. -/
def Obligations.StopMarksTheStream : Prop :=
  ∀ (s : State) (q : Nat) (c : Cause) (epc ea : Word) (x j : Nat),
    ((s.stream q).level = true ∨ c = .uncorr ∨ c = .freeze) → (s.stream q).groups = [] →
    s.ownerOf (q / 4) = some (x, j) →
    let t := s.raiseAt q c epc ea
    (t.stream q).run = .idle ∧ (t.stream q).faultMark = true ∧ (t.stream q).task = none ∧
    (t.ctx x).faults = (s.ctx x).faults ++
      [⟨x, j, q % 4, c, epc &&& 0x0000FFFFFFFFFFFE#64, ea, decide (c ≠ .uncorr ∧ c ≠ .freeze)⟩]

/-- R208: `ERET` and `ERET.STEP` return to `SYS.EPC` at user level, with the skip bit set; the second sets the
single-step bit and the first clears it. Nothing else of the stream changes. -/
def Sys2Proof.Spec.EretReturnsToTheSavedAddress : Prop :=
  ∀ s : State, s.me.level = true →
    exec .eret s = .next (s.setMe { s.me with level := false, skip := true, step := false, pc := s.me.epc, run := .ready }) ∧
    exec .eretStep s = .next (s.setMe { s.me with level := false, skip := true, step := true, pc := s.me.epc, run := .ready })

/-- R208: `BRK` raises BREAK with its constant as fault address; `RDUS` and `WRUS` reach the user registers S28 and S29;
`RDTIME` reads the die time, or the die time with `SYS.TXOFS` added. -/
def Sys2Proof.Spec.TrapWords : Prop :=
  ∀ (s : State) (g : BitVec 3), s.readP g = true →
    (∀ k : BitVec 6, exec (.brk g k) s = .next (s.raise .brk (BitVec.ofNat 64 k.toNat))) ∧
    (s.Passes 4 →
      (∀ (d : BitVec 5) (k : BitVec 1), s.me.level = true →
        s.me.pending.any (fun e => e.reg == 28 + k.toNat) = false →
        exec (.rdus g d k) s = s.writesS d (if k = 0 then s.me.s[28] else s.me.s[29])) ∧
      (∀ (k : BitVec 1) (a : BitVec 5), s.me.level = true →
        ∃ t : State, exec (.wrus g k a) s = .next (t.nextWord 4) ∧ t.me.level = true ∧
          t = s.setMe { s.me with s := t.me.s, pending := s.me.pending.filter fun e => e.reg ≠ 28 + k.toNat } ∧
          ∀ j : Fin 32, t.me.s[j] = if j.val = 28 + k.toNat then s.readS a else s.me.s[j]) ∧
      (∀ d : BitVec 5,
        exec (.rdtime g d 0) s = s.writesS d (BitVec.ofNat 64 ((s.die s.myDie).time.toNat / 2 ^ 40)) ∧
        exec (.rdtime g d 1) s = s.writesS d
          (BitVec.ofNat 64 ((s.die s.myDie).time.toNat / 2 ^ 40) + (s.die s.myDie).txofs)))

/-- The return from an exception, and the words that trap. (Spec.EretReturnsToTheSavedAddress, Spec.TrapWords, Spec.StepFollowsTheWord.) -/
def Obligations.ReturnAndTrapWords : Prop := Spec.EretReturnsToTheSavedAddress ∧ Spec.TrapWords ∧ Spec.StepFollowsTheWord

/-- R128 to R130, R210, R409, R410: `SYSR` reads a system register, `SYSW` writes one and `SYSX` exchanges one with S[d],
at a level that may reach it: what each register keeps of a written value; a cause code above 18, or a register that
takes no write, raises ILLEGAL; a deadline that has passed fires at once. -/
def Obligations.SystemRegisterWords : Prop :=
  ∀ (s : State) (g : BitVec 3) (d : BitVec 5), s.readP g = true → s.Passes 4 →
    let fits (r : SysReg) : Prop := Spec.levelFits s (.sysr g r d)
    let v := s.readS d
    let now := s.now s.myDie
    (∀ r : SysReg, fits r → exec (.sysr g r d) s = s.writesS d (s.sysRead r)) ∧
    s.sysRead .gen = 2 ∧ s.sysRead .srseed = s.me.srseed ∧ s.sysRead .nftrap = BitVec.ofNat 64 s.me.nftrap.toNat ∧
    s.sysRead .fewait = BitVec.ofNat 64 s.me.fewait.toNat ∧ s.sysRead .epc = s.me.epc ∧
    s.sysRead .ecause = BitVec.ofNat 64 s.me.ecause.toNat ∧ s.sysRead .eaddr = s.me.eaddr ∧
    s.sysRead .trapbase = s.me.trapbase ∧ s.sysRead .tdead = s.me.tdead ∧
    s.sysRead .txofs = (s.die s.myDie).txofs ∧
    (∀ n : BitVec 3, s.sysRead (.bp n) = s.me.bp[n.toNat]) ∧
    (∀ (r : SysReg) (u : Stream), fits r →
      (match r with
        | .srseed => u = { s.me with srseed := v }
        | .nftrap => u = { s.me with nftrap := v.getLsbD 0 }
        | .fewait => u = { s.me with fewait := v.setWidth 32 }
        | .epc => u = { s.me with epc := v &&& 0x0000FFFFFFFFFFFE#64 }
        | .ecause => v.toNat % 64 ≤ 18 ∧ u = { s.me with ecause := v.setWidth 6 }
        | .eaddr => u = { s.me with eaddr := v }
        | .trapbase => u = { s.me with trapbase := v &&& 0x0000FFFFFFFFF000#64 }
        | .bp n => u = { s.me with bp := s.me.bp.set n.toNat (v &&& 0x0000FFFFFFFFFFFF#64) }
        | .tdead => (v = 0 ∨ now < v.toNat → u = { s.me with tdead := v }) ∧
            (v ≠ 0 → v.toNat ≤ now → u = { s.me with tdead := 0, pend := s.me.pend ||| 2#5 })
        | _ => False) →
      exec (.sysw g r d) s = .next ((s.setMe u).nextWord 4) ∧
      exec (.sysx g r d) s = .next (((s.setMe u).writeS d (s.sysRead r)).nextWord 4)) ∧
    (∀ r : SysReg, fits r → r ∈ [.gen, .pitch, .mesh, .status, .trate, .txofs] ∨ (r = .ecause ∧ 18 < v.toNat % 64) →
      exec (.sysw g r d) s = .next (s.raise .illegal 0) ∧
      exec (.sysx g r d) s = .next (s.raise .illegal 0))
/-! ## Reset, decode and the step -/

/-- R7, R19, R90 to R92, R119, R126, R129, R136, R159, R162, R199, R254, R393: what a cold reset leaves in every stream: idle, at
user level, no fault mark, and each register at its Reset column: 0, but for the scale codes of the tiles, which are 0x7F, and the
sorted bit of the codebooks, which is 1. No context is resident and every agent holds nothing. -/
def Obligations.ResetLeavesStreamsIdle : Prop :=
  ∀ q : Nat, let t := State.reset.stream q
    t.run = .idle ∧ t.level = false ∧ t.step = false ∧ t.skip = false ∧ t.faultMark = false ∧ t.pend = 0 ∧
    (∀ n, t.readS n = 0) ∧ (∀ n, t.readP n = decide (n = 0)) ∧
    (∀ n : Fin 4, t.i[n] = 0 ∧ t.lc[n] = 0 ∧ t.lb[n] = 0) ∧
    t.srseed = 0 ∧ t.nftrap = false ∧ t.fewait = 0 ∧ t.epc = 0 ∧ t.ecause = 0 ∧ t.eaddr = 0 ∧ t.trapbase = 0 ∧
    t.tdead = 0 ∧ (∀ n : Fin 8, t.bp[n] = 0) ∧ t.sb28 = 0 ∧ t.sb29 = 0 ∧ t.task = none ∧ t.groups = [] ∧
    t.hval = 0 ∧ t.hostQueue = [] ∧ (∀ n : Fin 8, t.x[n] = 0) ∧
    (∀ n : Fin 16, t.h[n] = 0 ∧ t.v[n] = 0 ∧ t.t[n].rows = 0 ∧
      ∀ r, r < 256 → t.t[n].scales.extractLsb' (8 * r) 8 = 0x7F#8) ∧
    (∀ n : Fin 4, t.c[n] = 0 ∧ t.k[n].entries = 0 ∧ t.k[n].sorted = true ∧
      t.m[n].line = 0 ∧ t.m[n].armed = false ∧ t.m[n].fired = false) ∧
    (∀ n : Fin 8, t.n[n].bound = false ∧ t.n[n].space = false ∧ t.n[n].count = 0 ∧ t.n[n].length = 0 ∧ t.n[n].base = 0) ∧
    t.trb = [] ∧ t.storeQ = [] ∧
    State.reset.ctx? q = none ∧ (State.reset.core q).owner = none ∧ (State.reset.die q).heap = []

/-- Words that the spec writes out decode to the instructions it names. -/
def Obligations.WrittenWordsDecode : Prop :=
  decode [0x0867] = .ok (.batAdd 3 7, []) ∧
  decode [0xFF10, 0x2345] = .ok (.imx 1 0x2345, []) ∧
  decode [0x8809, 0x0678] = .ok (.movi 0 0x678 9, []) ∧
  decode [0xA645, 0xE040] = .ok (.ldD 2 14 0x040 5, []) ∧
  decode [0x9A00, 0x0A04] = .ok (.loop 0 5 4, []) ∧
  decode [0xF005, 0x3138] = .ok (.hoff 0 3 1 7, []) ∧
  decode [0xC700, 0x5200] = .ok (.vredAddF 0 5 2 .rn, []) ∧
  decode [0xD801, 0x4500] = .ok (.tldT 0 4 5 0, []) ∧
  decode [0xAD03, 0x190A] = .ok (.atomMin 0 3 4 5 1, []) ∧
  decode [0xF200, 0x2160] = .ok (.copyG2l 0 2 1 12, []) ∧
  decode [0xB902, 0x1240] = .ok (.bar 0 2 9, []) ∧
  decode [0xF803, 0x5B03] = .ok (.steDraw 0 11 12 3, [])

/-- Every well-formed instruction decodes back from its encoding, whatever parcels follow. The steps that are no words
have no encoding. -/
def Obligations.DecodeOfEncode : Prop :=
  ∀ (i : Instr) (rest : List (BitVec 16)), i.wf = true → encode i ≠ [] →
    decode (encode i ++ rest) = .ok (i, rest)

/-- R49, R50: what decode accepts is well formed, and its parcels are the encoding of the instruction: no field is
dropped and no two words mean the same instruction. -/
def Obligations.DecodeIsExact : Prop :=
  ∀ (ws rest : List (BitVec 16)) (i : Instr), decode ws = .ok (i, rest) → i.wf = true ∧ ws = encode i ++ rest

/-- R37, R38, R42, R50: what decode refuses: the bat opcodes 0x00 and 0x10 to 0x1F, the all-zero parcel among them, and
every brick of a major that the opcode map leaves reserved. -/
def Obligations.ReservedOpcodesAreRejected : Prop :=
  (∀ (p : BitVec 16) (ws : List (BitVec 16)), p.getLsbD 15 = false →
    (p.toNat / 2 ^ 10 = 0 ∨ 16 ≤ p.toNat / 2 ^ 10) → ∀ r, decode (p :: ws) ≠ .ok r) ∧
  (∀ (p0 p1 : BitVec 16) (ws : List (BitVec 16)), p0.getLsbD 15 = true →
    (let m := p0.toNat / 2 ^ 8 % 2 ^ 7
     m = 0x06 ∨ m = 0x07 ∨ (0x0A ≤ m ∧ m ≤ 0x0F) ∨ m = 0x17 ∨ (0x1B ≤ m ∧ m ≤ 0x1F) ∨ (0x32 ≤ m ∧ m ≤ 0x37) ∨
     (0x3A ≤ m ∧ m ≤ 0x3F) ∨ (0x4C ≤ m ∧ m ≤ 0x4F) ∨ (0x55 ≤ m ∧ m ≤ 0x57) ∨ (0x60 ≤ m ∧ m ≤ 0x67) ∨
     (0x6D ≤ m ∧ m ≤ 0x6F) ∨ m = 0x73 ∨ m = 0x76 ∨ m = 0x77 ∨ (0x79 ≤ m ∧ m ≤ 0x7B)) →
    ∀ r, decode (p0 :: p1 :: ws) ≠ .ok r)

/-- What a word waits for before it takes effect is there: the tokens that it reads have come; where its stream waits for its
operands (R19, R95), no engine has one of them to write; where it takes effect once (log 67), every older entry has retired;
and where it takes a token's register, one is free (R262). `ps` are the parcels that say what the word does. -/
def Sys2Proof.Spec.operandsAtHand (t : State) (ps : List (BitVec 16)) : Prop :=
  (t.readP (guardOf ps) = true → (scalarReads ps).any t.me.isPending = false) ∧
  (t.readP (guardOf ps) = true → blocksStream ps = true → t.me.unproduced (t.me.readNames ps) = []) ∧
  (actsOnce ps = true → t.me.trb = []) ∧
  (t.readP (guardField ps) = true → takesToken ps = true → t.tokenRoom t.myCore = true)

/-- A step runs the decoded instruction: where the agenda gives the next slot to stream `q`, the parcels `ps` at its pc
arrive (`t` is the state after the fetch, `eff` the parcels that say what the word does: those of the second word for a
prefixed pair), no decode check of R49 finds a cause, what the word waits for is there, and `ps` decodes to `i`, the step is
`exec i` on the stream with the word entered in the TRB, followed by what `ran` does with that entry: a held word leaves
none, any other is counted, and completes where it takes no engine; a word that raises a cause before every older entry has
retired is held instead (R166). Where the parcels decode to nothing, the word raises ILLEGAL. Whose slot it is stands in the
agenda, which is the model's (log 3). -/
def Obligations.StepRunsTheDecodedInstruction : Prop :=
  ∀ (s t : State) (q : Nat) (rest : List Turn) (ps eff : List (BitVec 16)),
    s.agenda = .slot q :: rest → q < 1024 →
    let s1 : State := { s with agenda := rest, cur := q }
    Spec.mayDecode s1 q → (s1.takeSlot q).fetchAll = (t, .ok (ps, eff)) →
    ((t.breakpointAt t.me.pc) = none → validWord ps = false →
      step s = .next (t.raiseAtDecode eff fun u => u.raise .illegal 0)) ∧
    (∀ i, t.frontCause ps = none → Spec.operandsAtHand t eff → decode ps = .ok (i, []) →
      let u := t.enterTrb eff
      step s = match exec i (if isPrefix ps then u else u.clearSkip) with
        | .next v => .next (if t.tooEarly v then t.holdFor .retired else v.ran t u.me.seqNext eff)
        | r => r)

/-- R34, R35, R54: the parcel at an even address that translates for fetch, whose walk and whose line no regulator holds, whose line
the core's L1I does not hold and whose sectors are sound, is the two bytes of memory there, the low byte first; and an address
at or above 2⁴⁸ is never fetched. -/
def Sys2Proof.Spec.FetchReadsMemory : Prop :=
  (∀ (s : State) (a : Word) (place : Nat) (fe : Bool),
    a.toNat < 2 ^ 48 → s.translate a.toNat .fetch = .ok place fe → place < 2 ^ 48 → place % 2 = 0 →
    SMap.find (s.core s.myCore).l1i (place / 128 * 128) = none → s.homeDie (place / 128 * 128) = s.myDie →
    (∀ o ∈ [0, 32, 64, 96], s.sectorGood (place / 128 * 128 + o) = true ∧
      (s.sector (place / 128 * 128 + o)).poison = false) →
    (∀ i, i < 128 → s.cellKey (place / 128 * 128 + i) = s.cellKey (place / 128 * 128) + i) →
    s.walkReaches s.myCore s.myCtxId a.toNat = true → s.heldCtx s.myCtxId = false → s.regulated s.myCtxId = false →
    (s.fetchParcel a).2 = .ok (BitVec.ofNat 16 ((s.byteAt place).toNat + 256 * (s.byteAt (place + 1)).toNat))) ∧
  (∀ (s : State) (a : Word), 2 ^ 48 ≤ a.toNat → s.fetchParcel a = (s, .error (.cause .page a)))

/-- R35, R36, R47: an address that does not translate for fetch answers the cause with the parcel's address, at the first parcel of
a word or the second; behind a prefix, the fault address is that of the following word. -/
def Sys2Proof.Spec.FetchesFault : Prop :=
  (∀ (s : State) (a : Word), a.toNat < 2 ^ 48 → s.walkReaches s.myCore s.myCtxId a.toNat = true →
    (s.translate a.toNat .fetch = .page → s.fetchParcel a = (s, .error (.cause .page a))) ∧
    (s.translate a.toNat .fetch = .prot → s.fetchParcel a = (s, .error (.cause .prot a)))) ∧
  (∀ (s t u : State) (a ea : Word) (p : BitVec 16) (c : Cause),
    (s.fetchParcel a = (t, .error (.cause c ea)) → s.fetchWord a = (t, .error (.cause c ea))) ∧
    (s.fetchParcel a = (t, .ok p) → p.getLsbD 15 = true → t.fetchParcel (a + 2) = (u, .error (.cause c ea)) →
      s.fetchWord a = (u, .error (.cause c ea)))) ∧
  (∀ (s t u : State) (ps : List (BitVec 16)) (ea : Word) (c : Cause),
    (s.fetchWord s.me.pc = (t, .error (.cause c ea)) → s.fetchAll = (t, .error (.cause c ea))) ∧
    (s.fetchWord s.me.pc = (t, .ok ps) → isPrefix ps = true → t.fetchWord (t.me.pc + 4) = (u, .error (.cause c ea)) →
      s.fetchAll = (u, .error (.cause c (u.me.pc + 4)))))

/-- R35, R36: an address that is never fetched, or that does not translate for fetch, raises its cause at the word, with
the parcel's address as fault address: the handler is entered. -/
def Sys2Proof.Spec.FetchFaultEntersHandler : Prop :=
  Spec.FetchesFault ∧
  ∀ (s : State) (q : Nat) (rest : List Turn) (c : Cause) (t : State) (a : Word),
    s.agenda = .slot q :: rest → q < 1024 →
    let s1 : State := { s with agenda := rest, cur := q }
    Spec.mayDecode s1 q → (s1.takeSlot q).fetchAll = (t, .error (.cause c a)) →
    step s = .next (t.raiseAtDecode [] fun u => u.raise c a) ∧
    ((s.stream q).pc.toNat ≥ 2 ^ 48 → c = .page ∧ a = (s.stream q).pc)

/-- Fetching a word. (Spec.FetchReadsMemory, Spec.FetchFaultEntersHandler.) When a slot comes is the model's choice (log 3).
-/
def Obligations.FetchReadsOrFaults : Prop := Spec.FetchReadsMemory ∧ Spec.FetchFaultEntersHandler

/-! ## Scalar loads and stores (chapters 02 and 09) -/

/-- R43, R44, R53: the effective address of an M word. -/
def Sys2Proof.Spec.address (s : State) (b : BitVec 4) (i : BitVec 12) : Word :=
  s.readS (if b = 0 then 0 else BitVec.ofNat 5 (16 + b.toNat)) + BitVec.ofInt 64 i.toInt

/-- R39, R53, R223, R235: a scalar load writes S[d] with the bytes it reads, the first least significant, sign-extended for
`LD.B`, `LD.H` and `LD.W` and zero-extended for the others. `LDX.D` reads at the home. That a load reads in the step of its
word is the model's (log 60). -/
def Obligations.ScalarLoadsWriteTheRegister : Prop :=
  ∀ (s t : State) (g : BitVec 3) (b : BitVec 4) (i : BitVec 12) (d : BitVec 5) (place : Nat) (l : List Byte),
    s.readP g = true → Spec.GoesOn s t 4 →
    let ea := Spec.address s b i
    let zero : Out := .next ((t.writeS d (BitVec.ofNat 64 (leNat l))).nextWord 4)
    let sign (n : Nat) : Out := .next ((t.writeS d (BitVec.ofInt 64 (BitVec.ofNat n (leNat l)).toInt)).nextWord 4)
    (Spec.Reads s .l1 1 ea place t l → exec (.ldB g b i d) s = sign 8 ∧ exec (.ldBu g b i d) s = zero) ∧
    (Spec.Reads s .l1 2 ea place t l → exec (.ldH g b i d) s = sign 16 ∧ exec (.ldHu g b i d) s = zero) ∧
    (Spec.Reads s .l1 4 ea place t l → exec (.ldW g b i d) s = sign 32 ∧ exec (.ldWu g b i d) s = zero) ∧
    (Spec.Reads s .l1 8 ea place t l → exec (.ldD g b i d) s = zero) ∧
    (Spec.Reads s .home 8 ea place t l → exec (.ldxD g b i d) s = zero) ∧
    (∀ a : BitVec 5, t.Passes 2 → Spec.Reads s .l1 8 (s.readS a) place t l →
      exec (.batLdD d a) s = .next ((t.writeS d (BitVec.ofNat 64 (leNat l))).nextWord 2))

/-- The keys of the bytes of a line follow one another in the backing. -/
def Sys2Proof.Spec.contiguous (s : State) (line : Nat) : Prop := ∀ i, i < 128 → s.cellKey (line + i) = s.cellKey line + i
/-- The sectors of a line pass their checks and carry no poison mark. -/
def Sys2Proof.Spec.sound (s : State) (line : Nat) : Prop :=
  ∀ o ∈ [0, 32, 64, 96], s.sectorGood (line + o) = true ∧ (s.sector (line + o)).poison = false

/-- R226 to R230, R233, R272: what a read returns: the bytes of the core's L1D line where it holds one; else those of the
die's guest copy; else the bytes of memory. It changes no byte of memory and no stream. A word that has read the element or
the block ahead of older reads of its stream gives what it read then; to read ahead changes nothing else. When a stream
reads ahead is the agenda's choice (logs 3, 60). When a line is dropped is the model's choice (logs 20, 66). -/
def Obligations.ReadsReturnCachedOrHomeBytes : Prop :=
  ∀ (s : State) (c ctx va place n : Nat), place % 128 + n ≤ 128 →
    let line := place / 128 * 128
    ((∀ a ∈ s.ahead, a.stream = s.cur → a.word ≠ s.me.seqNext) →
      (∀ x : Line, place < 2 ^ 48 → SMap.find (s.core c).l1d line = some x → x.poison = 0 →
        s.readPiece c ctx .l1 va place n = (s, .ok (x.bytes (place % 128) n))) ∧
      (∀ x : Line, place < 2 ^ 48 → SMap.find (s.core c).l1d line = none → s.homeDie line ≠ dieOfCore c →
        SMap.find (s.die (dieOfCore c)).guest line = some x → x.poison = 0 →
        ∃ t, s.readPiece c ctx .l1 va place n = (t, .ok (x.bytes (place % 128) n)) ∧
          t.cells = s.cells ∧ t.streams = s.streams) ∧
      (Spec.sound s line → Spec.contiguous s line → SMap.find (s.core c).l1d line = none →
        SMap.find (s.die (dieOfCore c)).guest line = none →
        place < 2 ^ 48 ∨ 2 ^ 52 ≤ place ∨ (s.page (State.pageOfPlace place).1 (State.pageOfPlace place).2).resident = true →
        ∀ via : Via, ∃ t, s.readPiece c ctx via va place n = (t, .ok (s.bytesAt place n)) ∧
          t.cells = s.cells ∧ t.streams = s.streams)) ∧
    (∀ (a : ReadAhead) (x : Line), place < 2 ^ 48 → SMap.find (s.core c).l1d line = some x → x.poison = 0 →
      s.ahead = [a] → a.stream = s.cur → a.word = s.me.seqNext → a.via = .l1 →
      a.place ≤ place → place + n ≤ a.place + a.data.length → n ≤ 16 ∨ (a.data.length = 64 ∧ a.place % 64 = 0) → c = s.myCore →
      s.readPiece c ctx .l1 va place n = (s, .ok ((a.data.drop (place - a.place)).take n))) ∧
    (∀ (q k p m : Nat) (via : Via) (rest : List Turn), s.agenda = .readAhead q k p m via :: rest → q < 1024 →
      ∃ l, step s = .next { s with agenda := rest, ahead := l })

/-- The state with a write at the end of the running stream's store queue, counted into the slots that track it, after the walks for
the virtual addresses of `pages`. `pieces` says what of it lands as one (R281). -/
def Sys2Proof.Spec.queued (s : State) (kind : StoreKind) (cells : List (Nat × Byte)) (ea : Word) (ranges : List (Nat × Nat × Nat))
    (release : ReleaseOf) (pieces : Pieces := {})
    (pages : List (Nat × Nat) := [(ea.toNat, (cells.headD (0, 0)).1)]) : State :=
  let hits := s.me.tracking s.myCore ranges
  let t := pages.foldl (fun u p => u.walkIn u.myCore u.myCtxId p.1 p.2) s
  t.setMe { t.me.count hits with
    storeQ := t.me.storeQ ++ [⟨s.me.seqNext, kind, cells, ea, ranges, .queued, release, hits, [], 0, pieces, 0⟩] }

/-- A scalar store of `n` bytes at `ea` may enter the queue: the checks of R223 pass and no slot's count is full. -/
def Sys2Proof.Spec.Stores (s : State) (n : Nat) (ea : Word) (place : Nat) : Prop :=
  s.checkScalar ea { size := n, acc := .store, window := true } = .ok place ∧
  s.me.countFull (s.me.tracking s.myCore [s.rangeOf ea place n]) = false

/-- R39, R53, R223, R234: a scalar store enters the store queue with the low bytes of its register, the least
significant at the first place; memory and the registers stay. -/
def Obligations.ScalarStoresEnterTheQueue : Prop :=
  ∀ (s : State) (g : BitVec 3) (b : BitVec 4) (i : BitVec 12) (d : BitVec 5) (place : Nat),
    s.readP g = true → s.Passes 4 →
    let ea := Spec.address s b i
    let w (n : Nat) : Out := .next ((Spec.queued s .scalar (placed place (leBytes n (s.readS d).toNat)) ea
      [s.rangeOf ea place n] .no).nextWord 4)
    (Spec.Stores s 1 ea place → exec (.stB g b i d) s = w 1) ∧
    (Spec.Stores s 2 ea place → exec (.stH g b i d) s = w 2) ∧
    (Spec.Stores s 4 ea place → exec (.stW g b i d) s = w 4) ∧
    (Spec.Stores s 8 ea place → exec (.stD g b i d) s = w 8) ∧
    (∀ a : BitVec 5, s.Passes 2 → Spec.Stores s 8 (s.readS a) place →
      exec (.batStD a d) s = .next ((Spec.queued s .scalar (placed place (leBytes 8 (s.readS d).toNat)) (s.readS a)
        [s.rangeOf (s.readS a) place 8] .no).nextWord 2))

/-- The scalar accesses of an M word: guard, base, imm12, size, and what they need of the page. -/
def Sys2Proof.Spec.scalarAccess : Instr → Option (BitVec 3 × BitVec 4 × BitVec 12 × Nat × Acc)
  | .ldB g b i _ | .ldBu g b i _ => some (g, b, i, 1, .load)
  | .ldH g b i _ | .ldHu g b i _ => some (g, b, i, 2, .load)
  | .ldW g b i _ | .ldWu g b i _ => some (g, b, i, 4, .load)
  | .ldD g b i _ | .ldxD g b i _ => some (g, b, i, 8, .load)
  | .stB g b i _ => some (g, b, i, 1, .store)
  | .stH g b i _ => some (g, b, i, 2, .store)
  | .stW g b i _ => some (g, b, i, 4, .store)
  | .stD g b i _ => some (g, b, i, 8, .store)
  | _ => none

/-- R222, R223: the checks of a scalar access in order, with the address as fault address: bits 63 to 48 neither all 0 nor
all 1 raise PAGE; then a misaligned address raises ALIGN; then, in the local window, an address beyond the scratchpad or
its quota raises PAGE; then a global address without a page raises PAGE, and one whose page forbids the access, or is a
full/empty page, raises PROT. While the link does not carry the walk for a global address, the word waits (R336). -/
def Sys2Proof.Spec.ScalarAddressChecks : Prop :=
  ∀ (s : State) (i : Instr) (g : BitVec 3) (b : BitVec 4) (im : BitVec 12) (n : Nat) (acc : Acc),
    Spec.scalarAccess i = some (g, b, im, n, acc) → s.readP g = true →
    let ea := Spec.address s b im
    let top := ea.toNat / 2 ^ 48
    (top ≠ 0 → top ≠ 0xFFFF → exec i s = .next (s.raise .page ea)) ∧
    (top = 0 ∨ top = 0xFFFF → ea.toNat % n ≠ 0 → exec i s = .next (s.raise .align ea)) ∧
    (top = 0xFFFF → ea.toNat % n = 0 → s.localBacked s.myCore (ea.toNat % 2 ^ 48) = false →
      exec i s = .next (s.raise .page ea)) ∧
    (top = 0 → ea.toNat % n = 0 → s.walkReaches s.myCore s.myCtxId ea.toNat = false → Spec.WaitsForLink s (exec i s)) ∧
    (top = 0 → ea.toNat % n = 0 → s.walkReaches s.myCore s.myCtxId ea.toNat = true →
      (s.translate ea.toNat acc = .page → exec i s = .next (s.raise .page ea)) ∧
      (s.translate ea.toNat acc = .prot → exec i s = .next (s.raise .prot ea)) ∧
      (∀ place, s.translate ea.toNat acc = .ok place true → exec i s = .next (s.raise .prot ea)))

/-- R236: `PREF` raises nothing and changes no register and no byte of memory, whatever its address: it asks for a line,
or does nothing. -/
def Sys2Proof.Spec.PrefetchRaisesNothing : Prop :=
  ∀ (s : State) (g : BitVec 3) (b : BitVec 4) (i : BitVec 12) (l : BitVec 1), s.readP g = true → s.Passes 4 →
    ∃ t : State, exec (.pref g b i l) s = .next (t.nextWord 4) ∧ t.streams = s.streams ∧ t.cells = s.cells ∧
      t.cores = s.cores ∧ t.dies = s.dies ∧ t.board = s.board ∧
      (t.net = s.net ∨ ∃ m, t.net = s.net ++ [m])

/-- The checks of an address, and prefetches, which have none. (Spec.ScalarAddressChecks, Spec.PrefetchRaisesNothing.) -/
def Obligations.AddressChecksAndPrefetch : Prop := Spec.ScalarAddressChecks ∧ Spec.PrefetchRaisesNothing

/-- R350, R353: the translation of an access by the leaf that the TLBs or the walk give: PROT where the leaf forbids it or
is for supervisor level only, else the leaf's page with the address's offset. -/
def Sys2Proof.Spec.TranslationFollowsTheLeaf : Prop :=
  ∀ (s : State) (core c : Nat) (sup : Bool) (va : Nat) (acc : Acc) (e : Word) (size : Nat),
    s.leafOf core c va = .leaf e size →
    let forbidden : Prop := (acc.rd = true ∧ e.getLsbD 2 = false) ∨ (acc.wr = true ∧ e.getLsbD 3 = false) ∨
      (acc.ex = true ∧ e.getLsbD 4 = false) ∨ (e.getLsbD 54 = true ∧ sup = false)
    (forbidden → s.translateAs core c sup va acc = .prot) ∧
    (¬ forbidden → s.translateAs core c sup va acc =
      .ok ((if e.getLsbD 53 = true then 2 ^ 52 else 0) + (e.toNat / 2 ^ 8 % 2 ^ 44 * 2 ^ 8 + va % size))
        (e.getLsbD 52))

/-- R347 to R349: the walk of a context with cold TLBs and walk cache through a sound tree: an invalid entry at any level
gives no page; a leaf at level 1, 2 or 3 maps 1 GiB, 2 MiB or 64 KiB. -/
def Sys2Proof.Spec.WalkDescendsTheTree : Prop :=
  ∀ (s : State) (d c va level table fuel : Nat), (s.die d).walks = [] →
    let a := table + 8 * tableIndex level va
    let e : Word := BitVec.ofNat 64 (s.natAt a 8)
    (s.sector a).poison = false →
    (e.getLsbD 0 = false → s.walkFrom d c va (fuel + 1) level table = .page) ∧
    (e.getLsbD 0 = true → malformedPte level e = true → s.walkFrom d c va (fuel + 1) level table = .malformed level a) ∧
    (e.getLsbD 0 = true → malformedPte level e = false → e.getLsbD 1 = true →
      s.walkFrom d c va (fuel + 1) level table = .leaf e (levelSpan level)) ∧
    (e.getLsbD 0 = true → malformedPte level e = false → e.getLsbD 1 = false →
      s.walkFrom d c va (fuel + 1) level table = s.walkFrom d c va fuel (level + 1) (e.toNat / 2 ^ 8 % 2 ^ 44 * 2 ^ 8))

/-- Translation by leaf and by walk. (Spec.TranslationFollowsTheLeaf, Spec.WalkDescendsTheTree.) -/
def Obligations.TranslationWalksTheTree : Prop := Spec.TranslationFollowsTheLeaf ∧ Spec.WalkDescendsTheTree

/-! ## Handles and extension registers (chapter 05) -/

/-- Reads of `pieces` may be made and find the bytes `l`, and the brick goes on; `t` is the state with the lines filled. Those in
the 64-byte blocks `whole` are read as one (R281). -/
def Sys2Proof.Spec.ReadsPieces (s : State) (via : Via) (range : Nat × Nat × Nat) (pieces : List (Nat × Nat × Nat)) (t : State)
    (l : List Byte) (whole : List Nat := []) : Prop :=
  (∃ u, Spec.MayRead s via [range] pieces u ∧ u.readPieces u.myCore u.myCtxId via pieces whole = (t, .ok l)) ∧ Spec.GoesOn s t 4

/-- The refusal of a handle word in state `s`: FORMAT, whose fault address the spec leaves open (log 4). -/
def Sys2Proof.Spec.formatOpen (s : State) : Out := .next (s.freshFree.1.raise .format (Config.formatAddr s.freshFree.2))

/-- R121: what makes a handle valid. -/
def Sys2Proof.Spec.HandlesAreChecked : Prop :=
  ∀ h : Handle, h.valid = true ↔
    ∃ f : ElemFmt, h.fmt = some f ∧ 1 ≤ h.ndim ∧ h.ndim ≤ 16 ∧ h.bounds ≤ 2 ∧
      (∀ k, k < h.ndim → h.extent k ≠ 0) ∧ (∀ k, h.ndim ≤ k → k < 16 → h.extent k = 0 ∧ h.stride k = 0) ∧ h.stride 0 = 0 ∧
      h.pad / 2 ^ f.width = 0 ∧ (h.space = true → h.addr < 2 ^ 20) ∧
      match f with
      | .f4 => (∀ k, k < 16 → 16 ∣ h.stride k) ∧ h.sorigin ≤ h.addr ∧ 16 ∣ h.addr - h.sorigin
      | .p6 => 16 ∣ h.addr ∧ ∀ k, k < 16 → 16 ∣ h.stride k
      | _ => f.width / 8 ∣ h.addr ∧ ∀ k, k < 16 → ((f.width / 8 : Nat) : Int) ∣ h.stride k

/-- R119, R121, R124: `HLD` and `HLD.L` load a handle image of 256 aligned bytes: the register takes its listed fields and
0 in the reserved ones, where that is a valid handle. `HST` and `HST.L` queue the image for storing. A misaligned address
raises ALIGN, and an image that is no valid handle FORMAT. -/
def Sys2Proof.Spec.HandleLoadsAndStores : Prop :=
  ∀ (s : State) (g : BitVec 3) (d : BitVec 4) (a : BitVec 5), s.readP g = true → s.Passes 4 →
    let ea := s.readS a
    ∀ (isLocal : Bool) (place : Nat),
      let load : Instr := if isLocal then .hldL g d a else .hld g d a
      let store : Instr := if isLocal then .hstL g d a else .hst g d a
      (ea.toNat % 256 ≠ 0 → exec load s = .next (s.raise .align ea) ∧ exec store s = .next (s.raise .align ea)) ∧
      (ea.toNat % 256 = 0 → s.checkSpace isLocal ea .load = .ok place → ∀ (t : State) (l : List Byte),
        Spec.ReadsPieces s .l2 (s.spaceRange isLocal ea 256)
          [(ea.toNat, place, 128), (ea.toNat + 128, place + 128, 128)] t l →
        let h : Handle := Handle.clean (BitVec.ofNat 2048 (leNat l))
        (h.valid = true → exec load s = .next ((t.setMe { t.me with h := t.me.h.set d.toNat h }).nextWord 4)) ∧
        (h.valid = false → exec load s = Spec.formatOpen t)) ∧
      (ea.toNat % 256 = 0 → s.checkSpace isLocal ea .store = .ok place →
        s.me.countFull (s.me.tracking s.myCore [s.spaceRange isLocal ea 256]) = false →
        exec store s = .next ((Spec.queued s .wide
          (placed place (leBytes 256 (Handle.clean (s.me.h[d.toNat])).toNat)) ea [s.spaceRange isLocal ea 256]
          .no).nextWord 4))

/-- R8, R119: of an image, a handle keeps the listed fields; every reserved bit reads 0. -/
def Sys2Proof.Spec.HandleKeepsItsListedFields : Prop :=
  ∀ (img : BitVec 2048), let h : Handle := Handle.clean img
    h.addr = img.toNat % 2 ^ 48 ∧ h.space = img.getLsbD 63 ∧ h.fmtCode = img.toNat / 2 ^ 64 % 2 ^ 5 ∧
    h.ndim = img.toNat / 2 ^ 72 % 2 ^ 5 ∧ h.bounds = img.toNat / 2 ^ 80 % 4 ∧ h.kb = img.toNat / 2 ^ 82 % 4 ∧
    h.pad = img.toNat / 2 ^ 128 % 2 ^ 64 ∧ h.sbase = img.toNat / 2 ^ 192 % 2 ^ 64 ∧
    h.sorigin = img.toNat / 2 ^ 256 % 2 ^ 64 ∧
    (∀ k, k < 16 → h.extent k = img.toNat / 2 ^ (512 + 32 * k) % 2 ^ 32) ∧
    (∀ k, k < 16 → h.stride k = (BitVec.ofNat 64 (img.toNat / 2 ^ (1024 + 64 * k))).toInt) ∧
    (∀ j, (48 ≤ j ∧ j < 63) ∨ (69 ≤ j ∧ j < 72) ∨ (77 ≤ j ∧ j < 80) ∨ (84 ≤ j ∧ j < 128) ∨ (320 ≤ j ∧ j < 512) →
      h.getLsbD j = false) ∧ Handle.clean h = h

/-- Handles in memory. (Spec.HandleLoadsAndStores, Spec.HandleKeepsItsListedFields.) -/
def Obligations.HandleMemoryWords : Prop := Spec.HandleLoadsAndStores ∧ Spec.HandleKeepsItsListedFields

/-- R124, R127: `HSETD` replaces the extent and stride of one dimension where the handle stays valid; `HOFF` moves the
address along a dimension where it stays inside its space, and leaves every other bit; `XSET` and `XGET` copy an extension
register. `HSETD` of a dimension that the handle lacks, or to an invalid handle, and `HOFF` of such a dimension, into the midst of
a block of a packed format, or out of the space, raise FORMAT. -/
def Obligations.HandleAndExtensionWords : Prop :=
  Spec.HandlesAreChecked ∧
  ∀ (s : State) (g : BitVec 3) (d k : BitVec 4) (a : BitVec 5) (x : BitVec 3), s.readP g = true → s.Passes 4 →
    let h : Handle := s.me.h[d.toNat]
    let w (h' : Handle) : Out := .next ((s.setMe { s.me with h := s.me.h.set d.toNat h' }).nextWord 4)
    (∀ h' : Handle, k.toNat < h.ndim → h'.valid = true → h'.extent k.toNat = (s.readS a).toNat % 2 ^ 32 →
      h'.stride k.toNat = (s.me.x[x.toNat]).toInt →
      (∀ j, ¬ (512 + 32 * k.toNat ≤ j ∧ j < 544 + 32 * k.toNat) → ¬ (1024 + 64 * k.toNat ≤ j ∧ j < 1088 + 64 * k.toNat) →
        h'.getLsbD j = h.getLsbD j) →
      exec (.hsetd g d k a x) s = w h') ∧
    (∀ h' : Handle, k.toNat < h.ndim → h'.valid = false → h'.extent k.toNat = (s.readS a).toNat % 2 ^ 32 →
      h'.stride k.toNat = (s.me.x[x.toNat]).toInt →
      (∀ j, ¬ (512 + 32 * k.toNat ≤ j ∧ j < 544 + 32 * k.toNat) → ¬ (1024 + 64 * k.toNat ≤ j ∧ j < 1088 + 64 * k.toNat) →
        h'.getLsbD j = h.getLsbD j) →
      exec (.hsetd g d k a x) s = Spec.formatOpen s) ∧
    (h.ndim ≤ k.toNat → exec (.hsetd g d k a x) s = Spec.formatOpen s ∧ exec (.hoff g d k a) s = Spec.formatOpen s) ∧
    (k.toNat < h.ndim → k = 0 → (h.fmt = some .f4 ∧ (s.readS a).toInt % 32 ≠ 0) ∨ (h.fmt = some .p6 ∧ (s.readS a).toInt % 21 ≠ 0) →
      exec (.hoff g d k a) s = Spec.formatOpen s) ∧
    (∀ (h' : Handle) (f : ElemFmt), k.toNat < h.ndim → h.fmt = some f →
      (k = 0 → f = .f4 → (s.readS a).toInt % 32 = 0) → (k = 0 → f = .p6 → (s.readS a).toInt % 21 = 0) →
      let n := (s.readS a).toInt
      let step : Int := if k ≠ 0 then n * h.stride k.toNat else if f = .f4 then n / 2
        else if f = .p6 then n / 21 * 16 else n * (f.width / 8 : Nat)
      ((h.addr : Int) + step < 0 ∨ (if h.space then 2 ^ 20 else 2 ^ 48) ≤ (h.addr : Int) + step →
        exec (.hoff g d k a) s = Spec.formatOpen s) ∧
      (0 ≤ (h.addr : Int) + step → (h.addr : Int) + step < (if h.space then 2 ^ 20 else 2 ^ 48) →
      (h'.addr : Int) = h.addr + step → (∀ j, 48 ≤ j → h'.getLsbD j = h.getLsbD j) →
      exec (.hoff g d k a) s = w h')) ∧
    exec (.xset g x a) s = .next ((s.setMe { s.me with x := s.me.x.set x.toNat (s.readS a) }).nextWord 4) ∧
    (∀ e : BitVec 5, exec (.xget g e x) s = s.writesS e (s.me.x[x.toNat]))

/-- R122: the address of an element of an unpacked format: the address of the handle, plus the size times the first
coordinate, plus each further coordinate times its stride. A coordinate outside its extent gives the pad bits, or the
element at the nearest coordinates inside, or a fault, by the bounds field. -/
def Obligations.ElementAccess : Prop :=
  ∀ (h : Handle) (f : ElemFmt) (c0 c1 : Int), Handle.fmt h = some f → f ≠ .f4 → f ≠ .p6 → Handle.ndim h = 2 →
    let addr (x y : Int) : Int := Handle.addr h + x * (f.width / 8 : Nat) + y * Handle.stride h 1
    let inside : Prop := 0 ≤ c0 ∧ c0 < Handle.extent h 0 ∧ 0 ≤ c1 ∧ c1 < Handle.extent h 1
    let near (c : Int) (e : Nat) : Int := max 0 (min c (e - 1))
    (inside → Handle.access h [c0, c1] = .elem [c0, c1] (addr c0 c1)) ∧
    (¬ inside → Handle.bounds h = 1 → Handle.access h [c0, c1] = .pad) ∧
    (¬ inside → Handle.bounds h = 2 → Handle.access h [c0, c1] =
      .elem [near c0 (Handle.extent h 0), near c1 (Handle.extent h 1)]
        (addr (near c0 (Handle.extent h 0)) (near c1 (Handle.extent h 1)))) ∧
    (¬ inside → Handle.bounds h = 0 → Handle.access h [c0, c1] = .fault (addr c0 c1))
/-! ## Vector registers (chapter 06) -/

/-- V[d] takes `v` and the word passes on. -/
def Sys2Proof.Spec.vec (s : State) (d : BitVec 4) (v : VReg) : Out := .next ((s.writeV d v).nextWord 4)

/-- The outcome writes V[d], lane `i` being `f i`. -/
def Sys2Proof.Spec.Lanes (s : State) (d : BitVec 4) (f : Nat → BitVec 32) (o : Out) : Prop :=
  ∃ v : VReg, o = Spec.vec s d v ∧ ∀ i : Nat, i < 64 → v.extractLsb' (32 * i) 32 = f i

/-- How the running word rounds: in its mode, with the key of R108. -/
def Sys2Proof.Spec.rnd (s : State) (m : RMode) : Rnd := ⟨m, s.me.srseed ^^^ BitVec.ofNat 64 (s.me.x[0].toNat % 256 * 2 ^ 56)⟩

/-- R137: the outcome of a word that produces the `n` elements `code` of a floating-point format, numbered from `first`,
in a register with the property: where the trap is off, or every element is finite, V[d] takes it; else the word raises
NONFINITE with the number of the first element that is not finite, and writes nothing. -/
def Sys2Proof.Spec.Produces (s : State) (d : BitVec 4) (f : Fmt) (first n : Nat) (code : Nat → Nat) (p : VReg → Prop) (o : Out) :
    Prop :=
  ((s.me.nftrap = false ∨ ∀ j, j < n → f.nonFinite (code j) = false) → ∃ v : VReg, p v ∧ o = Spec.vec s d v) ∧
  ∀ j, s.me.nftrap = true → j < n → f.nonFinite (code j) = true → (∀ k, k < j → f.nonFinite (code k) = false) →
    o = .next (s.raise .nonfinite (BitVec.ofNat 64 (first + j)))

/-- The 64 lanes are FP32 codes. -/
def Sys2Proof.Spec.FpLanes (s : State) (d : BitVec 4) (code : Nat → Nat) (o : Out) : Prop :=
  Spec.Produces s d .fp32 0 64 code (fun v => ∀ i : Nat, i < 64 → v.extractLsb' (32 * i) 32 = BitVec.ofNat 32 (code i)) o

/-- Lane `i` of V[a], and its FP32 value. -/
def Sys2Proof.Spec.lane (s : State) (a : BitVec 4) (i : Nat) : BitVec 32 := (s.me.v[a.toNat]).extractLsb' (32 * i) 32
def Sys2Proof.Spec.laneVal (s : State) (a : BitVec 4) (i : Nat) : Val := Fmt.fp32.value (Spec.lane s a i).toNat

/-- R133, R137, R138: each lane on its own, rounded once in the mode, the lane being the counter of its draw. VEXP2 and
VLOG2 are computed as log 14 says. -/
def Obligations.VectorFloatingPoint : Prop :=
  ∀ (s : State) (g : BitVec 3) (d a b : BitVec 4) (m : RMode), s.readP g = true → s.Passes 4 →
    let r := Spec.rnd s m
    let x := Spec.laneVal s a
    let y := Spec.laneVal s b
    let z := Spec.laneVal s d
    let c (i : Nat) : Nat := (Spec.lane s a i).toNat
    let e (i : Nat) : Nat := (Spec.lane s b i).toNat
    Spec.FpLanes s d (fun i => Fmt.fp32.sum r i [x i, y i]) (exec (.vaddF g d a b m) s) ∧
    Spec.FpLanes s d (fun i => Fmt.fp32.sum r i [x i, (y i).neg]) (exec (.vsubF g d a b m) s) ∧
    Spec.FpLanes s d (fun i => Fmt.fp32.ofVal r i ((x i).mul (y i))) (exec (.vmulF g d a b m) s) ∧
    Spec.FpLanes s d (fun i => Fmt.fp32.div r i (x i) (y i)) (exec (.vdivF g d a b m) s) ∧
    Spec.FpLanes s d (fun i => Fmt.fp32.pick true (c i) (e i)) (exec (.vminF g d a b) s) ∧
    Spec.FpLanes s d (fun i => Fmt.fp32.pick false (c i) (e i)) (exec (.vmaxF g d a b) s) ∧
    Spec.FpLanes s d (fun i => Fmt.fp32.sum r i [z i, (x i).mul (y i)]) (exec (.vfmaF g d a b m) s) ∧
    Spec.FpLanes s d (fun i => Fmt.fp32.sum r i [z i, ((x i).mul (y i)).neg]) (exec (.vfmsF g d a b m) s) ∧
    Spec.FpLanes s d (fun i => Fmt.fp32.sqrt r i (x i)) (exec (.vsqrt g d a m) s) ∧
    Spec.FpLanes s d (fun i => Fmt.fp32.recip r i (x i)) (exec (.vrcp g d a m) s) ∧
    Spec.FpLanes s d (fun i => Fmt.fp32.rsqrt r i (x i)) (exec (.vrsq g d a m) s) ∧
    Spec.FpLanes s d (fun i => Fmt.fp32.exp2 r i (x i)) (exec (.vexp2 g d a m) s) ∧
    Spec.FpLanes s d (fun i => Fmt.fp32.log2 r i (x i)) (exec (.vlog2 g d a m) s) ∧
    Spec.FpLanes s d (fun i => (Spec.lane s a i ^^^ 0x80000000).toNat) (exec (.vnegF g d a) s) ∧
    Spec.FpLanes s d (fun i => (Spec.lane s a i &&& 0x7FFFFFFF).toNat) (exec (.vabsF g d a) s) ∧
    Spec.FpLanes s d (fun i => ((Spec.lane s a i &&& 0x7FFFFFFF) ||| (Spec.lane s b i &&& 0x80000000)).toNat)
      (exec (.vcpysF g d a b) s) ∧
    Spec.Lanes s d (fun i => BitVec.ofNat 32 (Fmt.fp32.classWord (c i))) (exec (.vclassF g d a) s) ∧
    Spec.FpLanes s d (fun i => Fmt.fp32.roundIntegral r i (x i)) (exec (.vrndF g d a m) s)

/-- R139: integers and bits, lane by lane. The shift constants are those a well-formed word carries. -/
def Sys2Proof.Spec.VectorIntegers : Prop :=
  ∀ (s : State) (g : BitVec 3) (d a b : BitVec 4) (k : BitVec 5), s.readP g = true → s.Passes 4 →
    let x := Spec.lane s a
    let y := Spec.lane s b
    let n (i : Nat) : Nat := (y i).toNat % 32
    Spec.Lanes s d (fun i => x i + y i) (exec (.vaddI g d a b) s) ∧
    Spec.Lanes s d (fun i => x i - y i) (exec (.vsubI g d a b) s) ∧
    Spec.Lanes s d (fun i => x i * y i) (exec (.vmulI g d a b) s) ∧
    Spec.Lanes s d (fun i => BitVec.ofInt 32 ((x i).toInt * (y i).toInt / 2 ^ 32)) (exec (.vmulhI g d a b) s) ∧
    Spec.Lanes s d (fun i => BitVec.ofNat 32 ((x i).toNat * (y i).toNat / 2 ^ 32)) (exec (.vmulhU g d a b) s) ∧
    Spec.Lanes s d (fun i => BitVec.ofInt 32 (min (x i).toInt (y i).toInt)) (exec (.vminI g d a b) s) ∧
    Spec.Lanes s d (fun i => BitVec.ofNat 32 (min (x i).toNat (y i).toNat)) (exec (.vminU g d a b) s) ∧
    Spec.Lanes s d (fun i => BitVec.ofInt 32 (max (x i).toInt (y i).toInt)) (exec (.vmaxI g d a b) s) ∧
    Spec.Lanes s d (fun i => BitVec.ofNat 32 (max (x i).toNat (y i).toNat)) (exec (.vmaxU g d a b) s) ∧
    Spec.Lanes s d (fun i => BitVec.ofInt 32 (Spec.sat 32 ((x i).toInt + (y i).toInt))) (exec (.vaddsI g d a b) s) ∧
    Spec.Lanes s d (fun i => BitVec.ofInt 32 (Spec.sat 32 ((x i).toInt - (y i).toInt))) (exec (.vsubsI g d a b) s) ∧
    Spec.Lanes s d (fun i => BitVec.ofNat 32 (min (2 ^ 32 - 1) ((x i).toNat + (y i).toNat))) (exec (.vaddsU g d a b) s) ∧
    Spec.Lanes s d (fun i => BitVec.ofNat 32 ((x i).toNat - (y i).toNat)) (exec (.vsubsU g d a b) s) ∧
    Spec.Lanes s d (fun i => BitVec.ofNat 32 (x i).toInt.natAbs) (exec (.vabsI g d a) s) ∧
    Spec.Lanes s d (fun i => BitVec.ofInt 32 (-(x i).toInt)) (exec (.vnegI g d a) s) ∧
    Spec.Lanes s d (fun i => Spec.lane s d i + x i * y i) (exec (.vmaddI g d a b) s) ∧
    Spec.Lanes s d (fun i => x i &&& y i) (exec (.vand g d a b) s) ∧
    Spec.Lanes s d (fun i => x i ||| y i) (exec (.vor g d a b) s) ∧
    Spec.Lanes s d (fun i => x i ^^^ y i) (exec (.vxor g d a b) s) ∧
    Spec.Lanes s d (fun i => x i &&& ~~~(y i)) (exec (.vandn g d a b) s) ∧
    Spec.Lanes s d (fun i => ~~~(x i)) (exec (.vnot g d a) s) ∧
    Spec.Lanes s d (fun i => BitVec.ofNat 32 ((x i).toNat * 2 ^ n i)) (exec (.vshl g d a b) s) ∧
    Spec.Lanes s d (fun i => BitVec.ofNat 32 ((x i).toNat / 2 ^ n i)) (exec (.vshr g d a b) s) ∧
    Spec.Lanes s d (fun i => BitVec.ofInt 32 ((x i).toInt / 2 ^ n i)) (exec (.vsra g d a b) s) ∧
    Spec.Lanes s d (fun i => BitVec.ofNat 32 ((x i).toNat * 2 ^ k.toNat)) (exec (.vshli g d a k) s) ∧
    Spec.Lanes s d (fun i => BitVec.ofNat 32 ((x i).toNat / 2 ^ k.toNat)) (exec (.vshri g d a k) s) ∧
    Spec.Lanes s d (fun i => BitVec.ofInt 32 ((x i).toInt / 2 ^ k.toNat)) (exec (.vsrai g d a k) s) ∧
    Spec.Lanes s d (fun i => BitVec.ofNat 32 ((List.range 32).filter fun j => (x i).getLsbD j).length)
      (exec (.vpopc g d a) s) ∧
    (∃ f : Nat → Nat, Spec.Lanes s d (fun i => BitVec.ofNat 32 (f i)) (exec (.vclz g d a) s) ∧
      ∀ i, i < 64 → f i ≤ 32 ∧ (∀ j : Nat, j < f i → (x i).getLsbD (31 - j) = false) ∧
        (f i < 32 → (x i).getLsbD (31 - f i) = true))

/-- A comparison of lanes writes all ones where its condition holds, else zeros. -/
def Sys2Proof.Spec.Compares (s : State) (d : BitVec 4) (c : Nat → Prop) (o : Out) : Prop :=
  ∃ f : Nat → BitVec 32, Spec.Lanes s d f o ∧ ∀ i, i < 64 → (c i → f i = 0xFFFFFFFF#32) ∧ (¬ c i → f i = 0)

/-- R140 to R142: comparisons, the select, the predicates of a vector, and the plain moves. -/
def Sys2Proof.Spec.VectorComparesAndSelects : Prop :=
  ∀ (s : State) (g : BitVec 3) (d a b c : BitVec 4) (p : BitVec 3), s.readP g = true → s.Passes 4 →
    let x := Spec.lane s a
    let y := Spec.lane s b
    let order (i : Nat) := Val.cmp (Spec.laneVal s a i) (Spec.laneVal s b i)
    Spec.Compares s d (fun i => order i = some .eq) (exec (.vfcmpEq g d a b) s) ∧
    Spec.Compares s d (fun i => order i = some .lt) (exec (.vfcmpLt g d a b) s) ∧
    Spec.Compares s d (fun i => order i = some .lt ∨ order i = some .eq) (exec (.vfcmpLe g d a b) s) ∧
    Spec.Compares s d (fun i => Spec.laneVal s a i = .nan ∨ Spec.laneVal s b i = .nan) (exec (.vfcmpUn g d a b) s) ∧
    Spec.Compares s d (fun i => order i ≠ some .eq) (exec (.vfcmpNe g d a b) s) ∧
    Spec.Compares s d (fun i => x i = y i) (exec (.vcmpEq g d a b) s) ∧
    Spec.Compares s d (fun i => x i ≠ y i) (exec (.vcmpNe g d a b) s) ∧
    Spec.Compares s d (fun i => (x i).toInt < (y i).toInt) (exec (.vcmpLt g d a b) s) ∧
    Spec.Compares s d (fun i => (x i).toInt ≤ (y i).toInt) (exec (.vcmpLe g d a b) s) ∧
    Spec.Compares s d (fun i => (x i).toNat < (y i).toNat) (exec (.vcmpLtu g d a b) s) ∧
    Spec.Compares s d (fun i => (x i).toNat ≤ (y i).toNat) (exec (.vcmpLeu g d a b) s) ∧
    Spec.Lanes s d (fun i => if Spec.lane s c i ≠ 0 then x i else y i) (exec (.vsel g d a b c) s) ∧
    (∃ r : Bool, exec (.vany g p a) s = s.writesP p r ∧ (r = true ↔ ∃ i, i < 64 ∧ x i ≠ 0)) ∧
    (∃ r : Bool, exec (.vall g p a) s = s.writesP p r ∧ (r = true ↔ ∀ i, i < 64 → x i ≠ 0)) ∧
    exec (.vmov g d a) s = Spec.vec s d (s.me.v[a.toNat]) ∧
    Spec.Lanes s d (fun i => BitVec.ofNat 32 i) (exec (.viota g d) s)

/-- Vector integers, compares and selects. (Spec.VectorIntegers, Spec.VectorComparesAndSelects.) -/
def Obligations.VectorIntegerWords : Prop := Spec.VectorIntegers ∧ Spec.VectorComparesAndSelects

/-- `src(j)` of R143. -/
def Sys2Proof.Spec.src (s : State) (a b : BitVec 4) (j : Nat) : BitVec 32 :=
  if j < 64 then Spec.lane s a j else Spec.lane s b (j - 64)
def Sys2Proof.Spec.srcVal (s : State) (a b : BitVec 4) (j : Nat) : Val := Fmt.fp32.value (Spec.src s a b j).toNat

/-- The register holds the 128 bytes in the half, and the old bytes of V[d] in the other. -/
def Sys2Proof.Spec.Half (s : State) (d : BitVec 4) (hi : Bool) (f : Nat → BitVec 8) (v : VReg) : Prop :=
  ∀ j : Nat, j < 128 → v.extractLsb' (8 * ((if hi then 128 else 0) + j)) 8 = f j ∧
    v.extractLsb' (8 * ((if hi then 0 else 128) + j)) 8 =
      (s.me.v[d.toNat]).extractLsb' (8 * ((if hi then 0 else 128) + j)) 8

/-- R143: the conversions. A pack of floating-point values counts its elements from 0, or from 128 for the high half; an
unpack reads element 64 · part + i. -/
def Obligations.VectorConversions : Prop :=
  ∀ (s : State) (g : BitVec 3) (d a b : BitVec 4) (m : RMode), s.readP g = true → s.Passes 4 →
    let r := Spec.rnd s m
    let x := Spec.lane s a
    let val := Spec.laneVal s a
    let src := Spec.src s a b
    let halves (code : Nat → Nat) (v : VReg) : Prop :=
      ∀ j : Nat, j < 128 → v.extractLsb' (16 * j) 16 = BitVec.ofNat 16 (code j)
    let pack16 (f : Fmt) (o : Out) : Prop :=
      let code (j : Nat) := f.ofVal r j (Spec.srcVal s a b j)
      Spec.Produces s d f 0 128 code (halves code) o
    let pack8 (f : Fmt) (hi : Bool) (o : Out) : Prop :=
      let first := if hi then 128 else 0
      let code (j : Nat) := f.ofVal r (first + j) (Spec.srcVal s a b j)
      Spec.Produces s d f first 128 code (Spec.Half s d hi fun j => BitVec.ofNat 8 (code j)) o
    let wide (w part i : Nat) : Nat := (s.me.v[a.toNat]).toNat / 2 ^ (w * (64 * part + i)) % 2 ^ w
    let exact (w part : Nat) (value : Nat → Val) (o : Out) : Prop :=
      Spec.FpLanes s d (fun i => Fmt.fp32.ofVal Rnd.nearest 0 (value (wide w part i))) o
    Spec.FpLanes s d (fun i => Fmt.fp32.ofInt r i (x i).toInt) (exec (.vcvtFI g d a m) s) ∧
    Spec.FpLanes s d (fun i => Fmt.fp32.ofInt r i (x i).toNat) (exec (.vcvtFU g d a m) s) ∧
    Spec.Lanes s d (fun i => BitVec.ofInt 32 ((val i).toInt r i (-(2 ^ 31)) (2 ^ 31 - 1))) (exec (.vcvtIF g d a m) s) ∧
    Spec.Lanes s d (fun i => BitVec.ofInt 32 ((val i).toInt r i 0 (2 ^ 32 - 1))) (exec (.vcvtUF g d a m) s) ∧
    pack16 .fp16 (exec (.vpackF16 g d a b m) s) ∧ pack16 .bf16 (exec (.vpackBf16 g d a b m) s) ∧
    pack8 .e4m3 false (exec (.vpackE4m3Lo g d a b m) s) ∧ pack8 .e4m3 true (exec (.vpackE4m3Hi g d a b m) s) ∧
    pack8 .e5m2 false (exec (.vpackE5m2Lo g d a b m) s) ∧ pack8 .e5m2 true (exec (.vpackE5m2Hi g d a b m) s) ∧
    (∃ v : VReg, exec (.vpackI16 g d a b) s = Spec.vec s d v ∧
      ∀ j : Nat, j < 128 → v.extractLsb' (16 * j) 16 = BitVec.ofInt 16 (Spec.sat 16 (src j).toInt)) ∧
    (∃ v : VReg, exec (.vpackI8Lo g d a b) s = Spec.vec s d v ∧
      Spec.Half s d false (fun j => BitVec.ofInt 8 (Spec.sat 8 (src j).toInt)) v) ∧
    (∃ v : VReg, exec (.vpackI8Hi g d a b) s = Spec.vec s d v ∧
      Spec.Half s d true (fun j => BitVec.ofInt 8 (Spec.sat 8 (src j).toInt)) v) ∧
    (∀ p : BitVec 1, exact 16 p.toNat Fmt.fp16.value (exec (.vunpkF16 g d a p) s) ∧
      exact 16 p.toNat Fmt.bf16.value (exec (.vunpkBf16 g d a p) s) ∧
      Spec.Lanes s d (fun i => BitVec.ofInt 32 (BitVec.ofNat 16 (wide 16 p.toNat i)).toInt)
        (exec (.vunpkI16 g d a p) s)) ∧
    (∀ p : BitVec 2, exact 8 p.toNat Fmt.e4m3.value (exec (.vunpkE4m3 g d a p) s) ∧
      exact 8 p.toNat Fmt.e5m2.value (exec (.vunpkE5m2 g d a p) s) ∧
      (∀ k : BitVec 2, exact 8 p.toNat
        (fun c => Fmt.e8m10.value ((s.me.k[k.toNat]).entries.toNat / 2 ^ (19 * c) % 2 ^ 19))
        (exec (.vunpkTc8 g d a k p) s)) ∧
      Spec.Lanes s d (fun i => BitVec.ofInt 32 (BitVec.ofNat 8 (wide 8 p.toNat i)).toInt)
        (exec (.vunpkI8 g d a p) s))

/-- R144: `t` is the tree over the leaves. -/
def Sys2Proof.Spec.Tree {α : Type} (op : Nat → α → α → α) (leaf : Nat → α) (t : Nat → α) : Prop :=
  (∀ i, i < 64 → t (64 + i) = leaf i) ∧ (∀ n, 1 ≤ n → n < 64 → t n = op n (t (2 * n)) (t (2 * n + 1)))

/-- R145: `y` holds the lanes before each of the six steps and after the last. -/
def Sys2Proof.Spec.ScanOf {α : Type} (op : Nat → α → α → α) (leaf : Nat → α) (y : Nat → Nat → α) : Prop :=
  (∀ i, i < 64 → y 0 i = leaf i) ∧ (∀ k i, k < 6 → i < 64 →
    y (k + 1) i = if 2 ^ k ≤ i then op (64 * k + i) (y k (i - 2 ^ k)) (y k i) else y k i)

/-- R144 to R146: a reduction writes the root of its fixed tree to every lane, and a scan the prefix sums of its six
steps; node and step number are the counters of the draws. -/
def Sys2Proof.Spec.VectorReductionsAndScans : Prop :=
  ∀ (s : State) (g : BitVec 3) (d a : BitVec 4) (m : RMode), s.readP g = true → s.Passes 4 →
    let r := Spec.rnd s m
    let x := Spec.lane s a
    let c (i : Nat) : Nat := (x i).toNat
    let add (n p q : Nat) : Nat := Fmt.fp32.sum r n [Fmt.fp32.value p, Fmt.fp32.value q]
    let all (code : Nat) (v : VReg) : Prop := ∀ i : Nat, i < 64 → v.extractLsb' (32 * i) 32 = BitVec.ofNat 32 code
    (∀ t : Nat → Nat,
      (Spec.Tree add c t →
        Spec.Produces s d .fp32 0 1 (fun _ => t 1) (all (t 1)) (exec (.vredAddF g d a m) s)) ∧
      (Spec.Tree (fun _ p q => Fmt.fp32.pick true p q) c t →
        Spec.Produces s d .fp32 0 1 (fun _ => t 1) (all (t 1)) (exec (.vredMinF g d a) s)) ∧
      (Spec.Tree (fun _ p q => Fmt.fp32.pick false p q) c t →
        Spec.Produces s d .fp32 0 1 (fun _ => t 1) (all (t 1)) (exec (.vredMaxF g d a) s))) ∧
    (∀ t : Nat → BitVec 32,
      (Spec.Tree (fun _ p q => p + q) x t → Spec.Lanes s d (fun _ => t 1) (exec (.vredAddI g d a) s)) ∧
      (Spec.Tree (fun _ p q => if p.toInt < q.toInt then p else q) x t →
        Spec.Lanes s d (fun _ => t 1) (exec (.vredMinI g d a) s)) ∧
      (Spec.Tree (fun _ p q => if p.toInt < q.toInt then q else p) x t →
        Spec.Lanes s d (fun _ => t 1) (exec (.vredMaxI g d a) s)) ∧
      (Spec.Tree (fun _ p q => if p.toNat < q.toNat then p else q) x t →
        Spec.Lanes s d (fun _ => t 1) (exec (.vredMinU g d a) s)) ∧
      (Spec.Tree (fun _ p q => if p.toNat < q.toNat then q else p) x t →
        Spec.Lanes s d (fun _ => t 1) (exec (.vredMaxU g d a) s))) ∧
    (∀ y : Nat → Nat → Nat, Spec.ScanOf add c y → Spec.FpLanes s d (y 6) (exec (.vscanAddF g d a m) s)) ∧
    (∀ y : Nat → Nat → BitVec 32, Spec.ScanOf (fun _ p q => p + q) x y →
      Spec.Lanes s d (y 6) (exec (.vscanAddI g d a) s))

/-- R147 to R149: permutes, random numbers, and the moves to tiles and scalars. -/
def Sys2Proof.Spec.VectorPermutesAndMoves : Prop :=
  ∀ (s : State) (g : BitVec 3) (d a b : BitVec 4), s.readP g = true → s.Passes 4 →
    let x := Spec.lane s a
    let y := Spec.lane s b
    Spec.Lanes s d (fun i => x ((y i).toNat % 64)) (exec (.vperm g d a b) s) ∧
    (∀ k : BitVec 6, Spec.Lanes s d (fun i => x ((i + k.toNat) % 64)) (exec (.vrot g d a k) s) ∧
      Spec.Lanes s d (fun _ => x k.toNat) (exec (.vbcst g d a k) s)) ∧
    Spec.Lanes s d (fun i => if i % 2 = 0 then x (i / 2) else y ((i - 1) / 2)) (exec (.vzipLo g d a b) s) ∧
    Spec.Lanes s d (fun i => if i % 2 = 0 then x (32 + i / 2) else y (32 + (i - 1) / 2)) (exec (.vzipHi g d a b) s) ∧
    Spec.Lanes s d (fun i => if i < 32 then x (2 * i) else y (2 * (i - 32))) (exec (.vuzpEv g d a b) s) ∧
    Spec.Lanes s d (fun i => if i < 32 then x (2 * i + 1) else y (2 * (i - 32) + 1)) (exec (.vuzpOd g d a b) s) ∧
    (∀ k : BitVec 3,
      let draw (i : Nat) : Nat := (genG (s.me.x[k.toNat]) (BitVec.ofNat 64 (x i).toNat)).toNat
      Spec.Lanes s d (fun i => BitVec.ofNat 32 (draw i / 2 ^ 32)) (exec (.vrng g d a k) s) ∧
      ∃ f : Nat → BitVec 32, Spec.Lanes s d f (exec (.vrngU g d a k) s) ∧
        ∀ i, i < 64 → (Fmt.fp32.value (f i).toNat).cmp (.fin false (draw i / 2 ^ 40) (-24)) = some .eq) ∧
    (∀ q : BitVec 4,
      exec (.vfromt g d a q) s = Spec.vec s d ((s.me.t[a.toNat]).rows.extractLsb' (2048 * q.toNat) 2048) ∧
      ∃ t : Tile, exec (.vtot g d a q) s = .next ((s.setMe { s.me with t := s.me.t.set d.toNat t }).nextWord 4) ∧
        t.scales = (s.me.t[d.toNat]).scales ∧
        ∀ p : Nat, p < 16 → t.rows.extractLsb' (2048 * p) 2048 =
          if p = q.toNat then s.me.v[a.toNat] else (s.me.t[d.toNat]).rows.extractLsb' (2048 * p) 2048) ∧
    (∀ (e : BitVec 5) (k : BitVec 6),
      exec (.vext g e a k) s = s.writesS e ((x k.toNat).setWidth 64) ∧
      Spec.Lanes s d (fun i => if i = k.toNat then (s.readS e).setWidth 32 else Spec.lane s d i)
        (exec (.vins g d e k) s) ∧
      Spec.Lanes s d (fun _ => (s.readS e).setWidth 32) (exec (.vbcs g d e) s))

/-- Vector reductions, scans, permutes and moves. (Spec.VectorReductionsAndScans, Spec.VectorPermutesAndMoves.) -/
def Obligations.VectorReductionsAndMoves : Prop := Spec.VectorReductionsAndScans ∧ Spec.VectorPermutesAndMoves

/-- R73, R74, R150, R151: `CBK.ENC` writes, for each value, the lowest code of a nearest entry of the sorted codebook, and 0
for a NaN; a codebook that is not sorted raises FORMAT. `VENC.F4` writes four blocks as a vector image, and `VDEC.F4` the
values of 64 elements of one. The fault address of an unsorted codebook is a free value (logs 4, 16). -/
def Obligations.CodebookAndBlockEncoding : Prop :=
  ∀ (s : State) (g : BitVec 3) (d a b : BitVec 4), s.readP g = true → s.Passes 4 →
    (∀ (k : BitVec 2) (hi : Bool),
      let kb : Codebook := s.me.k[k.toNat]
      let i : Instr := if hi then .cbkEncHi g d a b k else .cbkEncLo g d a b k
      let entry (c : Nat) : Val := Fmt.e8m10.value (kb.entries.toNat / 2 ^ (19 * c) % 2 ^ 19)
      let u (v : Val) : Int := v.units (-149)
      (kb.sorted = false → ∃ ea : Word, exec i s = .next (State.raise { s with freeCtr := s.freeCtr + 1 } .format ea)) ∧
      (kb.sorted = true → ∃ (v : VReg) (f : Nat → BitVec 8), exec i s = Spec.vec s d v ∧ Spec.Half s d hi f v ∧
        ((∀ c, c < 256 → (entry c).isNan = false ∧ (entry c).isInf = false) →
         (∀ c c', c ≤ c' → c' < 256 → u (entry c) ≤ u (entry c')) → ∀ j, j < 128 →
          let x := Spec.srcVal s a b j
          (x.isNan = true → f j = 0) ∧
          (x.isNan = false → x.isInf = false → ∀ c, c < 256 →
            (u (entry (f j).toNat) - u x).natAbs ≤ (u (entry c) - u x).natAbs ∧
            (c < (f j).toNat → (u (entry (f j).toNat) - u x).natAbs < (u (entry c) - u x).natAbs))))) ∧
    (∀ m : RMode,
      let block (n : Nat) : Nat × List Nat :=
        encodeF4 (Spec.rnd s m) (32 * n) ((List.range 32).map fun i => Spec.srcVal s a b (32 * n + i))
      ((s.me.nftrap = false ∨ ∀ n, n < 4 → (block n).1 ≠ 0xFF) →
        ∃ v : VReg, exec (.vencF4 g d a b m) s = Spec.vec s d v ∧
          (∀ j : Nat, j < 128 → v.extractLsb' (4 * j) 4 = BitVec.ofNat 4 ((block (j / 32)).2.getD (j % 32) 0)) ∧
          (∀ n : Nat, n < 4 → v.extractLsb' (8 * (64 + n)) 8 = BitVec.ofNat 8 (block n).1) ∧
          v.toNat < 2 ^ (8 * 68)) ∧
      (∀ n, s.me.nftrap = true → n < 4 → (block n).1 = 0xFF → (∀ k, k < n → (block k).1 ≠ 0xFF) →
        exec (.vencF4 g d a b m) s = .next (s.raise .nonfinite (BitVec.ofNat 64 (32 * n))))) ∧
    (∀ p : BitVec 1,
      let img := (s.me.v[a.toNat]).toNat
      Spec.FpLanes s d (fun i =>
        let e : Nat := 64 * p.toNat + i
        let scale : Nat := img / 2 ^ (8 * (64 + e / 32)) % 2 ^ 8
        Fmt.fp32.ofVal Rnd.nearest 0 (if scale = 0xFF then .nan else
          (Fmt.f4.value (img / 2 ^ (4 * e) % 16)).scale ((scale : Int) - 127))) (exec (.vdecF4 g d a p) s))

/-- A vector load of the 64 words at `addr` (R153, R156, R235): the first misaligned lane raises ALIGN; with all aligned, the first
lane whose check fails raises its cause; else V[d] takes the 64 words, lane 0 lowest. `contig` says that the 64-byte blocks that it
covers whole are read as one (R155). -/
def Sys2Proof.Spec.VectorLoads (s : State) (isLocal contig : Bool) (via : Via) (d : BitVec 4) (addr : Nat → Word) (o : Out) : Prop :=
  (∀ k, k < 64 → (∀ j, j < k → (addr j).toNat % 4 = 0) → (addr k).toNat % 4 ≠ 0 →
    o = .next (s.raise .align (addr k))) ∧
  ((∀ j, j < 64 → (addr j).toNat % 4 = 0) →
    (∀ k c ea, k < 64 → (∀ j, j < k → ∃ p, s.checkSpace isLocal (addr j) .load via = .ok p) →
      s.checkSpace isLocal (addr k) .load via = .no (.trap c ea) → o = .next (s.raise c ea)) ∧
    (∀ place : Nat → Nat, (∀ j, j < 64 → s.checkSpace isLocal (addr j) .load via = .ok (place j)) →
      ∀ (t : State) (l : List Byte), Spec.ReadsPieces s via (s.laneRange isLocal ((List.range 64).map addr))
        ((List.range 64).map fun j => ((addr j).toNat, place j, 4)) t l (State.laneBlocks contig ((List.range 64).map addr)) →
        o = .next ((t.writeV d (BitVec.ofNat 2048 (leNat l))).nextWord 4)))

/-- A vector store of the lanes `act`, in rising order, of `x` (R153, R156): as a load for the checks; then the lanes enter the queue
as one write, four bytes each; with `contig`, it lands in the 64-byte blocks that it covers whole as one (R155). A store of no lane
stores nothing. -/
def Sys2Proof.Spec.VectorStores (s : State) (isLocal contig : Bool) (x : Nat → BitVec 32) (act : List Nat) (addr : Nat → Word) (o : Out) :
    Prop :=
  (act = [] → o = .next (s.nextWord 4)) ∧
  (∀ place : Nat → Nat, (∀ j ∈ act, (addr j).toNat % 4 = 0 ∧ s.checkSpace isLocal (addr j) .store .home = .ok (place j)) →
    let range := s.laneRange isLocal (act.map addr)
    act ≠ [] → s.me.countFull (s.me.tracking s.myCore [range]) = false →
    o = .next ((Spec.queued s .wide (act.flatMap fun j => placed (place j) (leBytes 4 (x j).toNat))
      ((act.map addr).headD 0) [range] .no
      ⟨4, (((act.filter fun j => (State.laneBlocks contig (act.map addr)).contains ((addr j).toNat / 64)).map fun j =>
        place j / 64)).eraseDups⟩
      (act.map fun j => ((addr j).toNat, place j))).nextWord 4))

/-- R152 to R156: the vector loads and stores: contiguous, strided by an extension register, and indexed by the lanes of
a vector; a store under a mask stores its set lanes only. -/
def Obligations.VectorLoadsAndStores : Prop :=
  ∀ (s : State) (g : BitVec 3) (d a : BitVec 4) (sc : BitVec 5) (k : BitVec 3), s.readP g = true → s.Passes 4 →
    let base (off : Nat → Word) (i : Nat) : Word := s.readS sc + off i
    let flat := base fun i => BitVec.ofNat 64 (4 * i)
    let stride := base fun i => BitVec.ofInt 64 (i * (s.me.x[k.toNat]).toInt)
    let index (v : BitVec 4) := base fun i => BitVec.ofInt 64 (4 * (Spec.lane s v i).toInt)
    let x := Spec.lane s a
    let all := List.range 64
    let set := all.filter fun i => Spec.lane s d i != 0
    Spec.VectorLoads s false true .l1 d flat (exec (.vld g d sc) s) ∧
    Spec.VectorLoads s true true .home d flat (exec (.vldL g d sc) s) ∧
    Spec.VectorLoads s false true .home d flat (exec (.vldx g d sc) s) ∧
    Spec.VectorLoads s false false .l1 d stride (exec (.vlds g d sc k) s) ∧
    Spec.VectorLoads s true false .home d stride (exec (.vldsL g d sc k) s) ∧
    Spec.VectorLoads s false false .l1 d (index a) (exec (.vgth g d a sc) s) ∧
    Spec.VectorLoads s true false .home d (index a) (exec (.vgthL g d a sc) s) ∧
    Spec.VectorStores s false true x all flat (exec (.vst g a sc) s) ∧
    Spec.VectorStores s true true x all flat (exec (.vstL g a sc) s) ∧
    Spec.VectorStores s false false x all stride (exec (.vsts g a sc k) s) ∧
    Spec.VectorStores s true false x all stride (exec (.vstsL g a sc k) s) ∧
    Spec.VectorStores s false false x all (index d) (exec (.vsct g d a sc) s) ∧
    Spec.VectorStores s true false x all (index d) (exec (.vsctL g d a sc) s) ∧
    Spec.VectorStores s false true x set flat (exec (.vstm g d a sc) s) ∧
    Spec.VectorStores s true true x set flat (exec (.vstmL g d a sc) s)
/-! ## Tiles, accumulators, codebooks (chapter 07) -/

/-- R160: every scale code of a tile is 127. -/
def Sys2Proof.Spec.plainScales (t : Tile) : Prop := ∀ j : Nat, j < 256 → t.scales.extractLsb' (8 * j) 8 = 127#8

/-- R137, R183: the outcome of a word that produces, row by row, elements in a tile with the property, where `bad` tells
which are not finite and `num` numbers them. -/
def Sys2Proof.Spec.TileOut (s : State) (d : BitVec 4) (n : Nat) (bad : Nat → Nat → Bool) (num : Nat → Nat → Nat)
    (p : Tile → Prop) (o : Out) : Prop :=
  ((s.me.nftrap = false ∨ ∀ r j, r < 64 → j < n → bad r j = false) →
    ∃ t : Tile, p t ∧ o = .next ((s.writeT d t).nextWord 4)) ∧
  ∀ r j, s.me.nftrap = true → r < 64 → j < n → bad r j = true →
    (∀ r' j', r' < 64 → j' < n → (r' < r ∨ (r' = r ∧ j' < j)) → bad r' j' = false) →
    o = .next (s.raise .nonfinite (BitVec.ofNat 64 (num r j)))

/-- The outcome writes C[d], element (i, j) being the W36 code; or raises NONFINITE at the first that is not finite. -/
def Sys2Proof.Spec.AccOut (s : State) (d : BitVec 2) (code : Nat → Nat → Nat) (o : Out) : Prop :=
  ((s.me.nftrap = false ∨ ∀ x, x < 4096 → Fmt.w36.nonFinite (code (x / 64) (x % 64)) = false) →
    ∃ c : Acc64, o = .next ((s.writeC d c).nextWord 4) ∧
      ∀ i j : Nat, i < 64 → j < 64 → c.extractLsb' (36 * (64 * i + j)) 36 = BitVec.ofNat 36 (code i j)) ∧
  ∀ x, s.me.nftrap = true → x < 4096 → Fmt.w36.nonFinite (code (x / 64) (x % 64)) = true →
    (∀ y, y < x → Fmt.w36.nonFinite (code (y / 64) (y % 64)) = false) →
    o = .next (s.raise .nonfinite (BitVec.ofNat 64 x))

/-- The W36 value of element (i, j) of C[a]. -/
def Sys2Proof.Spec.acc (s : State) (a : BitVec 2) (i j : Nat) : Val :=
  Fmt.w36.value ((s.me.c[a.toNat]).extractLsb' (36 * (64 * i + j)) 36).toNat

/-- R182, R190, R193: the moves and zeros of tiles and accumulators, and the scaling of an accumulator. -/
def Obligations.TileAndAccumulatorMoves : Prop :=
  ∀ (s : State) (g : BitVec 3), s.readP g = true → s.Passes 4 →
    (∀ d a : BitVec 4, exec (.tmov g d a) s = .next ((s.writeT d (s.me.t[a.toNat])).nextWord 4) ∧
      ∃ t : Tile, exec (.tzero g d) s = .next ((s.writeT d t).nextWord 4) ∧ t.rows = 0 ∧ Spec.plainScales t) ∧
    (∀ d a : BitVec 2, exec (.czero g d) s = .next ((s.writeC d 0).nextWord 4) ∧
      exec (.cmov g d a) s = .next ((s.writeC d (s.me.c[a.toNat])).nextWord 4) ∧
      ∀ (v : BitVec 4) (m : RMode),
        Spec.AccOut s d (fun i j => Fmt.w36.ofVal (Spec.rnd s m) (64 * i + j) ((Spec.acc s a i j).mul (Spec.laneVal s v i)))
          (exec (.csclR g d a v m) s) ∧
        Spec.AccOut s d (fun i j => Fmt.w36.ofVal (Spec.rnd s m) (64 * i + j) ((Spec.acc s a i j).mul (Spec.laneVal s v j)))
          (exec (.csclC g d a v m) s))

/-- The elements of row `r` of a tile from `off` on are the codes, the others those of the old tile. -/
def Sys2Proof.Spec.rowsFrom (f : TileFmt) (off n : Nat) (code : Nat → Nat → Nat) (old t : Tile) : Prop :=
  ∀ r k, r < 64 → k < perRow f → t.code f r k =
    if off ≤ k ∧ k < off + n then code r (k - off) % 2 ^ tileWidth f else old.code f r k

/-- The blocks of row `r` of a tile from block `off` on are the encoded ones, the others those of the old tile. -/
def Sys2Proof.Spec.blocksFrom (off n : Nat) (block : Nat → Nat → Nat × List Nat) (old t : Tile) : Prop :=
  ∀ r b, r < 64 → b < 4 →
    (t.scale r b = if off ≤ b ∧ b < off + n then (block r (b - off)).1 % 256 else old.scale r b) ∧
    ∀ u, u < 32 → t.code .f4 r (32 * b + u) =
      if off ≤ b ∧ b < off + n then (block r (b - off)).2.getD u 0 % 16 else old.code .f4 r (32 * b + u)

/-- R174, R183 to R185, R192: `TCVT` converts between tile formats, in the mode of bits 10 to 8 of `X0`, where codes 5 to 7
raise ILLEGAL; `TRED` sums rows; `CCVT` converts part of an accumulator into a tile. -/
def Obligations.TileConversions : Prop :=
  ∀ (s : State) (g : BitVec 3) (d : BitVec 4), s.readP g = true → s.Passes 4 →
    (∀ (a : BitVec 4) (fs fd : TileFmt) (p k : BitVec 2), Instr.wf (.tcvt g d a fs p k fd) = true →
      let i : Instr := .tcvt g d a fs p k fd
      let mode := s.me.x[0].toNat / 2 ^ 8 % 8
      let ta : Tile := s.me.t[a.toNat]
      let old : Tile := s.me.t[d.toNat]
      let ns := perRow fs
      let nd := perRow fd
      let off := p.toNat * ns
      let x (r k' : Nat) : Val := ta.val fs (s.me.k[k.toNat]) r k'
      (RMode.ofCode mode = none → exec i s = .next (s.raise .illegal 0)) ∧
      (∀ m : RMode, RMode.ofCode mode = some m →
        (nd ≤ ns →
          let code (r j : Nat) := (tileFmt fd).ofVal (Spec.rnd s m) (64 * r + j) (x r (p.toNat * nd + j))
          Spec.TileOut s d nd (fun r j => (tileFmt fd).nonFinite (code r j)) (fun r j => 64 * r + j)
            (fun t => Spec.rowsFrom fd 0 nd code old t ∧ Spec.plainScales t) (exec i s)) ∧
        (ns < nd → fd ≠ .f4 →
          let code (r j : Nat) := (tileFmt fd).ofVal (Spec.rnd s m) (64 * r + off + j) (x r j)
          Spec.TileOut s d ns (fun r j => (tileFmt fd).nonFinite (code r j)) (fun r j => 64 * r + off + j)
            (fun t => Spec.rowsFrom fd off ns code old t ∧ t.scales = old.scales) (exec i s)) ∧
        (ns < nd → fd = .f4 →
          let block (r b : Nat) := encodeF4 (Spec.rnd s m) (64 * r + off + 32 * b)
            ((List.range 32).map fun u => x r (32 * b + u))
          Spec.TileOut s d (ns / 32) (fun r b => (block r b).1 == 0xFF) (fun r b => 64 * r + off + 32 * b)
            (Spec.blocksFrom (off / 32) (ns / 32) block old) (exec i s)))) ∧
    (∀ (a : BitVec 4) (k : BitVec 2) (m : RMode) (f : TileFmt),
      let code (r : Nat) : Nat := Fmt.fp32.sum (Spec.rnd s m) r
        ((List.range (perRow f)).map fun j => Tile.val (s.me.t[a.toNat]) f (s.me.k[k.toNat]) r j)
      Spec.TileOut s d 1 (fun r _ => Fmt.fp32.nonFinite (code r)) (fun r _ => r)
        (fun t => Spec.plainScales t ∧ ∀ r j, r < 64 → j < 16 → t.code .fp32 r j =
          if r < 4 then code (16 * r + j) % 2 ^ 32 else 0) (exec (.tred g d a k m f) s)) ∧
    (∀ (a : BitVec 2) (p : BitVec 4) (m : RMode),
      let plain (f : TileFmt) (i : Instr) : Prop :=
        let off := p.toNat * perRow f
        let code (r j : Nat) := (tileFmt f).ofVal (Spec.rnd s m) (64 * r + off + j) (Spec.acc s a r (off + j))
        i.wf = true → Spec.TileOut s d (perRow f) (fun r j => (tileFmt f).nonFinite (code r j))
          (fun r j => 64 * r + off + j)
          (fun t => Spec.rowsFrom f 0 (perRow f) code t t ∧ Spec.plainScales t) (exec i s)
      plain .e4m3 (.ccvtE4m3 g d a p m) ∧ plain .e5m2 (.ccvtE5m2 g d a p m) ∧ plain .fp16 (.ccvtF16 g d a p m) ∧
      plain .bf16 (.ccvtBf16 g d a p m) ∧ plain .fp32 (.ccvtF32 g d a p m) ∧
      (Instr.wf (.ccvtF4 g d a p m) = true →
        let block (r b : Nat) := encodeF4 (Spec.rnd s m) (64 * r + 32 * b)
          ((List.range 32).map fun u => Spec.acc s a r (32 * b + u))
        Spec.TileOut s d 2 (fun r b => (block r b).1 == 0xFF) (fun r b => 64 * r + 32 * b)
          (Spec.blocksFrom (2 * p.toNat) 2 block (s.me.t[d.toNat])) (exec (.ccvtF4 g d a p m) s)))

/-- R187: element (i, j) of C[d] with the `n` products of row `i` of A and row `j` of B added, rounded once. -/
def Sys2Proof.Spec.Mma (s : State) (d : BitVec 2) (r : Rnd) (n : Nat) (a b : Nat → Nat → Val) (o : Out) : Prop :=
  Spec.AccOut s d (fun i j => Fmt.w36.sum r (64 * i + j)
    (Spec.acc s d i j :: (List.range n).map fun k => (a i k).mul (b j k))) o

/-- R186 to R189: `MMA`, `MMA.SP` and `MMA.TC`. The sparse form reads 3-bit pattern codes from a metadata tile: a code
of 6 or 7 raises FORMAT with its index; else the pair of positions it names takes the two stored values of the group,
and the others are +0. -/
def Obligations.MatrixProducts : Prop :=
  ∀ (s : State) (g : BitVec 3) (d : BitVec 2) (a b : BitVec 4), s.readP g = true → s.Passes 4 →
    let ta : Tile := s.me.t[a.toNat]
    let tb : Tile := s.me.t[b.toNat]
    let mode := RMode.ofCode (s.me.x[0].toNat / 2 ^ 8 % 8)
    (∀ (m : RMode) (p : MmaPair), Spec.Mma s d (Spec.rnd s m) (perRow (pairFmts p).1)
      (ta.val (pairFmts p).1 default) (tb.val (pairFmts p).2 default) (exec (.mma g d a b m p) s)) ∧
    (∀ (y x : BitVec 2) (p : TcPair),
      (mode = none → exec (.mmaTc g d a b y x p) s = .next (s.raise .illegal 0)) ∧
      ∀ m, mode = some m → Spec.Mma s d (Spec.rnd s m) 64 (ta.val (tcFmts p).1 (s.me.k[x.toNat]))
        (tb.val (tcFmts p).2 (s.me.k[y.toNat])) (exec (.mmaTc g d a b y x p) s)) ∧
    (∀ (tm : BitVec 4) (p : MmaPair),
      let i : Instr := .mmaSp g d a b tm p
      let n := perRow (pairFmts p).1
      let pat (r k : Nat) : Nat := (s.me.t[tm.toNat]).rows.toNat / 2 ^ (512 * r + 3 * k) % 8
      let pairs : List (Nat × Nat) := [(0, 1), (0, 2), (0, 3), (1, 2), (1, 3), (2, 3)]
      (mode = none → exec i s = .next (s.raise .illegal 0)) ∧
      ∀ m, mode = some m →
        (∀ r k, r < 64 → k < n / 4 → 6 ≤ pat r k →
          (∀ r' k', r' < 64 → k' < n / 4 → (r' < r ∨ (r' = r ∧ k' < k)) → pat r' k' < 6) →
          exec i s = .next (s.raise .format (BitVec.ofNat 64 (64 * r + k)))) ∧
        ((∀ r k, r < 64 → k < n / 4 → pat r k < 6) →
          let spot (r k : Nat) : Nat × Nat := pairs.getD (pat r (k / 4)) (0, 0)
          Spec.Mma s d (Spec.rnd s m) n (fun r k =>
            if k % 4 = (spot r k).1 then storedVal ta (pairFmts p).1 r (2 * (k / 4)) (k / 4)
            else if k % 4 = (spot r k).2 then storedVal ta (pairFmts p).1 r (2 * (k / 4) + 1) (k / 4)
            else .fin false 0 0) (tb.val (pairFmts p).2 default) (exec i s)))

/-- R176: the checks of an instruction on its window: the format is one the instruction takes, and an F4 window is made
of whole blocks. -/
def Sys2Proof.Spec.window (h : Handle) (o : Word) (f : ElemFmt) : Prop :=
  2 ≤ h.ndim ∧ h.fmt = some f ∧
    (f = .f4 → originX o % 32 = 0 ∧ h.extent 0 % 32 = 0 ∧ h.bounds ≠ 2)

/-- The items of a window may be read and every item passes its checks, and the brick goes on; `l` are their values and `t` the
state with the lines filled. The 64-byte blocks that a row covers whole are read as one (R181). -/
def Sys2Proof.Spec.ReadsItems (s : State) (h : Handle) (bad : Nat → Bool) (items : List Item) (t : State) (l : List Nat) : Prop :=
  (∃ u, Spec.MayRead s .l2 [itemRange h s.myCore items] (s.itemReads h .load items) u ∧
    u.readItems h bad (itemBlocks items) items = (t, .ok l)) ∧ Spec.GoesOn s t 4

/-- The items with their data pass their checks and make the writes `cells`, one at least, which enter the queue. -/
def Sys2Proof.Spec.storesItems (s : State) (h : Handle) (l : List (Item × Nat)) (o : Out) : Prop :=
  ∀ cells, s.storeItems h l = .ok cells → cells ≠ [] →
    let range := itemRange h s.myCore (l.map (·.1))
    s.me.countFull (s.me.tracking s.myCore [range]) = false →
    o = .next ((Spec.queued s .wide cells (BitVec.ofNat 64 h.addr) [range] .no (s.itemPieces h (l.map (·.1)))
      ((s.itemReads h .store (l.map (·.1))).map fun e => (e.1, e.2.1))).nextWord 4)

/-- R175 to R181, R191, R194: the loads and stores of tiles, accumulators and codebooks. Item `r·n + j` of a window is the
element in column `j` of row `r`; a transposing load puts source row `i` into column `i`. -/
def Obligations.TileLoadsAndStores : Prop :=
  ∀ (s : State) (g : BitVec 3) (d a : BitVec 4) (sc : BitVec 5), s.readP g = true → s.Passes 4 →
    let h : Handle := s.me.h[a.toNat]
    let o := s.readS sc
    let format (i : Instr) : Prop := exec i s = .next (s.raise .format 0)
    let writesT (t : State) (i : Instr) (p : Tile → Prop) : Prop :=
      ∃ x : Tile, p x ∧ exec i s = .next ((t.writeT d x).nextWord 4)
    (∀ f t l, Spec.window h o f → f ≠ .p6 → f ≠ .f4 → Spec.ReadsItems s h (fun _ => false) (plainItems h f o) t l →
      writesT t (.tld g d a sc) fun x => Spec.plainScales x ∧
        ∀ k : Nat, k < 4096 / f.bytes → x.rows.toNat / 2 ^ (f.width * k) % 2 ^ f.width = l.getD k 0 % 2 ^ f.width) ∧
    (∀ t l, Spec.window h o .f4 → Spec.ReadsItems s h (fun _ => false) (f4Items h o) t l →
      writesT t (.tld g d a sc) fun x => ∀ r b : Nat, r < 64 → b < 4 →
        x.scale r b = l.getD (33 * (4 * r + b) + 32) 127 % 256 ∧
        ∀ u : Nat, u < 32 → x.code .f4 r (32 * b + u) = l.getD (33 * (4 * r + b) + u) 0 / 16 ^ (u % 2) % 16) ∧
    (∀ f t l, Spec.window h o f → transposable f = true →
      let m := 64 / f.bytes
      let items := (List.range m).flatMap fun (i : Nat) => (List.range 64).map fun (k : Nat) =>
        h.item f.bytes (originX o + k) (originY o + i)
      Spec.ReadsItems s h (fun _ => false) items t l →
      writesT t (.tldT g d a sc) fun x => Spec.plainScales x ∧ ∀ k i : Nat, k < 64 → i < m →
        x.rows.toNat / 2 ^ (f.width * (m * k + i)) % 2 ^ f.width = l.getD (64 * i + k) 0 % 2 ^ f.width) ∧
    (∀ t l, Spec.window h o .p6 →
      let items := (List.range 64).flatMap fun (r : Nat) => (List.range 64).map fun (j : Nat) =>
        h.item 16 (originX o + j) (originY o + r)
      Spec.ReadsItems s h (fun w => decide (2 ^ 126 ≤ w)) items t l →
      writesT t (.tldP6 g d a sc) fun x => Spec.plainScales x ∧ ∀ r j : Nat, r < 64 → j < 64 →
        x.code .tc8 r j = p6Code (h.item 16 (originX o + j) (originY o + r)) (l.getD (64 * r + j) 0)) ∧
    (∀ f, Spec.window h o f → f ≠ .p6 → f ≠ .f4 → Spec.storesItems s h ((plainItems h f o).zip
      ((List.range (4096 / f.bytes)).map fun k => (s.me.t[d.toNat]).rows.toNat / 2 ^ (f.width * k) % 2 ^ f.width))
      (exec (.tst g d a sc) s)) ∧
    (Spec.window h o .f4 → Spec.storesItems s h ((f4Items h o).zip (f4Data (s.me.t[d.toNat]))) (exec (.tst g d a sc) s)) ∧
    ((∀ f, Spec.window h o f → f = .p6) → format (.tld g d a sc) ∧ format (.tst g d a sc)) ∧
    ((∀ f, Spec.window h o f → transposable f = false) → format (.tldT g d a sc)) ∧
    (¬ Spec.window h o .p6 → format (.tldP6 g d a sc)) ∧
    (∀ c : BitVec 2, ((h.ndim < 2 ∨ h.fmtCode ≠ 14) → format (.cld g c a) ∧ format (.cst g c a)) ∧
      (2 ≤ h.ndim → h.fmtCode = 14 →
        (∀ t l, Spec.ReadsItems s h (fun w => decide (2 ^ 36 ≤ w)) (accItems h) t l →
          ∃ x : Acc64, exec (.cld g c a) s = .next ((t.writeC c x).nextWord 4) ∧ ∀ k : Nat, k < 4096 →
            x.extractLsb' (36 * k) 36 = BitVec.ofNat 36 (l.getD k 0)) ∧
        Spec.storesItems s h ((accItems h).zip ((List.range 4096).map fun k =>
          (s.me.c[c.toNat]).toNat / 2 ^ (36 * k) % 2 ^ 36)) (exec (.cst g c a) s))) ∧
    (∀ (c : BitVec 2) (isLocal : Bool), let i : Instr := if isLocal then .cbkLdL g c sc else .cbkLd g c sc
      (o.toNat % 64 ≠ 0 → exec i s = .next (s.raise .align o)) ∧
      (o.toNat % 64 = 0 → ∀ place : Nat → Nat,
        (∀ k, k < 16 → s.checkSpace isLocal (o + BitVec.ofNat 64 (64 * k)) .load = .ok (place k)) →
        ∀ (t : State) (l : List Byte), Spec.ReadsPieces s .l2 (s.spaceRange isLocal o 1024)
          ((List.range 16).map fun k => (o.toNat + 64 * k, place k, 64)) t l →
        let word (e : Nat) : Nat := leNat ((l.drop (4 * e)).take 4)
        (∀ e, e < 256 → 2 ^ 19 ≤ word e → (∀ e', e' < e → word e' < 2 ^ 19) →
          exec i s = .next (t.raise .format (o + BitVec.ofNat 64 (4 * e)))) ∧
        ((∀ e, e < 256 → word e < 2 ^ 19) → ∃ k : Codebook,
          exec i s = .next ((t.setMe { t.me with k := t.me.k.set c.toNat k }).nextWord 4) ∧
          (∀ e : Nat, e < 256 → k.entries.extractLsb' (19 * e) 19 = BitVec.ofNat 19 (word e)) ∧
          (k.sorted = true ↔ (∀ e, e < 256 → (Fmt.e8m10.value (word e)).isNan = false) ∧
            ∀ e, e < 255 → (Fmt.e8m10.value (word e)).cmp (Fmt.e8m10.value (word (e + 1))) ≠ some .gt))))
/-! ## Synchronizing memory instructions (chapters 09 and 10) -/

/-- An access of the running word passes the checks of R223 at `place`, and its read may be made at the home, in state `u`. -/
def Sys2Proof.Spec.Reaches (s : State) (ea : Word) (f : State.Form) (va place : Nat) (u : State) : Prop :=
  s.checkScalar ea f = .ok place ∧ Spec.MayRead s .home [s.rangeOf ea place f.size] [(va, place, f.size)] u

/-- A read at the home by the running stream gives the bytes `l`; `t` is the state after it, its sectors checked. -/
def Sys2Proof.Spec.HomeRead (u : State) (place n : Nat) (t : State) (l : List Byte) : Prop :=
  u.readAtHome u.cur place n = (t, .ok l) ∧ l.length = n

/-- A write of a scalar word may enter the store queue: the checks of R223 pass and no slot's count is full. -/
def Sys2Proof.Spec.Queues (s : State) (ea : Word) (f : State.Form) (place : Nat) : Prop :=
  s.checkScalar ea f = .ok place ∧ s.me.countFull (s.me.tracking s.myCore [s.rangeOf ea place f.size]) = false

/-- R237: streams that a scope holds together with stream `q`: itself, those of its core, those of its die. -/
def Sys2Proof.Spec.within (sc : Scope) (q p : Nat) : Bool :=
  match sc with
  | .stream => p == q
  | .core => p / 4 == q / 4
  | _ => dieOfCore (p / 4) == dieOfCore (q / 4)

/-- R239, R276, R278: what an acquire of the running stream leaves of a cache level: of the lines in its ranges none where its
scope drops that level; else those that no stream of the scope has seen superseded and that are no older than a fresh read
allows (log 72). -/
def Sys2Proof.Spec.acquired (t : State) (sc : Scope) (ranges : Option (List (Nat × Nat))) (drops : Bool) (l : SMap Line) : SMap Line :=
  l.filter fun e =>
    let outdated : Bool := e.2.passed.any (Spec.within sc t.cur) || (t.me.fresh && t.homeData e.1 != e.2.data)
    !((drops || outdated) && lineHit t ranges (((t.ownerOf t.myCore).map (·.1)).getD 0) e.1 e.2)

/-- R227, R229, R239, R277: state `u` is state `t` after an acquire of the running stream: its registers, the memory, its core's
L1D and its die's guest copies. From one of scope `.device` or `.system` on, its reads are fresh. -/
def Sys2Proof.Spec.Acquires (t u : State) (sc : Scope) (ranges : Option (List (Nat × Nat))) : Prop :=
  let high : Prop := sc = .device ∨ sc = .system
  u.cells = t.cells ∧ u.me = { t.me with fresh := t.me.fresh || decide (high ∧ ranges ≠ some []) } ∧
  (u.core t.myCore).l1d = Spec.acquired t sc ranges (decide (sc = .die ∨ high)) (t.core t.myCore).l1d ∧
  (u.die t.myDie).guest = Spec.acquired t sc ranges (decide high) (t.die t.myDie).guest

/-- R237 to R242: `LDA` reads at the home, writes S[d], and is an acquire of its scope: from `.die` on the core's L1D lines
go, above that guest copies too; a ranged form drops those that the masked range slots meet. `STL` enters the store queue as
a release; `STR` sends bytes to a scratchpad of the context by coordinates. How a ranged acquire compares lines is the
model's reading (log 32). -/
def Obligations.AcquireReleaseAndRemoteStores : Prop :=
  ∀ (s : State) (g : BitVec 3), s.readP g = true →
    (∀ (d a : BitVec 5) (r z : BitVec 1) (sc : Scope) (place : Nat) (u t : State) (l : List Byte),
      let n := if z = 0 then 4 else 8
      let v : Word := if z = 0 then BitVec.ofInt 64 (BitVec.ofNat 32 (leNat l)).toInt else BitVec.ofNat 64 (leNat l)
      let w := t.writeS d v
      let ranges : Option (List (Nat × Nat)) :=
        if r = 1 then some (t.me.globalRanges (BitVec.ofNat 8 t.me.x[1].toNat)) else none
      Spec.Reaches s (s.readS a) { size := n, acc := .load, window := true } ((s.readS a).toNat % 2 ^ 48) place u →
      Spec.HomeRead u place n t l → Spec.GoesOn s t 4 →
      ∃ y : State, exec (.lda g d a r sc z) s = .next (y.nextWord 4) ∧ Spec.Acquires w y sc ranges) ∧
    (∀ (r z : BitVec 1) (sc : Scope) (a b : BitVec 5) (place : Nat), s.Passes 4 →
      let n := if z = 0 then 4 else 8
      let range := s.rangeOf (s.readS a) place n
      Spec.Queues s (s.readS a) { size := n, acc := .store, window := true } place →
      exec (.stl g r sc a b z) s = .next ((Spec.queued s .scalar (placed place (leBytes n (s.readS b).toNat)) (s.readS a)
        [range] (if r = 1 then .slots (s.me.maskSlots (BitVec.ofNat 8 s.me.x[1].toNat)) else .all)).nextWord 4)) ∧
    (∀ (a b : BitVec 5) (z : BitVec 2),
      let ra := s.readS a
      let o := ra.toNat % 2 ^ 20
      let x := ra.toNat / 2 ^ 24 % 16
      let y := ra.toNat / 2 ^ 28 % 16
      let n := 2 ^ z.toNat
      let named : Prop := ra.toNat < 2 ^ 32 ∧ ra.toNat / 2 ^ 20 % 16 = 0 ∧ x < s.myCtx.w ∧ y < s.myCtx.h
      let c := s.myCtx.position (y * s.myCtx.w + x)
      (¬ named → exec (.str g a b z) s = .next (s.raise .prot ra)) ∧
      (named → o % n ≠ 0 → exec (.str g a b z) s = .next (s.raise .align ra)) ∧
      (named → o % n = 0 → s.localBacked s.myCore o = false → exec (.str g a b z) s = .next (s.raise .page ra)) ∧
      (named → o % n = 0 → s.localBacked s.myCore o = true → s.Passes 4 →
        s.me.countFull (s.me.tracking s.myCore [(1 + c, o, n)]) = false →
        exec (.str g a b z) s = .next ((Spec.queued s .remote (placed (localPlace c o) (leBytes n (s.readS b).toNat)) ra
          [(1 + c, o, n)] .no).nextWord 4)))

/-- R244: the new value of each operation, or none for a `CAS` that fails. -/
def Sys2Proof.Spec.atom {n : Nat} (op : Nat) (old x compare : BitVec n) : Option (BitVec n) :=
  match op with
  | 0 => some (old + x)
  | 1 => some (if old.toInt ≤ x.toInt then old else x)
  | 2 => some (if old.toInt ≤ x.toInt then x else old)
  | 3 => some (old &&& x)
  | 4 => some (old ||| x)
  | 5 => some (old ^^^ x)
  | 6 => some x
  | _ => if old = compare then some x else none

/-- R243 to R245, R339: an `ATOM` form whose home is on its die reads the old value at the home, writes the new one there
in the same step, and writes S[d] with the old value, sign-extended in the 32-bit form. One whose home is on the other
die goes through the remote-atomic agent where that has room, and its stream blocks. -/
def Sys2Proof.Spec.AtomicsReturnTheOldValue : Prop :=
  ∀ (s : State) (g : BitVec 3) (d a b : BitVec 5) (z : BitVec 1) (place : Nat) (u : State), s.readP g = true →
    let n := if z = 0 then 4 else 8
    let ea := s.readS a
    let asked : State := if 2 ^ 52 ≤ place then u.toHostBare else u
    let forms : List (Nat × Instr) := [(0, .atomAdd g d a b z), (1, .atomMin g d a b z), (2, .atomMax g d a b z),
      (3, .atomAnd g d a b z), (4, .atomOr g d a b z), (5, .atomXor g d a b z), (6, .atomXchg g d a b z),
      (7, .atomCas g d a b z)]
    (Spec.Reaches s ea { size := n, acc := .both, via := none } ea.toNat place u → u.homeDie place = u.myDie →
      ∀ (t : State) (l : List Byte), Spec.HomeRead asked place n t l → ∀ e ∈ forms,
        let old : BitVec (8 * n) := BitVec.ofNat (8 * n) (leNat l)
        let w := match Spec.atom e.1 old ((s.readS b).setWidth (8 * n)) ((s.readS d).setWidth (8 * n)) with
          | none => t
          | some v => t.formedWrite u.cur place (leBytes n v.toNat)
        let v := w.writeS d (if z = 0 then BitVec.ofInt 64 old.toInt else BitVec.ofNat 64 old.toNat)
        Spec.GoesOn s v 4 → exec e.2 s = .next (v.nextWord 4)) ∧
    (Spec.Reaches s ea { size := 4, acc := .both, via := none } ea.toNat place u → u.homeDie place = u.myDie →
      ∀ (t : State) (l : List Byte), Spec.HomeRead asked place 4 t l →
        let sum := Fmt.fp32.sum Rnd.nearest 0 [Fmt.fp32.value (leNat l), Fmt.fp32.value ((s.readS b).toNat % 2 ^ 32)]
        let v := (t.formedWrite u.cur place (leBytes 4 sum)).writeS d (BitVec.ofNat 64 (leNat l))
        Spec.GoesOn s v 4 → exec (.atomFaddF32 g d a b) s = .next (v.nextWord 4)) ∧
    (Spec.Reaches s ea { size := n, acc := .both, via := none } ea.toNat place u → u.homeDie place ≠ u.myDie →
      ∀ e ∈ forms, e.1 < 7 →
      let k := State.agentOf u.myCore
      let x := SMap.get {} (u.die u.myDie).agents k
      x.out.length < Config.agentOutstanding → (∀ r ∈ x.out, r.reqnum.toNat % 64 ≠ x.next.toNat % 64) →
      ∃ w : State, exec e.2 s = .next w ∧ w.me = { u.me with run := .blocked, wait := .reply x.next.toNat } ∧
        (SMap.get {} (w.die u.myDie).agents k).out = x.out ++ [⟨x.next, u.cur, none, d,
          ⟨BitVec.ofNat 8 (2 * e.1 + z.toNat), ea, place, s.readS b, 0⟩, none, u.now u.myDie, []⟩] ∧
        w.cells = u.cells)

/-- R243, R244: a reduction enters the store queue with its operation and operand and completes; it writes no
register. -/
def Sys2Proof.Spec.ReductionsEnterTheQueue : Prop :=
  ∀ (s : State) (g : BitVec 3) (a b : BitVec 5) (place : Nat), s.readP g = true → s.Passes 4 →
    let ea := s.readS a
    ∀ e ∈ ([(0, .redAddW g a b), (1, .redAddD g a b), (2, .redMinW g a b), (3, .redMinD g a b), (4, .redMaxW g a b),
      (5, .redMaxD g a b), (6, .redAndW g a b), (7, .redAndD g a b), (8, .redOrW g a b), (9, .redOrD g a b),
      (10, .redXorW g a b), (11, .redXorD g a b), (16, .redAddF32 g a b)] : List (Nat × Instr)),
    let n := if e.1 % 2 = 0 then 4 else 8
    Spec.Queues s ea { size := n, acc := .both, via := none } place →
    exec e.2 s = .next ((Spec.queued s (.red (BitVec.ofNat 5 e.1) (s.readS b)) (placed place (List.replicate n 0)) ea
      [s.rangeOf ea place n] .no).nextWord 4)

/-- Atomics and reductions. (Spec.AtomicsReturnTheOldValue, Spec.ReductionsEnterTheQueue.) -/
def Obligations.AtomicsAndReductions : Prop := Spec.AtomicsReturnTheOldValue ∧ Spec.ReductionsEnterTheQueue

/-- R247 to R250: on a full word, `LDFE` reads it and leaves it empty, and `LDFF` reads it and leaves it full; on an empty
one the stream waits in its queue, up to the wait limit. `STFL` and `FECLR` enter the store queue. The words of a page that is met
for the first time are empty (`meetFull`; R248, log 75); a page that has been met stays as it is. -/
def Sys2Proof.Spec.FullEmptyWords : Prop :=
  ∀ (s : State) (g : BitVec 3) (d a b : BitVec 5) (place : Nat), s.readP g = true →
    let ea := s.readS a
    (∀ (x : Word) (size : Nat), s.leafOf s.myCore s.myCtxId ea.toNat = .leaf x size →
      (s.myCtx.owner, ea.toNat / size * size, size, x.toNat / 2 ^ 8 % 2 ^ 44 * 2 ^ 8) ∈ s.feMaps → s.meetFull ea.toNat = s) ∧
    (s.meetFull ea.toNat).cells = s.cells ∧ (s.meetFull ea.toNat).streams = s.streams ∧
    (∀ u : State,
      let m := u.meetFull ea.toNat
      let first : Prop := ∀ r ∈ u.feQueue, r.place ≠ place
      let limit : Option Nat := if u.me.fewait = 0 then none else some (u.now u.myDie + u.me.fewait.toNat)
      let waits (take : Bool) : State :=
        State.setMe { m with feQueue := u.feQueue ++ [⟨place, u.cur, take⟩] }
          { u.me with run := .waiting, wait := .fe d take ea place limit }
      (Spec.Reaches s ea { size := 8, acc := .both, fe := true } ea.toNat place u →
        (m.isFull place = false ∨ ¬ first → exec (.ldfe g d a) s = .next (waits true)) ∧
        (m.isFull place = true → first → ∀ (t : State) (l : List Byte), Spec.HomeRead m place 8 t l →
          let v := ((t.formedWrite u.cur place l).setFull place false).writeS d (BitVec.ofNat 64 (leNat l))
          v.isFull place = false ∧ (Spec.GoesOn s v 4 → exec (.ldfe g d a) s = .next (v.nextWord 4)))) ∧
      (Spec.Reaches s ea { size := 8, acc := .load, fe := true } ea.toNat place u →
        (m.isFull place = false ∨ ¬ first → exec (.ldff g d a) s = .next (waits false)) ∧
        (m.isFull place = true → first → ∀ (t : State) (l : List Byte), Spec.HomeRead m place 8 t l →
          let v := t.writeS d (BitVec.ofNat 64 (leNat l))
          Spec.GoesOn s v 4 → exec (.ldff g d a) s = .next (v.nextWord 4)))) ∧
    (s.Passes 4 → Spec.Queues s ea { size := 8, acc := .store, fe := true } place →
      let m := s.meetFull ea.toNat
      exec (.stfl g a b) s = .next ((Spec.queued m (.stfl (s.readS b)) (placed place (leBytes 8 (s.readS b).toNat)) ea
        [s.rangeOf ea place 8] .no).nextWord 4) ∧
      exec (.feclr g a) s = .next ((Spec.queued m .feclr (placed place (leBytes 8 0)) ea
        [s.rangeOf ea place 8] .no).nextWord 4))

/-- R251 to R253: line locks, pins and page locks, with the predicates that tell whether they were granted. -/
def Sys2Proof.Spec.LocksAndPins : Prop :=
  ∀ (s : State) (g e : BitVec 3) (a : BitVec 5), s.readP g = true → s.Passes 4 →
    let ea := s.readS a
    (∀ place : Nat, s.checkLine ea = .ok place →
      let line := place / 128 * 128
      let mine := s.locks.filter fun k => k.ctx = some s.myCtxId
      let t := s.walkIn s.myCore s.myCtxId ea.toNat place
      ((∃ k ∈ s.locks, k.line = line) → exec (.lock g e a) s = t.writesP e true) ∧
      ((∀ k ∈ s.locks, k.line ≠ line) →
        (Config.lockWays ≤ (s.locksOfSet line).length ∨ s.lockableWay line = none ∨ s.myCtx.resq ≤ mine.length →
          exec (.lock g e a) s = t.writesP e false) ∧
        (∀ w, (s.locksOfSet line).length < Config.lockWays → s.lockableWay line = some w → mine.length < s.myCtx.resq →
          ∃ u : State, exec (.lock g e a) s = u.writesP e true ∧ u.locks = s.locks ++ [⟨line, some s.myCtxId, w⟩] ∧
            u.streams = s.streams ∧ u.cells = s.cells)) ∧
      ∃ l : List LineLock, exec (.unlock g a) s = .next (State.nextWord { t with locks := l } 4) ∧
        ∀ k, k ∈ l ↔ k ∈ s.locks ∧ ¬ (k.line = line ∧ k.ctx = some s.myCtxId)) ∧
    (s.localBacked s.myCore ea.toNat = false →
      exec (.pinL g e a) s = .next (s.raise .page ea) ∧ exec (.unpinL g a) s = .next (s.raise .page ea) ∧
      exec (.plockL g e a) s = .next (s.raise .page ea) ∧ exec (.punlockL g a) s = .next (s.raise .page ea)) ∧
    (s.localBacked s.myCore ea.toNat = true →
      let p := ea.toNat / 4096
      let x := s.page s.myCore p
      let held : Prop := x.locked = true ∧ x.holder.toNat = s.cur % 4
      (x.pinned = true → exec (.pinL g e a) s = s.writesP e true ∧
        exec (.unpinL g a) s = .next ((s.setPage s.myCore p { x with pinned := false }).nextWord 4)) ∧
      (x.pinned = false → exec (.unpinL g a) s = .next (s.nextWord 4) ∧
        (Config.pinLimit ≤ s.pinnedCount s.myCore → exec (.pinL g e a) s = s.writesP e false) ∧
        (s.pinnedCount s.myCore < Config.pinLimit →
          let t := s.refill s.myCore p
          let u := (t.setPage s.myCore p { t.page s.myCore p with pinned := true }).writeP e true
          (x.resident = true → t = s) ∧ (Spec.GoesOn s u 4 → exec (.pinL g e a) s = .next (u.nextWord 4)))) ∧
      (held → exec (.plockL g e a) s = s.writesP e true ∧
        (s.me.storeQ = [] → s.liveCopies s.cur = [] → s.Passes 4 → exec (.punlockL g a) s =
          .next ((s.setPage s.myCore p { x with locked := false }).nextWord 4))) ∧
      (¬ held → exec (.punlockL g a) s = .next (s.nextWord 4) ∧
        (x.locked = true ∨ s.holdsAny = true → exec (.plockL g e a) s = s.writesP e false) ∧
        (x.locked = false → s.holdsAny = false → exec (.plockL g e a) s = State.writesP
          (s.setPage s.myCore p { x with locked := true, holder := BitVec.ofNat 2 s.cur }) e true)))

/-- Full/empty words, locks and pins. (Spec.FullEmptyWords, Spec.LocksAndPins.) The set of a line is the model's choice (log
17). -/
def Obligations.FullEmptyLocksAndPins : Prop := Spec.FullEmptyWords ∧ Spec.LocksAndPins

/-- R283 to R285: a fence with no older access to wait for passes on; an acquire half drops what an acquire of its scope and
ranges drops, and L1I lines at any scope. A release half with an older copy or tree command outstanding holds the word. -/
def Sys2Proof.Spec.FencesOrderAccesses : Prop :=
  ∀ (s : State) (g : BitVec 3) (r : BitVec 1) (m : BitVec 8) (sc : Scope), s.readP g = true → s.Passes 4 →
    let own := ((s.ownerOf s.myCore).map (·.1)).getD 0
    let ranges : Option (List (Nat × Nat)) := if r = 1 then some (s.me.globalRanges m) else none
    let idle : Prop := s.me.storeQ = [] ∧ s.liveCopies s.cur = [] ∧ s.steCommands s.cur = []
    let acquired (u : State) : Prop :=
      Spec.Acquires s u sc ranges ∧
      (u.core s.myCore).l1i = (s.core s.myCore).l1i.filter fun e => !lineHit s ranges own e.1 e.2
    (∃ u, exec (.fenceAcq g r m sc) s = .next (u.nextWord 4) ∧ acquired u) ∧
    (idle → exec (.fenceRel g r m sc) s = .next (s.nextWord 4) ∧
      ∃ u, exec (.fenceAr g r m sc) s = .next (u.nextWord 4) ∧ acquired u) ∧
    (r = 0 → s.me.storeQ = [] →
      ((∃ c ∈ s.liveCopies s.cur, c.seq < s.me.seqNext) ∨ (∃ c ∈ s.steCommands s.cur, c.seq < s.me.seqNext)) →
      exec (.fenceRel g r m sc) s = .next s.holdWord ∧ exec (.fenceAr g r m sc) s = .next s.holdWord)

/-- R254 to R258: `MON.ARM` arms a monitor on the line of an address and enters it at its slice; `MON.DISARM` withdraws
it; `MON.WAIT` returns 0 with no monitor armed, the fired monitors where one has fired, and waits otherwise. -/
def Sys2Proof.Spec.MonitorWords : Prop :=
  ∀ (s : State) (g : BitVec 3) (a d : BitVec 5) (k : BitVec 2), s.readP g = true → s.Passes 4 →
    let ea := s.readS a
    let others := s.monEntries.filter fun e => !(e.stream == s.cur && e.reg == k.toNat)
    let put (t : State) (l : List MonEntry) (x : MonReg) : State :=
      State.setMe { t with monEntries := l } { s.me with m := s.me.m.set k.toNat x }
    let fired (j : Nat) : Bool := (s.me.m.toList.getD j {}).fired
    (∀ place : Nat, s.checkScalar ea { size := 1, acc := .load } = .ok place → exec (.monArm g a k) s =
      .next ((put (s.walkIn s.myCore s.myCtxId ea.toNat place) (others ++ [⟨place / 128 * 128, s.cur, k.toNat⟩]) ⟨ea.extractLsb' 7 41, false, true⟩).nextWord 4)) ∧
    exec (.monDisarm g k) s =
      .next ((put s others { s.me.m[k.toNat] with fired := false, armed := false }).nextWord 4) ∧
    ((∀ j : Fin 4, s.me.m[j].armed = false) → exec (.monWait g d a) s = s.writesS d 0) ∧
    ((∃ j : Fin 4, s.me.m[j].armed = true) →
      ((∃ j, j < 4 ∧ fired j = true) → exec (.monWait g d a) s = State.writesS
        (s.setMe { s.me with m := s.me.m.map fun r => { r with fired := false } }) d
        (BitVec.ofNat 64 (256 + (fired 0).toNat + 2 * (fired 1).toNat + 4 * (fired 2).toNat + 8 * (fired 3).toNat))) ∧
      ((∀ j, j < 4 → fired j = false) →
        let n := (s.readS a).toNat % 2 ^ 32
        exec (.monWait g d a) s = .next (s.setMe { s.me with
          run := .waiting, wait := .mon d (if n = 0 then none else some (s.now s.myDie + n)) })))

/-- Fences and monitors. (Spec.FencesOrderAccesses, Spec.MonitorWords.) How a ranged acquire compares lines is the model's
reading (log 32). -/
def Obligations.FencesAndMonitors : Prop := Spec.FencesOrderAccesses ∧ Spec.MonitorWords

/-! ## Copies (chapter 09) -/

/-- The register `st` of the running stream awaits the word that `id` will bring. -/
def Sys2Proof.Spec.awaits (s : State) (st : BitVec 5) (id : Nat) (t : Stream) : Prop :=
  st ≠ 0 → ∃ e ∈ t.pending, e.reg = s.me.bankOf st ∧ e.id = id

/-- R259 to R263: a copy whose handles pass the checks of R260, with a record free and no slot's count full, is accepted: the record
holds the two handles, nothing is transferred yet, and the token register awaits its token. A `.B` copy is bound to the
group's present phase, or to the next where its stream has arrived already. A failed check raises FORMAT. -/
def Sys2Proof.Spec.CopiesAreAccepted : Prop :=
  ∀ (s : State) (g : BitVec 3) (d a : BitVec 4) (st : BitVec 5) (k : BitVec 3) (toLocal bound : Bool),
    s.readP g = true → s.Passes 4 →
    let i : Instr := if bound then (if toLocal then .copyG2lB g d a st k else .copyL2gB g d a st k)
      else if toLocal then .copyG2l g d a st else .copyL2g g d a st
    let src : Handle := s.me.h[a.toNat]
    let dst : Handle := s.me.h[d.toNat]
    let gid : BitVec 8 := BitVec.ofNat 8 (s.me.x[k.toNat]).toNat
    let fine : Prop := State.copyValid toLocal src dst = true ∧ (bound = true → s.isMember gid = true)
    (¬ fine → exec i s = .next (s.raise .format 0)) ∧
    (fine → s.freeRecord = none → exec i s = .next s.holdWord) ∧
    (∀ rec, fine → s.freeRecord = some rec → (s.core s.myCore).copyFrozen = false →
      s.me.countFull (s.me.tracking s.myCore [handleRange s.myCore src, handleRange s.myCore dst]) = false →
      ∃ (u : State) (r : CopyRec), exec i s = .next (u.nextWord 4) ∧ u.copyRec s.myCore rec = some r ∧
        r.stream = s.cur % 4 ∧ r.toLocal = toLocal ∧ r.src = src ∧ r.dst = dst ∧ r.done = 0 ∧ r.phase = .active ∧
        r.reg = st ∧ Spec.awaits s st r.tokenId u.me ∧ u.me.s = s.me.s ∧
        (bound = false → r.binding = none ∧ u.cells = s.cells) ∧
        (bound = true →
          let x := s.group s.myCtxId gid
          r.binding = some ⟨gid, if x.arrived.getLsbD s.myMember = true then x.phase + 1 else x.phase⟩))

/-- R265, R266: the words on a token. One whose status is no fault passes `COPY.CHK`, and a faulted one raises COPYFAULT
with the address of the element that faulted. `COPY.RESUME` starts the record's copy again where it stopped;
`COPY.CANCEL` frees it and leaves a token that is no fault; a word that is no token of a faulted copy of the stream raises
FORMAT in these two. -/
def Sys2Proof.Spec.TokenWords : Prop :=
  ∀ (s : State) (g : BitVec 3) (st : BitVec 5), s.readP g = true → s.Passes 4 →
    let w := s.readS st
    let status := w.toNat / 2 ^ 32 % 2 ^ 8
    let faulted : Prop := status = 4 ∨ status = 5 ∨ status = 15 ∨ status = 32
    (¬ faulted → exec (.copyChk g st) s = .next (s.nextWord 4)) ∧
    (∀ r e p addr, faulted → s.copyRec s.myCore (w.toNat / 2 ^ 44 % 16) = some r → r.phase = .faulted e p addr →
      exec (.copyChk g st) s = .next (s.raise .copyFault addr)) ∧
    (State.tokenRecord s w = none →
      exec (.copyResume g st) s = .next (s.raise .format 0) ∧ exec (.copyCancel g st) s = .next (s.raise .format 0)) ∧
    (∀ rec r, State.tokenRecord s w = some (rec, r) →
      (s.me.countFull (s.me.tracking s.myCore (r.ranges s.myCore)) = false → (s.core s.myCore).copyFrozen = false →
        ∃ (u : State) (q : CopyRec), exec (.copyResume g st) s = .next (u.nextWord 4) ∧
          u.copyRec s.myCore rec = some q ∧ q.done = r.done ∧ q.phase = .active ∧ q.src = r.src ∧ q.dst = r.dst ∧
          q.binding = r.binding ∧ Spec.awaits s st q.tokenId u.me ∧ u.cells = s.cells) ∧
      (r.binding = none →
        let c := s.core s.myCore
        exec (.copyCancel g st) s = State.writesS (s.setCore s.myCore { c with copies := SMap.erase c.copies rec }) st
          (BitVec.ofNat 64 (w.toNat / 2 ^ 40 % 2 * 2 ^ 40 + 33 * 2 ^ 32 + r.progress % 2 ^ 25))) ∧
      (∀ b, r.binding = some b →
        let c := s.core s.myCore
        let t := (s.setCore s.myCore { c with copies := SMap.erase c.copies rec }).deliverArrival s.myCtxId b true
        let u := t.writeS st (BitVec.ofNat 64 (w.toNat / 2 ^ 40 % 2 * 2 ^ 40 + 33 * 2 ^ 32 + r.progress % 2 ^ 25))
        Spec.GoesOn s u 4 → exec (.copyCancel g st) s = .next (u.nextWord 4)))

/-- Copies and their tokens. (Spec.CopiesAreAccepted, Spec.TokenWords.) Which free record a copy takes is the model's choice
(log 73). -/
def Obligations.CopyWords : Prop := Spec.CopiesAreAccepted ∧ Spec.TokenWords

/-! ## Tasks, groups, barriers (chapter 11) -/

/-- The stream has no older store, and no command to a tree outstanding. -/
def Sys2Proof.Spec.settled (s : State) : Prop := s.me.storeQ = [] ∧ s.steCommands s.cur = []

/-- R296, R297: a task inserted on a die whose heap has a free entry stands there under the next insertion number, and is
bound only where its context holds a core on that die. -/
def Sys2Proof.Spec.InsertionNumbersTheTask : Prop :=
  ∀ (s : State) (c d : Nat) (t : Task), (s.die d).heap.length < Config.heapEntries →
    s.insertTask c d t = s.setDie d { s.die d with
      inserted := (s.die d).inserted + 1
      heap := (s.die d).heap ++ [{ t with
        seq := (s.die d).inserted, die := d, bound := t.bound && s.holdsCoreOn c d }] }

/-- R296, R304: `TASK.SPAWN` reads a 64-byte image once the older accesses have performed; an image that is not clean raises
FORMAT; else it inserts its task, where there is room and its group has a member, and answers in a predicate. What crosses to the
other die waits while the link does not carry it. -/
def Sys2Proof.Spec.SpawnInsertsTheTask : Prop :=
  ∀ (s u t : State) (g d : BitVec 3) (a : BitVec 5) (x : BitVec 1) (place : Nat) (l : List Byte),
    s.readP g = true → Spec.settled s →
    s.checkScalar (s.readS a) { size := 64, acc := .load } = .ok place →
    u = s.startReads .home [((s.readS a).toNat, place, 64)] → u.heldBack u.cur = false → u.readHome place 64 = (t, .ok l) →
    let img := SpawnImage.ofBytes l
    let die := if img.far then 1 - u.myDie else u.myDie
    let room : Prop := t.groupNamed t.myCtxId img.task = true ∧ 0 < t.heapRoom (if img.far then 1 - t.myDie else t.myDie) t.myCtxId
    let ends (v : State) : Prop := Spec.GoesOn s v 4 → exec (.taskSpawn g d a x) s = .next (v.nextWord 4)
    (img.clean = false → exec (.taskSpawn g d a x) s = .next (s.raise .format (s.readS a))) ∧
    (img.clean = true → u.reaches (.core u.myCore) (.heap die) = false → Spec.WaitsForLink s (exec (.taskSpawn g d a x) s)) ∧
    (img.clean = true → u.reaches (.core u.myCore) (.heap die) = true →
      (¬ room → ends (t.writeP d false)) ∧
      (room → ends (State.writeP (t.insertTask t.myCtxId (if img.far then 1 - t.myDie else t.myDie)
        { img.task with bound := decide (x = 1), owner := t.myCtx.owner }) d true)))

/-- R309: `CANCEL` of tag 0 writes 0 and crosses nothing. Of any other tag it removes the tasks of the context with the tag that are
queued on either die or on their way to a stream, counts them in S[d], and signals the streams whose task carries it; it waits
while the link does not carry it. -/
def Sys2Proof.Spec.CancelRemovesTheTag : Prop :=
  ∀ (s : State) (g : BitVec 3) (d a : BitVec 5), s.readP g = true → s.Passes 4 →
    let tag : BitVec 16 := (s.readS a).setWidth 16
    (tag = 0 → exec (.cancel g d a) s = s.writesS d 0) ∧
    (tag ≠ 0 → s.reaches (.core s.myCore) (.heap (1 - s.myDie)) = false → Spec.WaitsForLink s (exec (.cancel g d a) s)) ∧
    (tag ≠ 0 → s.reaches (.core s.myCore) (.heap (1 - s.myDie)) = true →
      ∃ (u : State) (n : Nat), exec (.cancel g d a) s = u.writesS d (BitVec.ofNat 64 n) ∧
        let hit (t : Task) : Bool := t.owner == s.myCtx.owner && t.tag == tag
        let given (m : Msg) : Bool := match m with
          | .taskGiven _ k _ => hit k
          | _ => false
        n = ((s.queued 0).filter hit).length + ((s.queued 1).filter hit).length + (s.net.filter given).length ∧
        (∀ die, die < 2 → u.queued die = (s.queued die).filter fun t => !hit t) ∧
        (∀ q, (s.ownerOf (q / 4)).map (·.1) = some s.myCtxId → (∃ k, (s.stream q).task = some k ∧ k.tag = tag) →
          (u.stream q).pend = (s.stream q).pend ||| 16#5) ∧
        u.cells = s.cells)

/-- R296, R302 to R306, R309: the task words, of `Spec.SpawnInsertsTheTask` and `Spec.CancelRemovesTheTag` and these:
`TASK.NEXT` ends the task and waits for another; `TASK.YIELD` also puts the task back with the next address as entry;
`TASK.DONE` idles the stream; `TASK.INFO` reads a field. Which images are clean is as log 40 says. -/
def Obligations.TaskWords : Prop :=
  Spec.InsertionNumbersTheTask ∧ Spec.SpawnInsertsTheTask ∧ Spec.CancelRemovesTheTag ∧
  ∀ (s : State) (g : BitVec 3), s.readP g = true →
    (s.me.level = false →
      (let asked (u : State) : State :=
        let y := u.die u.myDie
        let v := u.setDie u.myDie { y with takes := y.takes ++ [u.cur] }
        v.setMe { v.me with task := none, run := .waiting, wait := .taskNext false }
       exec (.taskNext g) s = .next (asked s) ∧
       exec (.taskDone g) s = .next (s.setMe { s.me with task := none, run := .idle, wait := .none }) ∧
       ∀ a : BitVec 5,
        (s.me.task = none → exec (.taskYield g a) s = .next (s.raise .format 0)) ∧
        ∀ k : Task, s.me.task = some k → Spec.settled s →
          (s.heapRoom s.myDie s.myCtxId = 0 → s.Passes 4 → exec (.taskYield g a) s = .next (s.nextWord 4)) ∧
          (0 < s.heapRoom s.myDie s.myCtxId → exec (.taskYield g a) s = .next (asked (s.insertTask s.myCtxId s.myDie
            { k with entry := s.me.pc + 4, key := (s.readS a).setWidth 32,
                     args := #v[s.readS 1, s.readS 2, s.readS 3, s.readS 4] }))))) ∧
    (s.Passes 4 → ∀ d : BitVec 5,
      (s.me.task = none → ∀ k : BitVec 3, exec (.taskInfo g d k) s = s.writesS d 0) ∧
      (∀ t : Task, s.me.task = some t →
        exec (.taskInfo g d 0) s = s.writesS d (BitVec.ofNat 64 t.key.toNat) ∧
        exec (.taskInfo g d 1) s = s.writesS d (BitVec.ofNat 64 (t.tag.toNat + 2 ^ 16 * t.group.toNat +
          2 ^ 24 * t.hasGroup.toNat + 2 ^ 25 * t.bound.toNat)) ∧
        exec (.taskInfo g d 6) s = s.writesS d t.entry ∧
        exec (.taskInfo g d 2) s = s.writesS d t.args[0] ∧ exec (.taskInfo g d 3) s = s.writesS d t.args[1] ∧
        exec (.taskInfo g d 4) s = s.writesS d t.args[2] ∧ exec (.taskInfo g d 5) s = s.writesS d t.args[3]))

/-- R312 to R314: `GJOIN` joins a group that has room, a free one with the size of the word, and answers in a predicate;
`GLEAVE` leaves one. Both wait while the link does not carry them to the group's home. -/
def Sys2Proof.Spec.GroupMembership : Prop :=
  ∀ (s : State) (g : BitVec 3) (d : BitVec 3) (a : BitVec 5) (tb : BitVec 1), s.readP g = true → s.Passes 4 →
    let w := s.readS a
    let k : BitVec 8 := w.setWidth 8
    let x := s.group s.myCtxId k
    let i := s.myMember
    let n := w.toNat / 2 ^ 16 % 2 ^ 11
    let here : Prop := x.size = 0 ∨ s.reaches (.core s.myCore) (.group x.home) = true
    let refused : Prop := 4 ≤ s.me.groups.length ∨ x.broken = true ∨ (x.size ≠ 0 ∧ x.memberCount = x.size)
    let joined (y : Group) : State :=
      let t := s.setGroup s.myCtxId k { y with
        members := setField y.members i 1 1, tflags := setField y.tflags i 1 tb.toNat }
      t.setMe { t.me with groups := t.me.groups ++ [⟨k, decide (tb = 1)⟩] }
    (¬ here → Spec.WaitsForLink s (exec (.gjoin g d a tb) s) ∧ Spec.WaitsForLink s (exec (.gleave g a) s)) ∧
    (here → s.isMember k = true → exec (.gjoin g d a tb) s = s.writesP d true) ∧
    (here → s.isMember k = false →
      (refused → exec (.gjoin g d a tb) s = s.writesP d false) ∧
      (¬ refused → x.size = 0 → (n = 0 ∨ 1024 < n) → exec (.gjoin g d a tb) s = .next (s.raise .format w)) ∧
      (¬ refused → x.size = 0 → 0 < n → n ≤ 1024 → exec (.gjoin g d a tb) s =
        State.writesP (joined { Group.free with size := n, home := s.myDie }) d true) ∧
      (¬ refused → x.size ≠ 0 → exec (.gjoin g d a tb) s = State.writesP (joined x) d true) ∧
      exec (.gleave g a) s = .next (s.nextWord 4)) ∧
    (here → s.isMember k = true →
      (s.undelivered s.cur k = true → exec (.gleave g a) s = .next (s.raise .format (BitVec.ofNat 64 k.toNat))) ∧
      (s.undelivered s.cur k = false → ∃ u : State, exec (.gleave g a) s = .next (u.nextWord 4) ∧
        u.me.groups = s.me.groups.filter fun m => m.group ≠ k))

/-- R315 to R317: the barrier words. An arrival counts in the present phase; `BAR` waits for the phase unless its own arrival
completes it, and then acquires and writes the error flag; `BAR.ARR` writes the phase and goes on; `BAR.WAIT` goes on at
once where the phase it names is over. They wait while the link does not carry them to the group's home. -/
def Sys2Proof.Spec.BarrierWords : Prop :=
  ∀ (s : State) (g : BitVec 3) (d : BitVec 3) (e a : BitVec 5), s.readP g = true → s.Passes 4 →
    let w := s.readS a
    let k : BitVec 8 := w.setWidth 8
    let x := s.group s.myCtxId k
    let mine := x.arrived.getLsbD s.myMember
    let t := s.arrive s.myCtxId k s.myMember
    let waits (u : State) (v : Wait) : Out := .next (u.setMe { u.me with run := .waiting, wait := v })
    let ends (u : State) (err : Bool) (i : Instr) : Prop :=
      let v := ((u.acquireAt u.cur .device none).forgetAhead u.cur).writeP d err
      Spec.GoesOn s v 4 → exec i s = .next (v.nextWord 4)
    let here : Prop := x.size = 0 ∨ s.reaches (.core s.myCore) (.group x.home) = true
    (s.isMember k = false →
      exec (.bar g d a) s = .next (s.raise .format (BitVec.ofNat 64 k.toNat)) ∧
      exec (.barArr g e a) s = .next (s.raise .format (BitVec.ofNat 64 k.toNat)) ∧
      exec (.barWait g d a) s = .next (s.raise .format (BitVec.ofNat 64 k.toNat))) ∧
    (s.isMember k = true → ¬ here → Spec.WaitsForLink s (exec (.bar g d a) s) ∧
      Spec.WaitsForLink s (exec (.barArr g e a) s) ∧ Spec.WaitsForLink s (exec (.barWait g d a) s)) ∧
    (s.isMember k = true → here → x.broken = true →
      exec (.bar g d a) s = .next (s.raise .groupBroken (BitVec.ofNat 64 k.toNat)) ∧
      exec (.barArr g e a) s = .next (s.raise .groupBroken (BitVec.ofNat 64 k.toNat))) ∧
    (s.isMember k = true → here → x.broken = false → Spec.settled s → s.liveCopies s.cur = [] →
      (mine = true → exec (.bar g d a) s = waits s (.bar d k x.phase false) ∧
        exec (.barArr g e a) s = waits s (.barArr e k x.phase)) ∧
      (mine = false →
        let y := t.group s.myCtxId k
        (y.phase = x.phase → exec (.bar g d a) s = waits t (.bar d k x.phase true)) ∧
        (y.phase ≠ x.phase → ends t y.err (.bar g d a)) ∧
        (let u := t.writeS e (BitVec.ofNat 64 (x.phase.toNat * 2 ^ 32 + k.toNat))
         Spec.GoesOn s u 4 → exec (.barArr g e a) s = .next (u.nextWord 4)))) ∧
    (s.isMember k = true → here →
      let q : BitVec 32 := BitVec.ofNat 32 (w.toNat / 2 ^ 32)
      let ahead := (x.phase - q).toNat
      (1 ≤ ahead → ahead < 2 ^ 31 → ends s (x.err && q == x.phase - 1) (.barWait g d a)) ∧
      (¬ (1 ≤ ahead ∧ ahead < 2 ^ 31) →
        (x.broken = true → exec (.barWait g d a) s = s.writesP d true) ∧
        (x.broken = false → exec (.barWait g d a) s = waits s (.barWait d k q))))

/-- Group memberships and barriers. (Spec.GroupMembership, Spec.BarrierWords.) What a free group answers, the arrivals in a
broken group and a second arrival are the model's readings (logs 33, 34, 41). -/
def Obligations.GroupAndBarrierWords : Prop := Spec.GroupMembership ∧ Spec.BarrierWords

/-! ## Sum-tree commands, range slots, counters (chapters 12 to 15) -/

/-- A command to the sum-tree engine of tree `n` is accepted: it goes to that engine with its operands, and S[d] awaits
its reply. -/
def Sys2Proof.Spec.Sends (s : State) (minor : BitVec 5) (n : Nat) (d : BitVec 5) (sa : Word) (k : BitVec 6) (o : Out) : Prop :=
  ∃ (u : State) (c : SteCmd), o = .next (u.nextWord 4) ∧ u.net = s.net ++ [.steCmd (n / 16) c] ∧
    c.minor = minor ∧ c.tree = n ∧ c.ctx = s.myCtxId ∧ c.stream = s.cur ∧ c.reg = d ∧ c.sa = sa ∧ c.sd = s.readS d ∧
    c.k6 = k ∧ Spec.awaits s d c.replyId u.me ∧ u.me.s = s.me.s ∧ u.cells = s.cells

/-- R378, R379: the checks of a tree command on its operands, and the command that it sends. -/
def Sys2Proof.Spec.TreeCommandWords : Prop :=
  ∀ (s : State) (g : BitVec 3) (d a : BitVec 5), s.readP g = true → s.Passes 4 → s.steRoom = true →
    (∀ l, s.me.countFull (s.me.tracking s.myCore l) = false) →
    let x := s.readS a
    let y := s.readS d
    let format (i : Instr) : Prop := exec i s = .next (s.raise .format 0)
    let tree := x.toNat / 2 ^ 24 % 64
    (x.toNat / 2 ^ 30 % 4 = 0 → Spec.Sends s 1 tree d x 0 (exec (.steIns g d a) s)) ∧
    (x.toNat / 2 ^ 30 % 4 ≠ 0 → format (.steIns g d a) ∧ format (.steUpd g d a)) ∧
    (x.toNat / 2 ^ 30 % 4 = 0 → y.toNat < 2 ^ 16 → Spec.Sends s 2 tree d x 0 (exec (.steUpd g d a) s)) ∧
    (2 ^ 16 ≤ y.toNat → format (.steUpd g d a)) ∧
    (∀ b : BitVec 6,
      (2 ^ 48 ≤ x.toNat → exec (.steDraw g d a b) s = .next (s.raise .page x)) ∧
      (x.toNat < 2 ^ 48 → x.toNat % 64 ≠ 0 → exec (.steDraw g d a b) s = .next (s.raise .align x)) ∧
      (x.toNat < 2 ^ 48 → x.toNat % 64 = 0 → 64 ≤ y.toNat → format (.steDraw g d a b)) ∧
      (x.toNat < 2 ^ 48 → x.toNat % 64 = 0 → y.toNat < 64 → Spec.Sends s 3 y.toNat d x b (exec (.steDraw g d a b) s))) ∧
    (∀ q : BitVec 6,
      let fine : Prop := y.toNat / 2 ^ 6 % 4 = 0 ∧ y.toNat < 2 ^ 32 ∧ (q = 4 ∨ y.toNat / 2 ^ 8 % 2 ^ 24 = 0)
      (¬ fine → format (.steSum g d q)) ∧
      (fine → Spec.Sends s 4 (y.toNat % 64) d 0 q (exec (.steSum g d q) s))) ∧
    (∀ place (u t : State) (l : List Byte), Spec.Reaches s x { size := 64, acc := .load } x.toNat place u →
      u.readHome place 64 = (t, .ok l) → Spec.GoesOn s t 4 → t.steRoom = true →
      (∀ l, t.me.countFull (t.me.tracking t.myCore l) = false) →
      let img := leNat l
      (64 ≤ img / 2 ^ 8 % 2 ^ 8 → exec (.steCfg g d a) s = .next (s.raise .format x)) ∧
      (img / 2 ^ 8 % 2 ^ 8 < 64 → Spec.Sends t 0 (img / 2 ^ 8 % 2 ^ 8) d x 0 (exec (.steCfg g d a) s)))

/-- R393 to R399, R402, R406: range slots are bound and unbound, with their count at 0, and read; a claim takes a chunk of
a loop nest at its home; a stall counter is read. -/
def Sys2Proof.Spec.RangeNestAndCounterWords : Prop :=
  ∀ (s : State) (g : BitVec 3) (n : BitVec 3) (d a b : BitVec 5), s.readP g = true → s.Passes 4 →
    let slot := s.me.n[n.toNat]
    let bind (x : RangeSlot) : Out :=
      .next ((s.setMe { s.me with n := s.me.n.set n.toNat { x with gen := slot.gen + 1 } }).nextWord 4)
    let ea := s.readS a
    let top := ea.toNat / 2 ^ 48
    let off := ea.toNat % 2 ^ 48
    let len := (s.readS b).toNat
    let limit := if top = 0 then 2 ^ 48 else 2 ^ 20
    exec (.rangeClr g n) s = bind {} ∧
    (top ≠ 0 → top ≠ 0xFFFF → exec (.rangeTag g n a b) s = .next (s.raise .format ea)) ∧
    (top = 0 ∨ top = 0xFFFF →
      (len = 0 → exec (.rangeTag g n a b) s = bind {}) ∧
      (len ≠ 0 → limit < off + len → exec (.rangeTag g n a b) s = .next (s.raise .format ea)) ∧
      (len ≠ 0 → off + len ≤ limit → exec (.rangeTag g n a b) s =
        bind ⟨true, decide (top ≠ 0), 0, BitVec.ofNat 48 len, BitVec.ofNat 48 off, 0⟩)) ∧
    (∀ k : BitVec 4,
      let h : Handle := s.me.h[k.toNat]
      let r := Handle.bounding h
      let wrong : Prop := h.isEmpty = true ∨ r.1 < 0 ∨ (h.limit : Int) < r.2
      (wrong → exec (.rangeTagH g n k) s = .next (s.raise .format 0)) ∧
      (¬ wrong → exec (.rangeTagH g n k) s =
        bind ⟨true, h.space, 0, BitVec.ofNat 48 (r.2 - r.1).toNat, BitVec.ofNat 48 r.1.toNat, 0⟩)) ∧
    (exec (.rangeRd g d n 0) s = s.writesS d
        (BitVec.ofNat 64 (slot.count.toNat + 2 ^ 16 * slot.space.toNat + 2 ^ 17 * slot.bound.toNat)) ∧
      exec (.rangeRd g d n 1) s = s.writesS d (BitVec.ofNat 64 slot.base.toNat) ∧
      exec (.rangeRd g d n 2) s = s.writesS d (BitVec.ofNat 64 slot.length.toNat)) ∧
    (∀ (place : Nat) (y : State), Spec.Reaches s ea { size := 32, acc := .both, via := none } ea.toNat place y →
      y.homeDie place = y.myDie →
      ∀ (t : State) (l : List Byte), Spec.HomeRead (if 2 ^ 52 ≤ place then y.toHostBare else y) place 32 t l →
        let x := Nest.ofBytes l
        let c := min (x.total - x.next) (max x.least ((x.total - x.next + 2 * x.claimants - 1) / (2 * x.claimants)))
        (x.malformed = true → exec (.nestClaim g d a) s = .next (s.raise .format ea)) ∧
        (x.malformed = false → x.next = x.total → Spec.GoesOn s t 4 → exec (.nestClaim g d a) s = t.writesS d 0) ∧
        (x.malformed = false → x.next < x.total →
          let u := (t.formedWrite y.cur place (leBytes 8 (x.next + c))).writeS d (BitVec.ofNat 64 c)
          let v := u.setMe { u.me with i := x.indices x.next }
          Spec.GoesOn s v 4 → exec (.nestClaim g d a) s = .next (v.nextWord 4))) ∧
    (let w := (s.readS a).toNat
     let fine : Prop := w % 2 ^ 8 ≤ 51 ∧ w < 2 ^ 9
     (¬ fine → exec (.perfRd g d a) s = .next (s.raise .format 0)) ∧
     (fine → exec (.perfRd g d a) s = s.writesS d (s.bank (w / 2 ^ 8) s.myCtxId (w % 2 ^ 8))))

/-- Commands to the sum trees, range slots, nests and counters. (Spec.TreeCommandWords, Spec.RangeNestAndCounterWords.) The
ranges of a tree command are the model's reading (log 63). -/
def Obligations.TreeRangeAndCounterWords : Prop := Spec.TreeCommandWords ∧ Spec.RangeNestAndCounterWords

/-! ## Steps of the machine that are no words: cores, queues, memory -/

/-- An entry of a core's partitions that an engine may take: its sources are produced, and registers are free. -/
def Sys2Proof.Spec.mayTake (s : State) (c : Nat) (e : Engine) (y : Nat × TrbEntry) : Prop :=
  y.2.engine = some e ∧ y.2.issued = false ∧ s.entryReady c y = true
/-- An entry that an engine has taken and not completed. -/
def Sys2Proof.Spec.runsOn (e : Engine) (y : Nat × TrbEntry) : Prop :=
  y.2.engine = some e ∧ y.2.issued = true ∧ y.2.completed = false

/-- What a blocked stream waits for has arrived, as far as its own registers and entries say it. -/
def Sys2Proof.Spec.hasArrived (t : Stream) : Prop :=
  match t.wait with
  | .operands l => t.unproduced l = []
  | .room => t.trb.length < Config.trbPartition
  | .retired => t.trb = []
  | _ => False

/-- A stream before and after a step of its core that may make it ready: nothing else of it changes. -/
def Sys2Proof.Spec.onlyReleased (t u : Stream) : Prop := u = t ∨ (t.run = .blocked ∧ u = { t with run := .ready, wait := .none })

/-- R19, R163, R165, R171, R173: a free engine takes the entry of the earliest course that is ready for it, for its
occupancy, twice that of a matrix word while the device is narrow; a free engine completes the entry of the earliest course
that it has; at most two completed heads of a core retire at a time, and one where one may; a clock cycle of a core counts,
its engines go on, blocked streams become ready when what they wait for has arrived, events meet its streams, and the stream
whose turn it is then gets the next decode slot. -/
def Sys2Proof.Spec.EngineSteps : Prop :=
  ∀ (s : State) (c : Nat) (e : Engine), c < Config.coreCount →
    let k := s.core c
    let l := s.coreEntries c
    (State.busyOf k e = 0 → (∃ y ∈ l, Spec.mayTake s c e y) →
      ∃ j x u, exec (.entryIssue c e) s = .next u ∧ (j, x) ∈ l ∧ Spec.mayTake s c e (j, x) ∧
        (∀ y ∈ l, Spec.mayTake s c e y → x.course ≤ y.2.course) ∧
        (∀ y ∈ (u.stream (4 * c + j)).trb, y.seq = x.seq → y.issued = true) ∧
        (u.core c).grants = k.grants ++ [(k.cycle, e, j)] ∧
        State.busyOf (u.core c) e = (if e = .matrix ∧ s.board.narrow = true then 2 * x.occ else x.occ) ∧
        u.cells = s.cells) ∧
    (State.busyOf k e = 0 → (∃ y ∈ l, Spec.runsOn e y) →
      ∃ j x u, exec (.engineCompletion c e) s = .next u ∧ (j, x) ∈ l ∧ Spec.runsOn e (j, x) ∧
        (∀ y ∈ l, Spec.runsOn e y → x.course ≤ y.2.course) ∧
        (∀ y ∈ (u.stream (4 * c + j)).trb, y.seq = x.seq → y.completed = true) ∧ u.cores = s.cores ∧ u.cells = s.cells) ∧
    (∃ (u : State) (n : Nat → Nat), exec (.trbRetire c) s = .next u ∧
      (∀ j, j < 4 → (u.stream (4 * c + j)).trb = (s.stream (4 * c + j)).trb.drop (n j) ∧
        ∀ x ∈ (s.stream (4 * c + j)).trb.take (n j), x.completed = true) ∧
      n 0 + n 1 + n 2 + n 3 ≤ 2 ∧
      ((∃ j, j < 4 ∧ (State.mayRetire (s.stream (4 * c + j))).isSome = true) → 1 ≤ n 0 + n 1 + n 2 + n 3) ∧
      u.cells = s.cells) ∧
    (∃ w : State, (w.core c).cycle = k.cycle + 1 ∧ (w.core c).busy = k.busy.map (· - 1) ∧ w.agenda = s.agenda ∧
      w.cells = s.cells ∧ (∀ q, q / 4 ≠ c → w.stream q = s.stream q) ∧
      (∀ q, q / 4 = c → Spec.onlyReleased (s.stream q) (w.stream q)) ∧
      (∀ q, q / 4 = c → (s.stream q).run = .blocked → Spec.hasArrived (s.stream q) → (w.stream q).run = .ready) ∧
      let v := [4 * c, 4 * c + 1, 4 * c + 2, 4 * c + 3].foldl State.takeEvent w
      ((∀ q, q / 4 = c → (s.stream q).firstEvent = none) → v = w) ∧
      (∀ j, v.rotation c = some j → exec (.coreClockCycle c) s = .next { v with agenda := .slot (4 * c + j) :: v.agenda }) ∧
      (v.rotation c = none → exec (.coreClockCycle c) s = .next v))

/-- A stream waits and is not moving. -/
def Sys2Proof.Spec.waitsWith (s : State) (q : Nat) (w : Wait) : Prop :=
  q < Config.streamCount ∧ (s.stream q).run = .waiting ∧ (s.stream q).wait = w

/-- An entry of the TRB but for the timer deadline that it brings back. -/
def Sys2Proof.Spec.withoutTdead (e : TrbEntry) : TrbEntry := { e with before := { e.before with tdead := 0 } }

/-- R49, R117, R166, R167, R198, R202, R203, R250, R258, R410: what ends or interrupts a stream without a word of its own. A
word that decode rejects raises ILLEGAL, a fetch that fails its cause, with an entry of the TRB of its own; a stream that
decodes comes to its event point and takes its first pending event there, in the order cancelled, group broken, host, timer,
migration; a deadline of the timer that has come sets its pending bit; a wait limit that has passed raises WAITLIMIT, unless
the home has served the request; `MON.WAIT` ends with reason 1 when a monitor has fired and 2 at its deadline. -/
def Sys2Proof.Spec.StreamSteps : Prop :=
  ∀ (s : State) (q : Nat), q < Config.streamCount →
    let t := s.stream q
    let u := { s with cur := q }
    exec .illegalWord s = .next (s.raise .illegal 0) ∧
    (u.rotation (q / 4) = some (q % 4) →
      (∀ v f, u.fetchAll = (v, .error f) → (∀ w, f ≠ .later w) →
        exec (.trapEntry q) s = .next (v.raiseAtDecode [] fun w => w.fetchFailed f)) ∧
      (∀ v ps eff, u.fetchAll = (v, .ok (ps, eff)) → v.breakpointAt v.me.pc = none →
        validWord ps = false ∨ (ps.length = 2 ∧ v.loopEndsAt (v.me.pc + 2#64) = true) →
        exec (.trapEntry q) s = .next (v.raiseAtDecode eff fun w => w.raise .illegal 0)) ∧
      (∀ v ps eff n, u.fetchAll = (v, .ok (ps, eff)) → v.breakpointAt v.me.pc = some n →
        exec (.trapEntry q) s = .next (v.raiseAtDecode eff fun w => w.raise .brk (BitVec.ofNat 64 (256 + n))))) ∧
    (t.level = false → t.step = false → t.run = .ready → t.wait = .none →
      let on (b : Nat) := t.pend.getLsbD b = true
      let off (b : Nat) := t.pend.getLsbD b = false
      let v := (s.settleTrb q).toEventPoint q
      let takes (c : Cause) (ea : Word) :=
        exec (.eventTaken q) s = .next (if v.atEventPoint q = true then v.raiseAt q c (v.stream q).pc ea else v)
      (t.trb = [] → v = s ∧ v.atEventPoint q = true) ∧
      (∀ k, on 4 → t.task = some k → takes .cancelled (k.tag.setWidth 64)) ∧
      (off 4 → on 3 → takes .groupBroken (t.brokenGroup.setWidth 64)) ∧
      (off 4 → off 3 → on 2 → takes .hostIrq (t.hval.setWidth 64)) ∧
      (off 4 → off 3 → off 2 → on 1 → takes .timer 0) ∧
      (off 4 → off 3 → off 2 → off 1 → on 0 → takes .migrate t.meshBefore)) ∧
    (let w := s.fireSavedTimers
     let x := w.stream q
     (s.saved = [] → w = s) ∧
     (x.tdead ≠ 0 → x.tdead.toNat ≤ w.now (dieOfCore (q / 4)) →
      ∃ l, exec (.timerDeadline q) s = .next (w.setStream q { x with tdead := 0, pend := x.pend ||| 2#5, trb := l }) ∧
        l.map Spec.withoutTdead = x.trb.map Spec.withoutTdead)) ∧
    (∀ d take va place n, Spec.waitsWith s q (.fe d take va place (some n)) → s.fullNews q = none →
      n ≤ s.now (dieOfCore (q / 4)) →
      exec (.waitLimitExpiry q) s = .next (s.raiseAt q .waitLimit t.pc va)) ∧
    (∀ d n, Spec.waitsWith s q (.mon d n) → (∃ r ∈ t.m.toList, r.fired = true) →
      exec (.mon q) s = .next (s.completeFor q fun v => v.monWake d 1)) ∧
    (∀ d n, Spec.waitsWith s q (.mon d (some n)) → n ≤ s.now (dieOfCore (q / 4)) →
      exec (.monWaitDeadline q) s = .next (s.completeFor q fun v => v.monWake d 2))

/-- An event meets stream `q` of state `s` at its event point: what it has not issued is squashed, and once every older entry has
retired the cause is taken. With an empty partition it is taken at once. -/
def Sys2Proof.Spec.atEvent (s : State) (q : Nat) (c : Cause) (ea : Word) : State :=
  let v := (s.settleTrb q).toEventPoint q
  if v.atEventPoint q = true then v.raiseAt q c (v.stream q).pc ea else v

/-- R201, R204, R209, R250, R258, R308, R316, R318: what an event does to a stream that waits. `MON.WAIT` ends with reason 3 and the
event follows; at supervisor level, or with the single-step bit set, it only ends. A full/empty request is withdrawn, and so is a
take; an arrival at a barrier is taken back. What has been answered already comes first: a barrier word whose phase is over, a
full/empty word that was served, a task that was given. -/
def Sys2Proof.Spec.EventsMeetWaits : Prop :=
  ∀ (s : State) (q : Nat), q < Config.streamCount → (s.stream q).run = .waiting →
    let t := s.stream q
    let met (u : State) : Prop := exec (.eventTaken q) s = .next u
    let own := ((s.ownerOf (q / 4)).map (·.1)).getD 0
    (∀ d n, t.wait = .mon d n →
      let woken := s.completeFor q fun v => v.monWake d 3
      (∀ c ea, t.dueEvent = some (c, ea) → met (Spec.atEvent woken q c ea)) ∧
      (t.level = true ∨ t.step = true → t.firstEvent.isSome = true → met woken) ∧
      (let u := { s with cur := q }
       let fired (j : Nat) : Bool := (t.m.toList.getD j {}).fired
       u.Passes 4 → woken = ((u.setMe { t with m := t.m.map fun r => { r with fired := false } }).writeS d
         (BitVec.ofNat 64 (768 + (fired 0).toNat + 2 * (fired 1).toNat + 4 * (fired 2).toNat + 8 * (fired 3).toNat))).nextWord 4)) ∧
    (∀ c ea, t.dueEvent = some (c, ea) →
      (∀ d take va place n, t.wait = .fe d take va place n →
        (s.fullNews q = none → met (Spec.atEvent s q c ea) ∧
          (t.trb = [] → ∀ r ∈ (Spec.atEvent s q c ea).feQueue, r.stream ≠ q)) ∧
        (∀ i r at', s.fullNews q = some i → s.net[i]? = some (.feReply q r at') →
          met (({ s with net := s.net.eraseIdx i } : State).completeFor q fun u => match r with
            | .value v => .done (u.writeS d v)
            | .poisoned k => u.stopAt k
            | _ => .done u))) ∧
      (∀ d g p arrived, t.wait = .bar d g p arrived → s.barrierNews q = none →
        met (Spec.atEvent (if arrived = true then s.withdrawArrival own g (s.memberIndex q) else s) q c ea)) ∧
      (∀ g, let x := s.group own g
        let i := s.memberIndex q
        x.arrived.getLsbD i = true → s.withdrawArrival own g i = s.setGroup own g { x with
          arrivals := x.arrivals - 1, arrived := setField x.arrived i 1 0 }) ∧
      (∀ d g p, t.wait = .barWait d g p →
        (s.barrierNews q = none → met (Spec.atEvent s q c ea)) ∧
        (∀ n err home, s.barrierNews q = some n → s.net[n]? = some (.barDone q g p err home) →
          met ((s.takeMsg n).completeFor q fun u => u.barEnd d err))) ∧
      (∀ d g p, t.wait = .barArr d g p → s.barrierNews q = none → met (Spec.atEvent s q c ea)) ∧
      (t.wait = .taskNext false →
        (s.taskNews q = none → met (Spec.atEvent s q c ea) ∧
          (t.trb = [] → ∀ die, q ∉ ((Spec.atEvent s q c ea).die die).takes)) ∧
        (∀ n k, s.taskNews q = some (n, k) → met ((s.takeMsg n).taskStart q k))) ∧
      (∀ n, t.wait = .reply n → met s))

/-- The oldest entry of the store queue of a stream has not left its core, and may. -/
def Sys2Proof.Spec.mayLeave (s : State) (q : Nat) (e : StoreEntry) : Prop :=
  (s.stream q).storeQ.head? = some e ∧ e.phase = .queued ∧ (∀ f ∈ (s.stream q).storeQ, e.seq ≤ f.seq) ∧
    s.inTrb q e.seq = false ∧ s.releaseReady q e.seq e.release = true ∧ (∀ r ∈ e.ranges, s.rangeHeld q r = false)

/-- A step carries out one of the writes that have set out, of the kinds that `kind` names, at its home; it may land there. -/
def Sys2Proof.Spec.carriesOne (s : State) (q : Nat) (kind : StoreKind → Bool) (out : Out) : Prop :=
  let ready := (s.sentWrites q kind).filter fun e => e.cells.all fun x => s.mayLand q e x.1
  ready ≠ [] → ∃ e ∈ ready, ∃ n, out = .next ((({ s with freeCtr := n } : State).carryOut q e).setWritten q e.seq)

/-- R165, R232, R234, R240, R242, R245, R249, R253, R271, R281: the oldest store of a queue sets out when its word has
retired, what it must wait for has performed and no sibling holds its page; the writes that have set out and may land are carried
out at their homes by the steps of their kinds, an ordinary one a piece at a time: a 64-byte block that it covers, or an element;
an acknowledgement that the link brings takes its write out of the queue. The same steps carry the atomics of the other die and
their replies, and bring the answer of a full/empty request to its stream. -/
def Sys2Proof.Spec.QueueSteps : Prop :=
  ∀ (s : State) (q : Nat), q < Config.streamCount →
    let ordinary (k : StoreKind) : Bool := k == .scalar || k == .wide
    (∀ e, Spec.mayLeave s q e → s.isFarReduction q e = false →
      ∃ (u : State) (n : Nat), exec (.storeQueuePerform q) s = .next u ∧
        (u.stream q).storeQ.head? = some { e with phase := .sent, sentAt := s.now (dieOfCore (q / 4)), order := n } ∧
        ((∀ c j, s.ownerOf (q / 4) = some (c, j) → s.regulated c = false) → u.cells = s.cells)) ∧
    (∀ e, Spec.mayLeave s q e → s.isFarReduction q e = true →
      exec (.storeQueuePerform q) s = .next ((s.sendReduction q e).getD s)) ∧
    (let ready := (s.sentWrites q ordinary).filter fun e => (State.piecesOf e).any (s.mayLand q e)
     ready ≠ [] → ∃ e ∈ ready, ∃ b ∈ State.piecesOf e, s.mayLand q e b = true ∧ ∃ n,
        let now := e.cells.filter fun x => e.piece x.1 == b
        let rest := e.cells.filter fun x => !(e.piece x.1 == b)
        exec (.write q) s = .next ((({ s with freeCtr := n } : State).storeData q e.kind now).mapStores q fun f =>
          if f.seq = e.seq then
            { f with phase := if rest.isEmpty then .written else .sent, cells := rest, landed := f.landed ++ now }
          else f)) ∧
    Spec.carriesOne s q State.isRemote (exec (.strPacket q) s) ∧
    Spec.carriesOne s q State.isFullEmpty (exec (.feop q) s) ∧
    ((∀ r ∈ s.agentReqs q, r.2.reply.isSome = true) → Spec.carriesOne s q State.isReduction (exec (.atom q) s)) ∧
    (∀ e place b l, e.cells = (place, b) :: l →
      (e.kind = .remote → s.carryOut q e = s.storeData q e.kind e.cells) ∧
      (∀ v, e.kind = .stfl v →
        s.carryOut q e = ((s.storeData q e.kind e.cells).setFull place true).serveFull place) ∧
      (e.kind = .feclr → s.carryOut q e = (s.storeData q e.kind e.cells).setFull place false) ∧
      (∀ op x t v, e.kind = .red op x → s.atomAtHome q ⟨op.setWidth 8, e.va, place, x, 0⟩ = (t, .value v) →
        s.carryOut q e = t)) ∧
    (∀ e, ((s.stream q).storeQ.find? fun f => f.phase == .written && !State.isReduction f.kind && s.ackReaches q f) = some e →
      exec (.wrack q) s = .next (s.retireStore q e)) ∧
    (∀ e, (∀ r ∈ s.agentReqs q, r.2.reply = none) →
      ((s.stream q).storeQ.find? fun f => f.phase == .written && State.isReduction f.kind && s.ackReaches q f) = some e →
      exec (.atrep q) s = .next (s.retireStore q e)) ∧
    (∀ a r, (s.agentReqs q).find? (fun r => r.2.reply.isNone && s.rowCarries (r.1 % 16) && !s.heldBack q) = some (a, r) →
      ∃ t v f, s.atomAtFarDie a r = (t, v, f) ∧ exec (.atom q) s = .next (t.mapAgent a
        fun l => l.map fun x => if x.reqnum = r.reqnum then { x with reply := some v, formed := f } else x)) ∧
    (∀ a r v, (s.agentReqs q).find? (fun r => r.2.reply.isSome && s.rowCarries (s.siteRow (s.siteOf r.2.op.place))) = some (a, r) →
      r.reply = some v → r.red = none → (s.core (q / 4)).peg = none → s.holdsFor q = false →
      (s.stream q).run ≠ .moving → (s.stream q).wait = .reply r.reqnum.toNat →
      exec (.atrep q) s = .next (((((s.mapAgent a fun l => l.filter fun x => x.reqnum ≠ r.reqnum).patchGuests (a / 16)
        r.formed).storeDone q (.red 0 0) r.formed)).completeFor q fun t => t.atomDone r.d r.op v)) ∧
    (∀ d take va place n i r at', Spec.waitsWith s q (.fe d take va place n) → s.holdsFor q = false →
      s.fullNews q = some i → s.net[i]? = some (.feReply q r at') →
      exec (.ferep q) s = .next (({ s with net := s.net.eraseIdx i } : State).completeFor q fun u => match r with
        | .value v => .done (u.writeS d v)
        | .poisoned k => u.stopAt k
        | _ => .done u))

/-- R215, R225, R230, R231, R263, R264, R276, R281, R315, R353: the messages of a barrier end the waits of its members; a
copy moves its next unit, and completes with its token when all are delivered; a missing page of a scratchpad is filled,
unless its core moves; a page walk fills the TLBs; a prefetched line is fetched at its slice and fills the L1D that asked; a snoop
of the host takes its line from the home and is answered; an uncorrectable error poisons a sector, takes a line from an
engine's node cache, or marks a core; a corrected one changes no data. -/
def Sys2Proof.Spec.MemorySteps : Prop :=
  ∀ s : State,
    (∀ n q g p err h d, s.net[n]? = some (.barDone q g p err h) → s.arrives n = true → s.holdsFor q = false →
      Spec.waitsWith s q (.barWait d g p) →
      exec (.barmsg n) s = .next ((s.takeMsg n).completeFor q fun t => t.barEnd d err)) ∧
    (∀ n q g p h d b, s.net[n]? = some (.barBroken q g h) → s.arrives n = true → s.holdsFor q = false →
      Spec.waitsWith s q (.bar d g p b) →
      exec (.barmsg n) s = .next ((s.takeMsg n).completeFor q fun t => .done (t.writeP d true))) ∧
    (∀ c i r t l, c < Config.coreCount → s.copyRec c i = some r → s.inTrb (4 * c + r.stream) r.seq = false →
      (s.core c).copyFrozen = false → s.copyMayMove c r = true →
      let x := ((s.ownerOf c).map (·.1)).getD 0
      let s' := s.copyStart c x r r.done
      s'.heldBack (4 * c) = false → s'.copyUnit c x r r.done = (t, .ok l) → r.done < r.total →
      r.done + 1 = r.total ∨ r.cutAt (r.done + 1) = true →
      ∃ u q, exec (.copyTransfer c i 1) s = .next u ∧ u.copyRec c i = some q ∧ q.done = r.done + 1 ∧ u.cells = t.cells ∧
        q.phase = (if r.done + 1 = r.total then .delivered else .active) ∧ q.src = r.src ∧ q.dst = r.dst) ∧
    (∀ c i r, c < Config.coreCount → s.copyRec c i = some r → r.phase = .delivered → s.copiesStopped c = false →
      ∃ t : State, exec (.copyComplete c i) s =
          .next ((t.writePending (4 * c + r.stream) r.tokenId (BitVec.ofNat 64 (r.progress % 2 ^ 25))).releaseCore c) ∧
        t.copyRec c i = none ∧ (r.binding = none → t.cells = s.cells)) ∧
    (∀ c p f, c < Config.coreCount → (s.core c).owner.isSome = true → (s.core c).moving = false →
      (s.page c p).backed = true → (s.page c p).resident = false → s.freeFrame c = some f →
      ∃ u : State, exec (.scratchpadRefill c p) s = .next u ∧ (u.page c p).resident = true ∧
        (u.page c p).frame = BitVec.ofNat 8 f ∧ (u.page c p).dirty = false ∧ u.streams = s.streams) ∧
    (∀ c p, c < Config.coreCount → (s.core c).moving = true → exec (.scratchpadRefill c p) s = .next s) ∧
    (∀ c va x j e size, c < Config.coreCount → s.ownerOf c = some (x, j) → (va : Word).toNat < 2 ^ 48 →
      State.tlbHit (s.core c).tlb x va.toNat = none → s.walkReaches c x va.toNat = true →
      s.leafOf c x va.toNat = .leaf e size → 0 < size →
      ∃ u : State, exec (.pageWalk c va) s = .next u ∧ (State.tlbHit (u.core c).tlb x va.toNat).isSome = true ∧
        (State.tlbHit (u.die (dieOfCore c)).tlb x va.toNat).isSome = true ∧ u.cells = s.cells ∧ u.streams = s.streams) ∧
    (∀ n c x va line l1, s.net[n]? = some (.readReq c x va line l1) → s.arrives n = true →
      ∃ t l, (s.takeMsg n).l2Line (dieOfCore c) line x va (.core c) = (t, l) ∧
        (l.passed = [] → exec (.rdreq n) s = .next (t.post (.readData c x va line l1 l.data l.poison))) ∧
        (l.passed ≠ [] → exec (.rdreq n) s = .next t)) ∧
    (∀ n c x j va line data poison, s.net[n]? = some (.readData c x va line true data poison) → s.arrives n = true →
      (s.core c).owner = some (x, j) → SMap.find (s.core c).l1d line = none →
      ∃ u : State, exec (.rddata n) s = .next u ∧ SMap.find (u.core c).l1d line = some ⟨x, va, data, poison, []⟩ ∧
        u.net = s.net.eraseIdx n ∧ u.cells = s.cells) ∧
    (∀ line, ∃ u : State, exec (.snoop line) s = .next u ∧ u.cells = s.cells ∧ u.streams = s.streams ∧
      (line < 2 ^ 48 → s.running = true →
        let p := 2 ^ 52 + line / 128 * 128
        (∀ e ∈ u.linesInSetOf (u.homeSlice p) p, e.line ≠ p) ∧ u.board.egPrompt = s.board.egPrompt ++ [⟨false, []⟩])) ∧
    (∀ place, place < 2 ^ 48 → ∃ u : State, exec (.uncorrectableError (.sector place)) s = .next u ∧
      (u.sector place).poison = true ∧ u.cells = s.cells) ∧
    (∀ k place, k < 64 → s.homeSlice place = k →
      ∃ u : State, exec (.uncorrectableError (.l2Sector k place)) s = .next u ∧
        (u.sector place).poison = true ∧ u.cells = s.cells) ∧
    (∀ k x line, k < 4 → ∃ u : State, exec (.uncorrectableError (.nodeCache k x line)) s = .next u ∧
      (x, line) ∉ (u.ste k).lines ∧ u.cells = s.cells) ∧
    (∀ place, ∃ u : State, exec (.uncorrectableError (.corrected place)) s = .next u ∧
      u.cells = s.cells ∧ u.sectors = s.sectors ∧ u.streams = s.streams) ∧
    (∀ k, k < 64 → ∃ u : State, exec (.uncorrectableError (.l2Corrected k)) s = .next u ∧
      u.cells = s.cells ∧ u.sectors = s.sectors ∧ u.streams = s.streams) ∧
    (∀ c, c < Config.coreCount → ∃ u : State, exec (.uncorrectableError (.coreFile c)) s = .next u ∧
      (u.core c).errored = true ∧
      (s.moves = [] → (s.ownerOf c).isSome = true → ∀ j, j < 4 →
        (u.stream (4 * c + j)).run = .idle ∧ (u.stream (4 * c + j)).faultMark = true))

/-- The steps of cores, streams, store queues and memories (Spec.EngineSteps, Spec.StreamSteps, Spec.EventsMeetWaits,
Spec.QueueSteps, Spec.MemorySteps). When such a step comes, and a wake at supervisor level, are the model's choice (logs 3,
53, 60, 87). -/
def Obligations.CoreAndMemoryStepsComplete : Prop :=
  Spec.EngineSteps ∧ Spec.StreamSteps ∧ Spec.EventsMeetWaits ∧ Spec.QueueSteps ∧ Spec.MemorySteps
/-! ## Steps of the machine that are no words: engines, launches, heaps -/

/-- The engine of a tree has `c` as its oldest command of that tree; `t` is the state without it in the engine's queue. -/
def Sys2Proof.Spec.atEngine (s : State) (tree : Nat) (c : SteCmd) (t : State) : Prop :=
  tree < 64 ∧ (s.ste (tree / 16)).queue.find? (fun c => c.tree = tree) = some c ∧ (s.ste (tree / 16)).frozen = false ∧
  s.heldCtx c.ctx = false ∧ t = s.setSte (tree / 16) { s.ste (tree / 16) with
    queue := (s.ste (tree / 16)).queue.filter fun e => e.replyId ≠ c.replyId }

/-- The command `c` of a tree is answered with `w`, its effect being state `u`: the reply sets out, once the regulators of the stacks
have let go what the command asked for (R412, R413). -/
def Sys2Proof.Spec.answered (s : State) (tree : Nat) (c : SteCmd) (u : State) (w : Word) : State :=
  if c.begun = true then ({ u with regulators := s.regulators } : State).steReply c w
  else if u.heldCtx c.ctx = true then s.steBegin u tree c else u.steReply c w

/-- The op of the image of a configuration command. -/
def Sys2Proof.Spec.opOf (c : SteCmd) : Nat := c.image.toNat % 256

/-- R380 to R391: an engine carries out the oldest command of a tree by the step of its kind and sends the reply. CREATE
writes a region of zeros and its descriptor; RELEASE takes the descriptor back; a sum word reads what its selector names;
the other commands are carried out as `steBuild`, `steSet`, `stePut` and `steDraw` say. A command of a tree that the
context does not own answers 6. A command packet joins the engine's queue behind those of its stream; a reply reaches the
register that awaits it, what the reader's caches hold from before the commands being replaced. -/
def Sys2Proof.Spec.TreeSteps : Prop :=
  (∀ (s t : State) (tree : Nat) (c : SteCmd), Spec.atEngine s tree c t → c.tree = tree →
    let d := t.tree tree
    let free : Prop := SteDesc.held d = true → SteDesc.owner d = c.owner
    let owned : Prop := t.ownsTree tree c.owner = true
    let ends (o : Out) (u : State) (w : Word) : Prop := o = .next (Spec.answered s tree c u w)
    (c.minor = 0 → State.malformedCfg c.image = false →
      (Spec.opOf c = 0 → free →
        let n := State.newDesc c.image c.owner 0
        let out := (List.range (24 * SteDesc.leaves n / 16)).map fun j => (SteDesc.base n + 16 * j, 16, 0)
        State.steWorst (t.steSpan (tree / 16) c.ctx (SteDesc.base n) (24 * SteDesc.leaves n) .store) = none →
        ends (exec (.steCfgCreate tree) s)
          (((t.steTouch (tree / 16) c.ctx (out.map (·.1))).steWrite tree c.ctx out).setTree tree n) 0) ∧
      (Spec.opOf c = 1 → free → ∀ u w, t.steBuild c = (u, .ok w) → ends (exec (.steCfgBuild tree) s) u w) ∧
      (Spec.opOf c = 2 → owned → ∀ u w, t.steSet c = (u, .ok w) → ends (exec (.steCfgSet tree) s) u w) ∧
      (Spec.opOf c = 3 → owned → ∃ n : BitVec 256, SteDesc.held n = false ∧ SteDesc.owner n = 0 ∧
        SteDesc.drops n = SteDesc.drops d ∧
        ends (exec (.steCfgRelease tree) s) (t.setTree tree n) 0)) ∧
    (c.minor = 1 → ∀ u w, t.stePut c none = (u, .ok w) → ends (exec (.steInsExec tree) s) u w) ∧
    (c.minor = 2 → ∀ u w, t.stePut c (some (c.sd.toNat % 2 ^ 16)) = (u, .ok w) →
      ends (exec (.steUpdExec tree) s) u w) ∧
    (c.minor = 3 → ∀ u w, t.steDraw c = (u, .ok w) → ends (exec (.steDrawExec tree) s) u w) ∧
    (c.minor = 4 → owned →
      (c.k6 = 2 → ends (exec (.steSumExec tree) s) t (BitVec.ofNat 64 (SteDesc.drops d * 256))) ∧
      (c.k6 = 3 → ends (exec (.steSumExec tree) s) t (BitVec.ofNat 64 (SteDesc.epoch d * 256))) ∧
      (∀ u x, t.steRead (tree / 16) c.ctx (SteDesc.record d 1).1 (SteDesc.record d 1).2 = (u, .ok x) →
        let v := u.steTouch (tree / 16) c.ctx [(SteDesc.record d 1).1]
        (c.k6 = 0 → ends (exec (.steSumExec tree) s) v (BitVec.ofNat 64 (x % 2 ^ 56 * 256))) ∧
        (c.k6 = 1 → ends (exec (.steSumExec tree) s) v (BitVec.ofNat 64 (x / 2 ^ 64 % 2 ^ 32 * 256))))) ∧
    (¬ owned →
      (c.minor = 1 → ends (exec (.steInsExec tree) s) t 6) ∧
      (c.minor = 2 → ends (exec (.steUpdExec tree) s) t 6) ∧
      (c.minor = 3 → ends (exec (.steDrawExec tree) s) t 6) ∧
      (c.minor = 4 → ends (exec (.steSumExec tree) s) t 6))) ∧
  (∀ (s : State) (n k : Nat) (c : SteCmd), s.net[n]? = some (.steCmd k c) → s.inTrb c.stream c.seq = false →
    s.steBehind n k c.stream = false → (s.ste k).queue.length < 256 →
    s.sends (.core (c.stream / 4)) (.ste k) = true →
    exec (.stecmd n) s = .next ((s.takeMsg n).setSte k { s.ste k with queue := (s.ste k).queue ++ [c] })) ∧
  (∀ (s : State) (n q id k : Nat) (w : Word), s.net[n]? = some (.steReply q id w k) → (s.stream q).run ≠ .moving →
    (s.core (q / 4)).peg = none → s.arrives n = true →
    let lines := (s.stes.map fun e => (e.2.wrote.map (·.2)).flatten).flatten
    exec (.sterep n) s = .next ((((s.takeMsg n).replaceStale (q / 4) fun line _ => lines.contains line).writePending
      q id w).releaseCore (q / 4)))

/-- The command processor of a die reads the launch entry `l` of context `c` next, and it passes the checks of R293; `t` is
the state after the read, with the queue marked as served. What it needs is in reach (R13). -/
def Sys2Proof.Spec.launches (s : State) (die c : Nat) (l : Launch) (t : State) : Prop :=
  die < 2 ∧ s.board.bootState = 2 ∧ s.nextQueue die = some c ∧
  s.ringReaches die (s.queueOf c die) = true ∧
  ∃ u b, s.ringEntry (s.queueOf c die) = (u, some b) ∧ l = Launch.ofImage b ∧ u.launchReaches die c l = true ∧
    t = u.setDie die { u.die die with served := c } ∧ t.launchCode c l = 0

/-- R291 to R294, R296 to R301, R303, R418: a host write moves the tail of a queue; a launch has the effect of its kind and
moves the head, and the tasks of one whose tag was cancelled while it was in flight are inserted and removed; a start message
starts its streams; a heap serves the request that came first of those that a task serves, to a stream that moves after the move;
the request of a stream that finds none passes to the other die, where it takes the task with the largest pair or stays
registered; a heap refills from spill; a host event sets the pending bit of its stream. -/
def Sys2Proof.Spec.LaunchSteps : Prop :=
  (∀ (s : State) (page die : Nat) (v : Word) (x : Ctx), die < 2 → page < 64 → s.board.bootState = 2 →
    v.toNat / 2 ^ 16 % 64 = page → s.ctx? page = some x → x.contained = false → (s.queueOf page die).present = true →
    v.toNat % 2 ^ 16 < 2 ^ (s.queueOf page die).n → s.sends .hostPort (.command die) = true →
    exec (.launchWrite page die v) s =
      .next (s.setQueueOf page die { s.queueOf page die with tail := v.toNat % 2 ^ 16 })) ∧
  (∀ (s t : State) (die c : Nat) (l : Launch), Spec.launches s die c l t →
    let owner := (t.ctx c).owner
    let sends (serve : Bool) : State := t.post (.start c (l.target / 16 * (t.ctx c).w + l.target % 16)
      (BitVec.ofNat 4 l.streams) serve { l.task with owner := owner } l.status die)
    (l.kind = 0 → t.startsOut c = false →
      exec (.launchNop die c) s = .next ((t.writeStatus die c l.status 0 0).advanceQueue c die)) ∧
    (l.kind = 1 →
      let cancelled : Prop := l.task.tag ≠ 0 ∧ ∃ e ∈ (t.ctx c).cancels, e.1 = die ∧ e.2.1 = l.task.tag
      let put := ((List.range l.count).map fun i =>
        { l.task with owner := owner, args := l.task.args.set 3 (l.task.args[3] + BitVec.ofNat 64 i) }).foldl
          (fun u k => u.insertTask c l.die k) t
      (¬ cancelled → exec (.launchTasks die c) s = .next ((put.writeStatus die c l.status 0 0).advanceQueue c die)) ∧
      (cancelled → exec (.launchTasks die c) s = .next (((put.removeTasks l.die fun k =>
        decide ((t.die l.die).inserted ≤ k.seq)).writeStatus die c l.status 0 0).advanceQueue c die))) ∧
    (l.kind = 2 → exec (.launchStart die c) s = .next ((sends false).advanceQueue c die)) ∧
    (l.kind = 3 → exec (.launchServe die c) s = .next ((sends true).advanceQueue c die)) ∧
    (l.kind = 4 → exec (.launchCancel die c) s = .next (((t.cancelTag c l.task.tag).1.writeStatus die c l.status 0
      (t.cancelTag c l.task.tag).2).advanceQueue c die))) ∧
  (∀ (s : State) (n c j : Nat) (streams : BitVec 4) (task : Task) (status from' : Nat) (serve : Bool),
    s.net[n]? = some (.start c j streams serve task status from') → (s.ctx? c).isSome = true → s.arrives n = true →
    let core := (s.ctx c).position j
    let qs := ((List.range 4).filter fun i => streams.getLsbD i).map fun i => 4 * core + i
    let t := s.takeMsg n
    s.statusReaches (dieOfCore core) c status = true →
    (s.core core).moving = false → (∀ q ∈ qs, (s.stream q).run = .idle ∧ (s.stream q).faultMark = false) →
    exec (.start n) s = .next ((if serve then qs.foldl State.placeServed t
      else qs.foldl (fun u q => u.taskStart q task) t).writeStatus (dieOfCore core) c status 0 0)) ∧
  (∀ (s : State) (die q : Nat), die < 2 → s.heldTask die = some q → exec (.taskDelivery die) s = .next (s.hearTask q)) ∧
  (∀ (s : State) (die q : Nat), die < 2 → s.heldTask die = none → (s.die die).takes.find? (s.mayServe die) = some q →
    let given (k : Task) (u : State) : Prop :=
      exec (.taskDelivery die) s = .next u ∧
      (s.holdsFor q = false → (u.stream q).task = some k ∧ (u.stream q).pc = k.entry ∧
        (u.stream q).run = .ready ∧ (u.stream q).wait = .none) ∧
      (s.holdsFor q = true → (∃ at', .taskGiven q k at' ∈ u.net) ∧ u.streams = s.streams)
    (dieOfCore (q / 4) = die → ∃ (t u : State) (k : Task), s.chooseTask die q = (t, some k) ∧ k ∈ s.eligibleOn die q ∧
      u = t.deliver die q k ∧ given k u) ∧
    (dieOfCore (q / 4) ≠ die → ∃ (u : State) (k : Task), (s.stealable die q).head? = some k ∧ given { k with bound := false } u)) ∧
  (∀ (s : State) (die q : Nat), die < 2 →
    let far := 1 - die
    (s.die die).takes.find? (fun q => dieOfCore (q / 4) == die && s.takesNow q && !s.serves die q &&
      !(s.die far).takes.contains q && s.reaches (.core (q / 4)) (.heap far)) = some q →
    ((s.die far).takes.any (s.mayServe far) = true → exec (.taskmsg die) s = .next s) ∧
    ((s.die far).takes.any (s.mayServe far) = false →
      (s.stealable far q = [] → ∃ u : State, exec (.taskmsg die) s = .next u ∧
        (u.die far).takes = (s.die far).takes ++ [q] ∧ u.streams = s.streams) ∧
      (s.stealable far q ≠ [] → s.holdsFor q = false → ∃ (u : State) (k : Task), exec (.taskmsg die) s = .next u ∧
        k ∈ s.stealable far q ∧ (∀ y ∈ s.stealable far q, y.le k = true) ∧
        (u.stream q).task = some { k with bound := false } ∧ (u.stream q).pc = k.entry ∧ (u.stream q).run = .ready))) ∧
  (∀ (s : State) (die : Nat), die < 2 → ((s.queued die).map (·.seq)).Nodup → ∃ u : State,
    exec (.spillRefill die) s = .next u ∧
    ((s.die die).spill = [] ∨ Config.heapRefillBelow ≤ (s.die die).heap.length → (u.die die).heap = (s.die die).heap) ∧
    ((s.die die).heap.length < Config.heapRefillBelow → (s.die die).spill ≠ [] →
      ∃ t ∈ (s.spilled die).map (·.2), (∀ y ∈ (s.spilled die).map (·.2), t.le y = true) ∧
        (s.die die).heap ++ [t] <+: (u.die die).heap)) ∧
  (∀ (s : State) (page : Nat) (v : Word) (x : Ctx), page < 64 → s.board.bootState = 2 → s.ctx? page = some x →
    let lx := v.toNat / 2 ^ 32 % 16
    let ly := v.toNat / 2 ^ 36 % 16
    let q := 4 * x.position (ly * x.w + lx) + v.toNat / 2 ^ 40 % 4
    let t := s.stream q
    lx < x.w → ly < x.h → s.sends .hostPort (.core (q / 4)) = true →
    (t.pend.getLsbD 2 = false → exec (.hostEventWrite page v) s =
      .next (s.setStream q { t with pend := t.pend ||| 4#5, hval := v.setWidth 32 })) ∧
    (t.pend.getLsbD 2 = true → exec (.hostEventWrite page v) s =
      .next (s.setStream q { t with hostQueue := t.hostQueue ++ [v.setWidth 32] })))

/-- The steps of engines, launches and heaps (Spec.TreeSteps, Spec.LaunchSteps). When such a step comes, and which task a
take returns, are the model's choice (logs 3, 7, 19, 45, 62, 92). -/
def Obligations.EngineAndLaunchStepsComplete : Prop := Spec.TreeSteps ∧ Spec.LaunchSteps
/-! ## Steps of the machine that are no words: control commands and moves -/

/-- The control ring of a die has the well-formed command `c` next, and its context, where it names one, is resident and not
contained; `t` is the state after the read. What it reads and writes is in reach (R13). -/
def Sys2Proof.Spec.commanded (s : State) (die : Nat) (c : Control) (t : State) : Prop :=
  die < 2 ∧ s.board.bootState = 2 ∧ s.controlWaits die = true ∧
  s.ringReaches die (s.die die).control = true ∧ s.controlReaches die c = true ∧
  (∃ b, s.ringEntry (s.die die).control = (t, some b) ∧ c = Control.ofImage b) ∧ c.malformed = false ∧
  (c.namesContext = true → (t.ctx? c.ctx).isSome = true ∧ (t.ctx c.ctx).contained = false)

/-- R343 to R346, R354, R358 to R362, R366, R369 to R372: a command that passes its checks has its effect, and then its
status word (code 0 and its result) is written and the head of the ring moves. `CTXCREATE` gives its rectangle of free cores
to a free ID; `CTXSET` takes the fields that its selector names; `INVTLB` drops translations; `CLRFAULT` clears a fault
mark; `CTXDESTROY` removes an idle context; `SETHOME`, `SETQUEUE`, `SETSPILL` and `STREAMSET` set the tables and registers
that they name. -/
def Sys2Proof.Spec.TableCommands : Prop :=
  ∀ (s t : State) (die : Nat) (c : Control), Spec.commanded s die c t →
    let ends (i : Instr) (u : State) (r : Nat) : Prop := exec i s = .next (u.finishControl die c 0 r)
    (∀ (v : State) (b : BitVec 512), c.kind = 1 → t.descImage c.op0 = (v, some b) →
      let x : Ctx := { desc := b, table := [] }
      let cores := State.rectangle x.x0 x.y0 x.w x.h
      State.rectangleGood x.x0 x.y0 x.w x.h = true → State.waysGood x = true → State.spqGood x = true →
      (∀ k ∈ cores, v.isFree k = true) → v.freeIds ≠ [] → v.freeOwners ≠ [] →
      ∃ (u : State) (id owner : Nat), id ∈ v.freeIds ∧ owner ∈ v.freeOwners ∧ ends (.ctxcreate die) u (id + owner * 256) ∧
        (u.ctx id).desc = setField b 64 16 owner ∧ (u.ctx id).table.length = cores.length ∧
        ∀ k ∈ cores, (u.core k).owner.map (·.1) = some id) ∧
    (∀ (v : State) (b : BitVec 512), c.kind = 2 → t.descImage c.op0 = (v, some b) →
      let sel := c.op1.toNat % 32
      let x : Ctx := { desc := b, table := [] }
      (sel.testBit 0 = true → State.waysGood x = true) → (sel.testBit 2 = true → State.spqGood x = true) →
      sel.testBit 4 = false →
      ∃ u : State, ends (.ctxset die) u 0 ∧ (u.ctx c.ctx).desc = State.takeFields (v.ctx c.ctx).desc b sel ∧
        u.streams = v.streams) ∧
    (c.kind = 3 → c.op0.toNat % 65536 = 0 → c.op1.toNat % 65536 = 0 → t.isMovingCtx c.ctx = false →
      let lo := if c.op1 = 0 then 0 else c.op0.toNat
      let n := if c.op1 = 0 then 2 ^ 48 else c.op1.toNat
      let u := t.dropTranslations c.ctx lo n
      u.usesRange c.ctx lo n = false → ends (.invtlb die) u 0) ∧
    (∀ q, c.kind = 8 → t.namedStream c.ctx (c.op0.toNat % 16) (c.op0.toNat / 16 % 16) (c.op0.toNat / 256 % 4) = some q →
      ∃ u : State, ends (.clrfault die) u 0 ∧ (u.stream q).faultMark = false ∧ (u.stream q).s = (t.stream q).s) ∧
    (c.kind = 9 → (t.ctx? c.ctx).isSome = true → (∀ q ∈ t.streamsOf c.ctx, (t.stream q).run = .idle) →
      t.busyCtx c.ctx = false →
      ends (.ctxdestroy die) (t.removeCtx c.ctx) 0 ∧ (t.removeCtx c.ctx).ctx? c.ctx = none) ∧
    (∀ (v : State) (l : List Byte), c.kind = 10 → t.image c.op1.toNat 32 = (v, some l) → c.op0.toNat < 64 →
      State.homeImageGood (BitVec.ofNat 256 (leNat l)) = true →
      ∃ u : State, ends (.sethome die) u 0 ∧
        u.ranges = SMap.set v.ranges c.op0.toNat (BitVec.ofNat 256 (leNat l)) ∧ u.streams = v.streams) ∧
    (c.kind = 11 → c.op0.toNat % 4096 = 0 → 4 ≤ c.op1.toNat % 32 → c.op1.toNat % 32 ≤ 16 → c.op2.toNat % 8 = 0 →
      let e := c.op1.toNat / 256 % 2
      let r := t.queueOf c.ctx e
      (r.present = true → r.head = r.tail) →
      ends (.setqueue die) ((t.setQueueOf c.ctx e ⟨true, c.op0.toNat, c.op1.toNat % 32, c.op2.toNat, 0, 0⟩).unitWord e
        c.op2.toNat 0) 0) ∧
    (c.kind = 12 → c.op0.toNat % 4096 = 0 → c.op1.toNat % 4096 = 0 → c.op1.toNat ≤ 2 ^ 24 → (t.die die).spill = [] →
      ends (.setspill die) (t.setDie die { t.die die with
        spillRegion := if c.op1.toNat = 0 then none else some (c.op0.toNat, c.op1.toNat) }) 0) ∧
    (∀ (v : State) (l : List Byte), c.kind = 13 → t.image c.op1.toNat 128 = (v, some l) →
      leNat ((l.drop 48).take 16) = 0 → c.op0.getLsbD 12 = false →
      let x := t.ctx c.ctx
      let lx := c.op0.toNat % 16
      let ly := c.op0.toNat / 16 % 16
      lx < x.w → ly < x.h →
      let qs := ((List.range 4).filter fun i => c.op0.getLsbD (8 + i)).map fun i => 4 * x.position (ly * x.w + lx) + i
      (∀ q ∈ qs, (v.stream q).run = .idle ∧ (v.stream q).task = none) →
      ends (.streamset die) (qs.foldl (fun u q => u.setUp l q) v) 0)

/-- The list of a `REPART` command as its image gives it: (logical core, destination). -/
def Sys2Proof.Spec.repartPlan (x : Ctx) (n : Nat) (l : List Byte) : List (Nat × Nat) :=
  (List.range n).map fun i =>
    let e := leNat ((l.drop (2 * i)).take 2)
    (e / 16 % 16 * x.w + e % 16, coreAt (e / 256 % 16) (e / 4096))

/-- R217 to R221, R344, R362 to R365, R371, R372: `MIGRATE` and `REPART` list their moves and begin them; a move drains its
core, stages its image and installs it at its destination, where the streams go on; a peg passes on what comes to the vacated
core, and clears with the last marker. `SWITCHOUT` of a context at rest saves it and frees its cores; `RESUME` places a saved
one. -/
def Sys2Proof.Spec.MoveCommands : Prop :=
  (∀ (s t : State) (die : Nat) (c : Control), Spec.commanded s die c t →
    let x := t.ctx c.ctx
    (c.kind = 4 →
      let lx := c.op0.toNat % 16
      let ly := c.op0.toNat / 16 % 16
      let src := x.position (ly * x.w + lx)
      let dst := coreAt (c.op1.toNat % 16) (c.op1.toNat / 16 % 16)
      t.hasMoves die = false → lx < x.w → ly < x.h → t.coreBusy c.ctx (ly * x.w + lx) = false → t.isFree dst = true →
      ∃ u : State, exec (.migrate die) s = .next u ∧ (u.core src).moving = true ∧ u.moves = t.moves ++
        [⟨c.ctx, ly * x.w + lx, src, dst, c.op2.getLsbD 0, true, false, die, c.status, none, false⟩]) ∧
    (∀ (v : State) (l : List Byte), c.kind = 5 → t.hasMoves die = false → x.leaving = false → t.isMovingCtx c.ctx = false →
      1 ≤ c.op1.toNat → c.op1.toNat ≤ 256 → t.image c.op0.toNat (2 * c.op1.toNat) = (v, some l) →
      let x0 := c.op2.toNat % 16
      let y0 := c.op2.toNat / 16 % 16
      let plan := Spec.repartPlan x c.op1.toNat l
      let box := State.rectangle x0 y0 x.w x.h
      State.rectangleGood x0 y0 x.w x.h = true → (∀ i < c.op1.toNat,
        leNat ((l.drop (2 * i)).take 2) % 16 < x.w ∧ leNat ((l.drop (2 * i)).take 2) / 16 % 16 < x.h) →
      (plan.map (·.1)).Nodup → (∀ e ∈ plan, v.mayReceive c.ctx e.2 = true) →
      (∀ k ∈ box, v.heldByOther k (some c.ctx) = false) → State.positionsAfter x plan = box →
      ∃ u : State, exec (.repart die) s = .next u ∧ u.moves.length = v.moves.length + c.op1.toNat ∧
        ∀ e ∈ plan, ∃ m ∈ u.moves, m.ctx = c.ctx ∧ m.logical = e.1 ∧ m.dst = e.2 ∧ m.repart = some (x0, y0)) ∧
    (c.kind = 6 →
      let u := (t.setCtx c.ctx { x with leaving := true })
      let v := u.settleCtx c.ctx
      u.startsOut c.ctx = false → u.isMovingCtx c.ctx = false →
      (∀ e ∈ u.cores, ∀ p, e.2.peg = some p → p.ctx ≠ c.ctx) → v.settledCtx c.ctx = true →
      v.roomForArms (v.armsOf c.ctx) = true →
      exec (.switchout die) s = .next ((v.saveCtx die c.ctx (v.armsOf c.ctx)).finishControl die c 0 0)) ∧
    (∀ (y : SavedCtx) (v : State) (l : List Byte), c.kind = 7 → t.savedAt c.op0.toNat = some y →
      let w := y.desc.toNat / 2 ^ 88 % 32
      let h := y.desc.toNat / 2 ^ 96 % 32
      let x0 := c.op1.toNat % 16
      let y0 := c.op1.toNat / 16 % 16
      let table := (State.numbers l 0 16 (w * h)).map (BitVec.ofNat 128)
      t.image c.op0.toNat (16 * (w * h)) = (v, some l) → State.tableGood y table = true →
      State.rectangleGood x0 y0 w h = true → (∀ k ∈ State.rectangle x0 y0 w h, v.isFree k = true) →
      v.freeIds ≠ [] →
      ∃ (id : Nat) (a : State), id ∈ v.freeIds ∧ a = (v.pickAny v.freeIds).1 ∧
        ∀ (u : State) (images : List (List Byte)),
          a.readImages id (table.map fun e => e.toNat / 2 ^ 16 % 2 ^ 32 * 65536) = (u, some images) →
          (∀ e ∈ images.zipIdx, State.imageGood (e.2 % w) (e.2 / w) e.1 = true) →
          exec (.resume die) s = .next ((u.placeCtx die id y x0 y0 table images).finishControl die c 0 id))) ∧
  (∀ (s : State) (n : Nat) (m : Move), s.moves[n]? = some m →
    (m.started = true → m.drained = false → exec (.migrationDrainComplete n) s = .next (s.drainMove n m) ∧
      ((∀ j, j < 4 → (s.settleCore m.src).drained (4 * m.src + j) = true) →
        (s.drainMove n m).moves = (s.settleCore m.src).moves.set n { m with drained := true })) ∧
    (m.drained = true → exec (.migrationInstall n) s = .next ((s.installMove m).closeMove n m) ∧
      (m.dst ≠ m.src → ∀ j, j < 4 →
        let t := s.stream (4 * m.src + j)
        let u := (s.installMove m).stream (4 * m.dst + j)
        u.faultMark = false ∨ t.trb = [] → u.s = t.s ∧ u.p = t.p ∧ u.v = t.v ∧ u.t = t.t ∧ u.c = t.c ∧ u.h = t.h ∧
          u.x = t.x ∧ u.pc = t.pc ∧ u.level = t.level))) ∧
  (∀ (s : State) (n q : Nat) (m : Msg) (p : Peg), s.net[n]? = some m → State.targetOf m = some q →
    (s.core (q / 4)).peg = some p →
    exec (.pegForward n) s = .next { s with net := s.net.set n (s.readdress (q / 4) p.dest m) }) ∧
  (∀ (s : State) (n id c sender : Nat) (bulk : Bool) (p : Peg), s.net[n]? = some (.marker id c bulk sender) →
    s.arrives n = true → (s.core c).peg = some p → s.writesTo sender p.dest bulk = false →
    (∀ m ∈ s.net.take n, ∀ q, State.targetOf m = some q → q / 4 ≠ c) →
    (∀ e ∈ s.dies, ∀ g ∈ e.2.agents, ∀ y ∈ g.2.out, y.stream / 4 ≠ c) →
    exec (.marker n) s = .next ((s.takeMsg n).setCore c { s.core c with
      peg := if p.waiting ≤ 1 then none else some { p with waiting := p.waiting - 1 } }))

/-- The commands of the control rings, and the moves (Spec.TableCommands, Spec.MoveCommands). IDs and places given to a
context, how commands queue, and what becomes of locks and guest copies, are the model's choice (logs 21, 22, 25, 46, 47,
48, 88, 89, 93). -/
def Obligations.ControlCommandsComplete : Prop := Spec.TableCommands ∧ Spec.MoveCommands
/-! ## Steps of the machine that are no words: links, clocks, boot and host -/

/-- The link of the other direction of the module. -/
def Sys2Proof.Spec.back (link : Nat) : Nat := if link % 2 = 0 then link + 1 else link - 1

/-- The flit that a class queue sends next. -/
def Sys2Proof.Spec.nextFlit (o : OutPort) (c : BitVec 2) : FlitBits :=
  match State.queueIn o c with
  | [] => 0
  | p :: _ => p.flits.headD 0

/-- A flit comes over a link: it is the one that port `p` sent, or it fails its check; `t` is the state with the link clear. -/
def Sys2Proof.Spec.comesFrom (s : State) (p : Nat) (flit : FlitBits) (t : State) : Prop :=
  ∃ f, (s.outPort p).sent = some f ∧ (flit = f ∨ Flit.good flit = false) ∧ t = s.offLink p

/-- A good flit has come to a port: what its control word tells is taken, and a flit of a packet is accepted. -/
def Sys2Proof.Spec.taken (t : State) (port : Nat) (flit : FlitBits) : State :=
  let v := t.takeCredits port flit
  if Flit.isControl flit then v.setInPort port (State.countIdle (v.inPort port) 3#2) else v.acceptFlit port false flit

/-- R319 to R332, R338, R341: a slot of a mesh port whose link is clear sends the flit of the class that R328 chooses, or a control
flit, once its queues have taken their packets in turn; a slot of a Mortar module whose link is clear sends a flit; a slot of the
host egress path passes on a message of the class that the same arbiter chooses; a mesh port drops a flit that fails its CRC, and
takes the credits of any other; a unit sends what R324 to R326 let it send; a late packet is ended; a report reaches the host. -/
def Sys2Proof.Spec.PortSteps : Prop :=
  ∀ s : State,
    (∀ port, port < 2048 → mortarPort port = none →
      let o := State.takeTurns (s.outPort port)
      State.neighbourPort port = none ∨ (s.outPort port).sent = none →
      (State.choose o = none → ∃ (u : State) (f : FlitBits), exec (.outputPortSlot port) s = .next u ∧
        (u.outPort port).sent = some f ∧ Flit.isControl f = true ∧ Flit.good f = true) ∧
      (∀ c, State.choose o = some c → ∃ (u : State) (f : FlitBits),
        exec (.outputPortSlot port) s = .next (if (State.neighbourPort port).isSome then u
          else u.unitTakes port (State.popFlit o c).1) ∧
        (u.outPort port).sent = some f ∧ Flit.cls f = Flit.cls (Spec.nextFlit o c) ∧
        f.extractLsb' 0 416 = (Spec.nextFlit o c).extractLsb' 0 416 ∧
        Flit.good f = true)) ∧
    (∀ port link, port < 2048 → mortarPort port = some link → s.carries (link / 2) = true →
      (s.outPort port).sent = none →
      ∃ (u : State) (f : FlitBits), exec (.outputPortSlot port) s = .next u ∧ (u.outPort port).sent = some f ∧
        Flit.good f = true) ∧
    (let b := s.board
     let c := State.chooseFrom (s.outPort 2048) (!b.egBulk.isEmpty) (!b.egPrompt.isEmpty) (!b.egAlert.isEmpty)
     let data (l : List HostData) : List (List Byte) := ((l.take 1).filter (·.reply)).map (·.bytes)
     ∃ u : State, exec (.outputPortSlot 2048) s = .next u ∧ u.cells = s.cells ∧ u.streams = s.streams ∧
      (c = some 0#2 → u.board = { b with egBulk := b.egBulk.tail, hostReads := b.hostReads ++ data b.egBulk }) ∧
      (c = some 1#2 → u.board = { b with egPrompt := b.egPrompt.tail, hostReads := b.hostReads ++ data b.egPrompt }) ∧
      (c = some 2#2 → u.board = { b with egAlert := b.egAlert.tail, msix := b.msix ++ b.egAlert.take 1 }) ∧
      (c = none → u.board = b)) ∧
    (∀ port flit f p t, port < 2048 → mortarPort port = none → port % 8 < 4 → State.neighbourPort port = some p →
      (s.outPort p).sent = some f → flit = f ∨ Flit.good flit = false → t = s.offLink p →
      (Flit.good flit = false → exec (.meshFlitReceive port flit) s = .next (t.dropFlit port f)) ∧
      (Flit.good flit = true → exec (.meshFlitReceive port flit) s = .next (Spec.taken t port flit))) ∧
    (∀ port flit, port < 2048 → mortarPort port = none → 4 ≤ port % 8 →
      (Flit.good flit = false → exec (.meshFlitReceive port flit) s = .next (s.dropFlit port flit)) ∧
      (Flit.good flit = true → s.unitSends port flit = false → exec (.meshFlitReceive port flit) s = .next s) ∧
      (Flit.good flit = true → s.unitSends port flit = true →
        let begins := Flit.isFirst flit = true ∧ Flit.isControl flit = false
        (begins → exec (.meshFlitReceive port flit) s =
          .next (Spec.taken (s.reserve port (Flit.replyFlits (Flit.header flit))) port flit)) ∧
        (¬ begins → exec (.meshFlitReceive port flit) s = .next (Spec.taken s port flit)))) ∧
    (∀ port c r, port < 2048 → State.reasm (s.inPort port) c = some r → 8192 ≤ r.idle →
      ∃ u : State, exec (.reassemblyWatchdog port) s = .next u ∧ State.reasm (u.inPort port) c = none) ∧
    (∀ n d code addr, s.net[n]? = some (.mgmt d code addr) → s.arrives n = true →
      exec (.mgmt n) s = .next ((s.takeMsg n).toHost 0 code addr d)) ∧
    (∀ n d m, s.net[n]? = some (.report d m) → s.arrives n = true → ∃ u : State, exec (.mgmt n) s = .next u ∧
      u.board.egAlert = s.board.egAlert ++ [m] ∧ u.net = s.net.eraseIdx n)

/-- R333 to R336, R455, R456: a Mortar port accepts the expected flit once, acknowledges it, and refuses any other, as it does
one that fails its CRC; a control flit brings acknowledgements; a flit that has waited 512 slots unacknowledged is replayed
with what follows it, and after the third
failed replay of one flit the module retrains; an alarm or a command starts a retrain, which ends with the link up or out of service. -/
def Sys2Proof.Spec.MortarSteps : Prop :=
  ∀ s : State,
    (∀ link flit t, link < 32 → s.carries (link / 2) = true → Spec.comesFrom s (senderPort link) flit t →
      let d := t.mortarDir link
      let taken : MortarDir := { d with expected := d.expected + 1, nakSent := false, ackDue := some (false, d.expected) }
      (Flit.good flit = false →
        exec (.mortarFlitReceive link flit) s = .next ((t.countLink link false 1).refuse link flit) ∧
        exec (.controlFlit link flit) s = .next ((t.countLink link false 1).refuse link flit)) ∧
      (Flit.good flit = true → Flit.isControl flit = false →
        (Flit.seq flit = d.expected → exec (.mortarFlitReceive link flit) s = .next
          (((t.setMortarDir link taken).takeControl (Spec.back link) flit).acceptFlit (receiverPort link) true flit)) ∧
        (Flit.seq flit ≠ d.expected → exec (.mortarFlitReceive link flit) s =
          .next ((t.takeControl (Spec.back link) flit).refuse link flit))) ∧
      (Flit.good flit = true → Flit.isControl flit = true →
        let v := t.takeControl (Spec.back link) flit
        exec (.controlFlit link flit) s =
          .next (v.setInPort (receiverPort link) (State.countIdle (v.inPort (receiverPort link)) 3)))) ∧
    (∀ link, link < 32 → s.carries (link / 2) = true →
      let d := s.mortarDir link
      ∀ f l, d.unacked = f :: l → 512 ≤ d.waited → d.again = [] →
        let third := d.failedSeq = some (Flit.seq f) ∧ 3 ≤ d.fails + 1
        ∃ u : State, exec (.replayTimeout link) s = .next u ∧
          (third → (u.module (link / 2)).retraining = true) ∧
          (¬ third → (u.mortarDir link).again = d.unacked ∧ (u.mortarDir link).failedSeq = some (Flit.seq f) ∧
            (u.mortarDir link).fails = if d.failedSeq = some (Flit.seq f) then d.fails + 1 else 0)) ∧
    (∀ m, m < 16 →
      let x := s.module m
      (∀ lane, lane < 64 → s.carries m = true → ∃ u : State, exec (.marginAlarm m lane) s = .next u ∧
        (u.module m).retraining = true ∧ (u.module m).weak = x.weak ++ [lane]) ∧
      (s.board.bootState = 2 → x.retraining = false → ∃ u : State, exec (.commandedRetrain m) s = .next u ∧
        (u.module m).retraining = true ∧ (u.module m).commanded = true) ∧
      (x.retraining = true → ∃ u : State, exec (.retrainComplete m) s = .next u ∧ (u.module m).retraining = false ∧
        ((u.module m).inService = true → (u.mortarDir (2 * m)).replay = [] ∧ (u.mortarDir (2 * m)).expected = 0)))

/-- R332, R337, R338, R340: the end of a half-sent packet ends what it carried: a command of an engine with status 32, a copy with
a token of the packet's side, a write with a stop and as performed, a read with a stop, an image with its context's core, a task
back in its heap; a request whose reply has not come in 100,000 ticks ends in the same way; a request to the other die that has no
reply after 20 µs goes again. -/
def Sys2Proof.Spec.LateSteps : Prop :=
  ∀ s : State,
    (∀ n h, s.net[n]? = some (.poison h) →
      let k := Flit.kind h
      let m := (Flit.master h).toNat % 16
      let c := State.masterCore (Flit.master h)
      let core := coreAt (8 * (Flit.dest h / 2048) + Flit.dest h / 16 % 8) (Flit.dest h / 128 % 16)
      let t := s.takeMsg n
      (k = 0xC ∨ k = 0xD → m < 4 → exec (.poison n) s = .next (t.endCommand (4 * c + m))) ∧
      (k = 3 ∨ k = 7 → m < 4 →
        exec (.poison n) s = .next ((t.endWrite (4 * c + m) (Flit.addr h)).stopUncorr (4 * c + m) (Flit.addr h))) ∧
      (k = 1 ∨ k = 2 → m < 4 → exec (.poison n) s = .next (t.stopUncorr (4 * c + m) (Flit.addr h))) ∧
      (k = 1 ∨ k = 2 ∨ k = 3 ∨ k = 7 → m = 4 → exec (.poison n) s = .next (t.endCopyData c (k == 3))) ∧
      (k = 1 ∨ k = 2 ∨ k = 3 ∨ k = 7 → 8 ≤ m →
        exec (.poison n) s = .next (t.endImage (if t.ownedBy core (Flit.ctx h) then core else c) (Flit.ctx h))) ∧
      (k = 0xE ∨ k = 0xF → exec (.poison n) s = .next (t.taskBack core))) ∧
    (∀ q, ((s.steCommands q).head? = none → (s.endCommand q).net = s.net.map fun m => match m with
        | .steReply p id w k => .steReply p id (if p = q then 32 else w) k
        | _ => m) ∧
      (∀ c, (s.steCommands q).head? = some c → ∃ t : State, s.endCommand q = t.steReply c 32 ∧ t.streams = s.streams ∧
        (∀ x ∈ t.net, x ∈ s.net) ∧ (∀ k d, (.steCmd k d : Msg) ∈ t.net → d.replyId ≠ c.replyId) ∧
        (∀ k, (t.ste k).queue = (s.ste k).queue.filter fun d => d.replyId ≠ c.replyId))) ∧
    (∀ q, q < Config.streamCount →
      let late (sent : Nat) : Bool := decide (sent + 100000 ≤ s.now (dieOfCore (q / 4)))
      let write := (s.stream q).storeQ.find? fun e => e.phase ≠ .queued && !s.isFarReduction q e && late e.sentAt
      (∀ e, write = some e → exec (.replyTimerExpiry q) s = .next ((s.dropStore q e).stopUncorr q e.va)) ∧
      (write = none → ∀ since rows a, (s.stream q).wait = .link since rows a → late since = true →
        exec (.replyTimerExpiry q) s = .next (s.stopUncorr q a)) ∧
      (write = none → s.lateLink q = none → ∀ p r n d x va take y, s.lateNews q = some (.feReply p r n) →
        (s.stream q).wait = .fe d x va take y →
        exec (.replyTimerExpiry q) s = .next (s.stopUncorr q va)) ∧
      (write = none → s.lateLink q = none → ∀ p k n, s.lateNews q = some (.taskGiven p k n) →
        exec (.replyTimerExpiry q) s = .next (s.taskBack (q / 4))) ∧
      (write = none → s.lateLink q = none → s.lateNews q = none → ∀ i r, s.lateCopy q = some (i, r) →
        exec (.replyTimerExpiry q) s = .next (s.stopCopy (q / 4) i r ⟨32, false, r.addrAt false, none⟩)) ∧
      (write = none → s.lateLink q = none → s.lateNews q = none → s.lateCopy q = none →
        ∀ c, (s.steCommands q).head? = some c → late c.sentAt = true →
        exec (.replyTimerExpiry q) s = .next (s.endCommand q))) ∧
    (∀ a reqnum r, a < 32 →
      ((SMap.get {} (s.die (a / 16)).agents a).out.find? fun x =>
        x.reqnum = reqnum && decide (x.sentAt + 20000 ≤ s.now (a / 16)) && s.rowCarries (a % 16)) = some r →
      ∃ t v formed, s.atomAtFarDie a r = (t, v, formed) ∧ exec (.atomRepeatTimeout a reqnum) s =
        .next (t.mapAgent a fun l => l.map fun x =>
          if x.reqnum = r.reqnum then { x with reply := some v, formed := formed, sentAt := t.now (a / 16) } else x))

/-- R404, R407, R408, R411, R412, R415, R426, R427: a tick adds 2^40 + RATE units to a die's time and a step whole
nanoseconds; calibration gives die 1 its rate, which is free, and an offset within the bound; a regulator takes its register and lets transfers
begin, in the order in which they came, while its level lasts; an alarm narrows the device until it has stayed clear; the clock goes down a step while narrow and
up one while not. -/
def Sys2Proof.Spec.ClockSteps : Prop :=
  ∀ s : State,
    (∀ d, d < 2 → ∃ u : State,
      (u.die d).time = (s.die d).time + BitVec.ofNat 104 ((2 ^ 40 + (s.die d).trate.toInt).toNat) ∧
      (u.die (1 - d)).time = (s.die (1 - d)).time ∧ u.streams = s.streams ∧ u.cells = s.cells ∧
      (u.skew ≤ max 10 s.skew → exec (.oscillatorTick d) s = .next u) ∧
      (max 10 s.skew < u.skew → exec (.oscillatorTick d) s = .next s)) ∧
    (∀ d v, d < 2 → s.board.bootState = 2 → s.sends .hostPort (.command d) = true →
      ∃ u : State, exec (.timeStep d v) s = .next u ∧
        (u.die d).time = (s.die d).time + BitVec.ofNat 104 (v.toNat * 2 ^ 40) ∧
        (u.die 1).txofs = (if d = 0 then (s.die 1).txofs + v else (s.die 1).txofs - v) ∧ u.streams = s.streams) ∧
    (s.reaches (.command 0) (.command 1) = true → ∃ (u : State) (e : Int) (k : Nat), exec .timeCalibration s = .next u ∧
      -10 ≤ e ∧ e ≤ 10 ∧ (u.die 1).txofs = BitVec.ofInt 64 ((s.now 0 : Int) - s.now 1 + e) ∧
      (u.die 1).trate = Config.calibratedRate k ∧ (u.die 1).time = (s.die 1).time ∧ u.die 0 = s.die 0) ∧
    (∀ stack c v, stack < 4 → c < 64 → s.board.bootState = 2 → s.sends .hostPort (.slice (16 * stack)) = true →
      let r := s.regulator (64 * stack + c)
      ∃ u : State, exec (.regulatorWrite stack c v) s = .next u ∧
        let r' := u.regulator (64 * stack + c)
        ((v : Word).getLsbD 63 = false → r'.reg = v &&& 0x80FFFFFF00FFFFFF#64 ∧ r'.held = []) ∧
        (v.getLsbD 63 = true → 4 ≤ v.toNat / 2 ^ 32 % 2 ^ 24 →
          r'.reg = v &&& 0x80FFFFFF00FFFFFF#64 ∧ r'.level = 1000 * (v.toNat / 2 ^ 32 % 2 ^ 24) ∧ r'.held = r.held) ∧
        (v.getLsbD 63 = true → v.toNat / 2 ^ 32 % 2 ^ 24 < 4 → r' = r)) ∧
    (∀ stack c n, stack < 4 → c < 64 →
      let r := s.regulator (64 * stack + c)
      r.reg.getLsbD 63 = true →
      ∃ (u : State) (k : Nat), exec (.regulatorAdmit stack c n) s = .next u ∧ k ≤ n ∧
        let r' := u.regulator (64 * stack + c)
        1000 * (r.held.take k).sum ≤ r.level ∧ r'.level = r.level - 1000 * (r.held.take k).sum ∧
        r'.held = r.held.drop k ∧ (k < n → ∀ m, r'.held.head? = some m → r'.level < 1000 * m)) ∧
    (∀ src, ∃ u : State, exec (.powerAlarm src) s = .next u ∧ u.board.narrow = true ∧ src ∈ u.board.alarms ∧
      u.streams = s.streams) ∧
    (∀ src, ∃ u : State, exec (.alarmClear src) s = .next u ∧ src ∉ u.board.alarms ∧
      ((∀ a ∈ s.board.alarms, a = src) → u.board.narrow = false) ∧
      ((∃ a ∈ s.board.alarms, a ≠ src) → u.board.narrow = s.board.narrow)) ∧
    (s.board.narrow = true → Config.clockFloor < s.board.clock →
      exec .clockStepDown s = .next { s with board := { s.board with clock := s.board.clock - 1 } }) ∧
    (s.board.narrow = false → s.board.clock < Config.clockTop →
      exec .clockStepUp s = .next { s with board := { s.board with clock := s.board.clock + 1 } })

/-- R290, R417, R420 to R425: a cold reset, or a write of 1 to the reboot register while running, boots from flash: the
machine runs in state 2 where every step passes, or waits in state 3 with the reason of the first that fails; a rollback
commit raises the fuses; the clear registers end a freeze; a write to the privileged window acts on the register at its
offset; the host reads and writes the memory that it reaches, what a read returns joining what the host port has to send, and
a write to a sealed range freezes its port,
where no write to device memory is performed until the freeze is cleared. -/
def Sys2Proof.Spec.HostSteps : Prop :=
  ∀ s : State,
    (let r (k : Nat) := Boot.reason s.heldInReset.board s.board.flash 0x20000 (Config.bootTrains k)
     ∃ (u : State) (k : Nat), exec .coldReset s = .next u ∧
      (s.board.bootState = 2 → exec (.reboot 1) s = .next u) ∧
      (r k = 0 → u.board.bootState = 2 ∧ u.board.bootReason = 0 ∧
        u.board.runningRollback = Boot.rollback s.board.flash 0x20000) ∧
      (r k ≠ 0 → u.board.bootState = 3 ∧ u.board.bootReason = BitVec.ofNat 8 (r k)) ∧
      u.board.flash = s.board.flash ∧ u.board.fuses = s.board.fuses ∧ ∀ q, u.stream q = State.reset.stream q) ∧
    (s.board.bootState = 2 →
      exec (.rollbackCommit 1) s =
        .next { s with board := { s.board with fuses := max s.board.fuses s.board.runningRollback } } ∧
      exec (.hostPortFreezeClear 1) s =
        .next { s with board := { s.board with hostFrozen := false, sealedFirst := none } } ∧
      (∀ k, k < 4 → s.sends .hostPort (.ste k) = true →
        exec (.steFreezeClear k 1) s = .next (s.setSte k { s.ste k with frozen := false }) ∧
        exec (.hostWindowWrite (0x200 + 8 * k) 1) s = .next (s.setSte k { s.ste k with frozen := false })) ∧
      (∀ c, c < Config.coreCount → s.sends .hostPort (.core c) = true →
        exec (.copyEngineFreezeClear c 1) s = .next (s.setCore c { s.core c with copyFrozen := false }) ∧
        exec (.hostWindowWrite (0x400 + 8 * c) 1) s = .next (s.setCore c { s.core c with copyFrozen := false })) ∧
      (∀ d v, d < 2 → s.sends .hostPort (.command d) = true → exec (.hostWindowWrite (0xD10 + 8 * d) v) s =
        .next (s.setDie d { s.die d with trate := v.setWidth 32 })) ∧
      (∀ a l, a + l.length ≤ 2 ^ 38 →
        (s.board.hostFrozen = false → s.reachesSealed a l.length = false → s.hostReaches a l.length = true →
          exec (.hostWrite .device a l) s = .next (s.homeWrite 0 s.hostWriter (placed a l)).toHostBare) ∧
        (s.board.hostFrozen = true ∨ s.reachesSealed a l.length = true →
          ∃ u : State, exec (.hostWrite .device a l) s = .next u ∧ u.board.hostFrozen = true ∧ u.cells = s.cells ∧
            u.board.sealedFirst = some (s.board.sealedFirst.getD a) ∧
            u.board.egPrompt = s.board.egPrompt ++ [⟨false, []⟩])) ∧
      (∀ a n t l, a + n ≤ 2 ^ 38 → s.hostReaches a n = true → s.readHome a n .host = (t, .ok l) →
        (n ≤ 8 → exec (.hostRead .device a n) s = .next (t.toHostPrompt ⟨true, l⟩)) ∧
        (8 < n → exec (.hostRead .device a n) s = .next (t.toHostBulk ⟨true, l⟩)))) ∧
    (∀ a l, a + l.length ≤ 2 ^ 48 →
      exec (.hostWrite .host a l) s = .next (s.homeWrite 0 s.hostWriter (placed (2 ^ 52 + a) l)))

/-- The steps of the links (Spec.PortSteps, Spec.MortarSteps, Spec.LateSteps). The layers of messages and flits, and the
ends of poisoned messages, are the model's (logs 28, 50, 51, 52, 76, 95). -/
def Obligations.LinkStepsComplete : Prop := Spec.PortSteps ∧ Spec.MortarSteps ∧ Spec.LateSteps

/-- The steps of clocks, boot and host (Spec.ClockSteps, Spec.HostSteps). Calibration, regulators, alarms, boots and sealed
ranges are as logs 10, 12, 55, 57, 58, 59, 83 and 90 say. -/
def Obligations.ClockAndHostStepsComplete : Prop := Spec.ClockSteps ∧ Spec.HostSteps
/-! ## Frames -/

/-- The register files of a stream. -/
inductive Sys2Proof.Spec.File where
  | scalar | predicate | predicates | loop | extension | handle | vector | tile | accumulator | none
  deriving DecidableEq

/-- The file and the register that a word which neither touches memory nor sends anything may write; nothing for any other
word. A call writes S31; a branch writes no register. -/
def Sys2Proof.Spec.destination : Instr → Option (Spec.File × Nat)
  | .batMov d _ | .batAdd d _ | .batSub d _ | .batAnd d _ | .batOr d _ | .batXor d _ | .batShl d _
  | .batShr d _ | .batSra d _ | .batMul d _ => some (.scalar, d.toNat)
  | .movi _ _ d | .addi _ _ d | .andi _ _ d | .ori _ _ d | .xori _ _ d | .shli _ _ d | .shri _ _ d
  | .srai _ _ d | .muli _ _ d | .movh _ _ d | .add _ d _ _ | .sub _ d _ _ | .mul _ d _ _ | .mulh _ d _ _
  | .mulhu _ d _ _ | .mulhm _ d _ _ | .div _ d _ _ | .divu _ d _ _ | .rem _ d _ _ | .remu _ d _ _
  | .min _ d _ _ | .minu _ d _ _ | .max _ d _ _ | .maxu _ d _ _ | .adds _ d _ _ | .subs _ d _ _
  | .addsu _ d _ _ | .subsu _ d _ _ | .abs _ d _ | .neg _ d _ | .and _ d _ _ | .or _ d _ _ | .xor _ d _ _
  | .andn _ d _ _ | .orn _ d _ _ | .xnor _ d _ _ | .shl _ d _ _ | .shr _ d _ _ | .sra _ d _ _ | .rol _ d _ _
  | .ror _ d _ _ | .clz _ d _ | .ctz _ d _ | .popc _ d _ | .brev _ d _ | .bswap _ d _ | .sxtB _ d _
  | .sxtH _ d _ | .sxtW _ d _ | .zxtB _ d _ | .zxtH _ d _ | .zxtW _ d _ | .bfx _ d _ _ | .bfxu _ d _ _
  | .bfi _ d _ _ | .addW _ d _ _ | .subW _ d _ _ | .mulW _ d _ _ | .divW _ d _ _ | .divuW _ d _ _
  | .remW _ d _ _ | .remuW _ d _ _ | .shlW _ d _ _ | .shrW _ d _ _ | .sraW _ d _ _ | .rdi _ d _ | .rdlc _ d _
  | .rdlb _ d _ | .rdp _ d | .rdpc _ d | .madd _ d _ _ | .msub _ d _ _ | .shadd1 _ d _ _ | .shadd2 _ d _ _
  | .shadd3 _ d _ _ | .shadd4 _ d _ _ | .sel _ d _ _ _ | .cset _ d _ | .selz _ d _ _ | .fadd _ d _ _ _
  | .fsub _ d _ _ _ | .fmul _ d _ _ _ | .fdiv _ d _ _ _ | .fma _ d _ _ _ | .fms _ d _ _ _ | .fsqrt _ d _ _
  | .fcvtIF _ d _ _ | .fmin _ d _ _ | .fmax _ d _ _ | .fneg _ d _ | .fabs _ d _ | .fcpys _ d _ _
  | .fclass _ d _ | .fcvtFI _ d _ _ | .fcvtFU _ d _ _ | .fcvtUF _ d _ _ | .xget _ d _ | .sysr _ _ d
  | .vext _ d _ _ | .rdus _ d _ | .rdtime _ d _ | .rangeRd _ d _ _ | .taskInfo _ d _ => some (.scalar, d.toNat)
  | .cmp _ d _ _ _ | .icmpi _ _ _ _ d | .pand _ d _ _ | .por _ d _ _ | .pxor _ d _ _ | .pandn _ d _ _
  | .porn _ d _ _ | .pnand _ d _ _ | .pnor _ d _ _ | .pxnor _ d _ _ | .fcmp _ d _ _ _ | .vany _ d _
  | .vall _ d _ => some (.predicate, d.toNat)
  | .vaddF _ d _ _ _ | .vsubF _ d _ _ _ | .vmulF _ d _ _ _ | .vdivF _ d _ _ _ | .vminF _ d _ _ | .vmaxF _ d _ _
  | .vfmaF _ d _ _ _ | .vfmsF _ d _ _ _ | .vsqrt _ d _ _ | .vrcp _ d _ _ | .vrsq _ d _ _ | .vexp2 _ d _ _
  | .vlog2 _ d _ _ | .vnegF _ d _ | .vabsF _ d _ | .vcpysF _ d _ _ | .vclassF _ d _ | .vrndF _ d _ _
  | .vaddI _ d _ _ | .vsubI _ d _ _ | .vmulI _ d _ _ | .vmulhI _ d _ _ | .vmulhU _ d _ _ | .vminI _ d _ _
  | .vminU _ d _ _ | .vmaxI _ d _ _ | .vmaxU _ d _ _ | .vaddsI _ d _ _ | .vsubsI _ d _ _ | .vaddsU _ d _ _
  | .vsubsU _ d _ _ | .vabsI _ d _ | .vnegI _ d _ | .vmaddI _ d _ _ | .vand _ d _ _ | .vor _ d _ _
  | .vxor _ d _ _ | .vandn _ d _ _ | .vnot _ d _ | .vshl _ d _ _ | .vshr _ d _ _ | .vsra _ d _ _
  | .vshli _ d _ _ | .vshri _ d _ _ | .vsrai _ d _ _ | .vpopc _ d _ | .vclz _ d _ | .vfcmpEq _ d _ _
  | .vfcmpLt _ d _ _ | .vfcmpLe _ d _ _ | .vfcmpUn _ d _ _ | .vfcmpNe _ d _ _ | .vcmpEq _ d _ _
  | .vcmpNe _ d _ _ | .vcmpLt _ d _ _ | .vcmpLe _ d _ _ | .vcmpLtu _ d _ _ | .vcmpLeu _ d _ _ | .vsel _ d _ _ _
  | .vcvtFI _ d _ _ | .vcvtFU _ d _ _ | .vcvtIF _ d _ _ | .vcvtUF _ d _ _ | .vpackF16 _ d _ _ _
  | .vpackBf16 _ d _ _ _ | .vpackE4m3Lo _ d _ _ _ | .vpackE4m3Hi _ d _ _ _ | .vpackE5m2Lo _ d _ _ _
  | .vpackE5m2Hi _ d _ _ _ | .vpackI16 _ d _ _ | .vpackI8Lo _ d _ _ | .vpackI8Hi _ d _ _ | .vunpkF16 _ d _ _
  | .vunpkBf16 _ d _ _ | .vunpkE4m3 _ d _ _ | .vunpkE5m2 _ d _ _ | .vunpkTc8 _ d _ _ _ | .vunpkI16 _ d _ _
  | .vunpkI8 _ d _ _ | .vredAddF _ d _ _ | .vredMinF _ d _ | .vredMaxF _ d _ | .vredAddI _ d _
  | .vredMinI _ d _ | .vredMaxI _ d _ | .vredMinU _ d _ | .vredMaxU _ d _ | .vscanAddF _ d _ _
  | .vscanAddI _ d _ | .vmov _ d _ | .viota _ d | .vperm _ d _ _ | .vrot _ d _ _ | .vbcst _ d _ _
  | .vzipLo _ d _ _ | .vzipHi _ d _ _ | .vuzpEv _ d _ _ | .vuzpOd _ d _ _ | .vrng _ d _ _ | .vrngU _ d _ _
  | .vfromt _ d _ _ | .vins _ d _ _ | .vbcs _ d _ | .cbkEncLo _ d _ _ _ | .cbkEncHi _ d _ _ _
  | .vencF4 _ d _ _ _ | .vdecF4 _ d _ _ => some (.vector, d.toNat)
  | .vtot _ d _ _ | .tmov _ d _ | .tzero _ d | .tcvt _ d _ _ _ _ _ | .tred _ d _ _ _ _ | .ccvtE4m3 _ d _ _ _
  | .ccvtE5m2 _ d _ _ _ | .ccvtF16 _ d _ _ _ | .ccvtBf16 _ d _ _ _ | .ccvtF32 _ d _ _ _ | .ccvtF4 _ d _ _ _ => some (.tile, d.toNat)
  | .mma _ d _ _ _ _ | .mmaSp _ d _ _ _ _ | .mmaTc _ d _ _ _ _ _ | .czero _ d | .cmov _ d _ | .csclR _ d _ _ _
  | .csclC _ d _ _ _ => some (.accumulator, d.toNat)
  | .hsetd _ d _ _ _ | .hoff _ d _ _ => some (.handle, d.toNat)
  | .xset _ d _ => some (.extension, d.toNat)
  | .wri _ d _ | .wrlc _ d _ | .wrlb _ d _ => some (.loop, d.toNat)
  | .wrus _ d _ => some (.scalar, 28 + d.toNat)
  | .wrp _ _ => some (.predicates, 0)
  | .bL _ _ _ | .jrL _ _ _ | .batB _ | .batJr _ => some (.none, 0)
  | .batCall _ | .callL _ _ _ | .callr _ _ _ => some (.scalar, 31)
  | _ => none

/-- Every register of the running stream but one is as before. -/
def Sys2Proof.Spec.KeepsFiles (s t : State) (f : Spec.File) (n : Nat) : Prop :=
  let x := s.me
  let y := t.me
  (∀ k : Fin 32, ¬ (f = .scalar ∧ k.val = n) → y.s[k] = x.s[k]) ∧
  (¬ (f = .scalar ∧ n = 28) → y.sb28 = x.sb28) ∧ (¬ (f = .scalar ∧ n = 29) → y.sb29 = x.sb29) ∧
  (∀ k : Fin 8, f ≠ .predicates → ¬ (f = .predicate ∧ k.val = n) → y.p[k] = x.p[k]) ∧
  (∀ k : Fin 4, ¬ (f = .loop ∧ k.val = n) → y.lb[k] = x.lb[k]) ∧
  (∀ k : Fin 8, ¬ (f = .extension ∧ k.val = n) → y.x[k] = x.x[k]) ∧
  (∀ k : Fin 16, ¬ (f = .handle ∧ k.val = n) → y.h[k] = x.h[k]) ∧
  (∀ k : Fin 16, ¬ (f = .vector ∧ k.val = n) → y.v[k] = x.v[k]) ∧
  (∀ k : Fin 16, ¬ (f = .tile ∧ k.val = n) → y.t[k] = x.t[k]) ∧
  (∀ k : Fin 4, ¬ (f = .accumulator ∧ k.val = n) → y.c[k] = x.c[k]) ∧ y.k = x.k

/-- The system registers of the running stream, its memberships and its range slots but for their counts are as before; those
registers that taking an exception writes, where none was taken and the stream has not stopped. -/
def Sys2Proof.Spec.KeepsSpecial (s t : State) : Prop :=
  let x := s.me
  let y := t.me
  y.srseed = x.srseed ∧ y.nftrap = x.nftrap ∧ y.fewait = x.fewait ∧ y.trapbase = x.trapbase ∧ y.tdead = x.tdead ∧
  y.bp = x.bp ∧ y.pend = x.pend ∧ y.hval = x.hval ∧ y.skip = x.skip ∧ y.groups = x.groups ∧
  (∀ k : Fin 8, y.n[k] = { x.n[k] with count := y.n[k].count }) ∧
  (y.level = x.level → y.faultMark = false →
    y.epc = x.epc ∧ y.ecause = x.ecause ∧ y.eaddr = x.eaddr ∧ y.step = x.step ∧ y.task = x.task)

/-- R90, R91, R98 to R113, R130, R139 to R149, R180 to R195: a word of the register files, whatever it comes to, writes no
register but its destination, no byte of memory, no system register but those of the exception it may take, and no other
stream. The index and the count of a loop pair that cannot end are as before. -/
def Obligations.RegisterWordsKeepTheRest : Prop :=
  ∀ (i : Instr) (s t : State) (f : Spec.File) (n : Nat), Spec.destination i = some (f, n) → exec i s = .next t →
    t.cur = s.cur ∧ Spec.KeepsFiles s t f n ∧ Spec.KeepsSpecial s t ∧ t.me.m = s.me.m ∧
    (t.me.level = s.me.level → t.me.faultMark = false → t.me.n = s.me.n) ∧
    (∀ k : BitVec 2, ¬ (f = .loop ∧ k.toNat = n) → (∀ a, s.me.endsAt k a = false) →
      t.me.lc[k.toNat] = s.me.lc[k.toNat] ∧ t.me.i[k.toNat] = s.me.i[k.toNat]) ∧
    t.me.storeQ = s.me.storeQ ∧ (∀ place, t.byteAt place = s.byteAt place) ∧ ∀ q, q ≠ s.cur → t.stream q = s.stream q

/-- The register that a load of global memory writes: the scalar loads, the vector loads and `HLD`. -/
def Sys2Proof.Spec.loads : Instr → Option (Spec.File × Nat)
  | .ldB _ _ _ d | .ldBu _ _ _ d | .ldH _ _ _ d | .ldHu _ _ _ d | .ldW _ _ _ d | .ldWu _ _ _ d | .ldD _ _ _ d
  | .ldxD _ _ _ d | .batLdD d _ => some (.scalar, d.toNat)
  | .vld _ d _ | .vldx _ d _ | .vlds _ d _ _ | .vgth _ d _ _ => some (.vector, d.toNat)
  | .hld _ d _ => some (.handle, d.toNat)
  | _ => none

/-- The words that store: the scalar, vector, tile, accumulator and handle stores, `STL`, `STR`, the reductions, `STFL` and
`FECLR`. -/
def Sys2Proof.Spec.stores : Instr → Bool
  | .stB _ _ _ _ | .stH _ _ _ _ | .stW _ _ _ _ | .stD _ _ _ _ | .batStD _ _ | .hst _ _ _ | .hstL _ _ _ | .vst _ _ _
  | .vstL _ _ _ | .vsts _ _ _ _ | .vstsL _ _ _ _ | .vsct _ _ _ _ | .vsctL _ _ _ _ | .vstm _ _ _ _ | .vstmL _ _ _ _
  | .tst _ _ _ _ | .cst _ _ _ | .stl _ _ _ _ _ _ | .str _ _ _ _ | .redAddW _ _ _ | .redAddD _ _ _ | .redMinW _ _ _
  | .redMinD _ _ _ | .redMaxW _ _ _ | .redMaxD _ _ _ | .redAndW _ _ _ | .redAndD _ _ _ | .redOrW _ _ _
  | .redOrD _ _ _ | .redXorW _ _ _ | .redXorD _ _ _ | .redAddF32 _ _ _ | .stfl _ _ _ | .feclr _ _ => true
  | _ => false

/-- The `ATOM` forms: the register that takes the old value, and the one that holds the address. -/
def Sys2Proof.Spec.atoms : Instr → Option (BitVec 5 × BitVec 5)
  | .atomAdd _ d a _ _ | .atomMin _ d a _ _ | .atomMax _ d a _ _ | .atomAnd _ d a _ _ | .atomOr _ d a _ _
  | .atomXor _ d a _ _ | .atomXchg _ d a _ _ | .atomCas _ d a _ _ | .atomFaddF32 _ d a _ => some (d, a)
  | _ => none

/-- The bytes of a list are stored and every other byte reads as before, each byte of the list at a place of its own. -/
def Sys2Proof.Spec.StoresOnly (s t : State) (cells : List (Nat × Byte)) : Prop :=
  (∀ place, (∀ b ∈ cells, s.cellKey b.1 ≠ s.cellKey place) → t.byteAt place = s.byteAt place) ∧
  ((cells.map fun b => s.cellKey b.1).Nodup → ∀ b ∈ cells, t.byteAt b.1 = b.2)

/-- The scratchpad pages that a write goes to are resident. -/
def Sys2Proof.Spec.onPages (s : State) (e : StoreEntry) : Prop :=
  ∀ b ∈ e.cells, State.isLocalPlace b.1 = true →
    (s.page (State.pageOfPlace b.1).1 (State.pageOfPlace b.1).2).resident = true

/-- R155, R168, R226, R232, R234, R240, R242, R244, R281: a load of global memory by a stream with no store waiting changes
no register but its own and no byte of memory, unless its data stops the stream; a word that stores changes neither when it
executes; an `ATOM` form changes its register, and of memory no byte beside the 8 from its address on. When a piece of a
queued write, an `STR` packet or a reduction is carried out at its home, no other byte changes; and each byte of a write
reads as stored. No context is switched out with a monitor here, and the pages that a write goes to are resident. That a
load reads in the step of its word is the model's (log 60). -/
def Obligations.LoadsAndStoresKeepTheRest : Prop :=
  (∀ (i : Instr) (s t : State) (f : Spec.File) (n : Nat), Spec.loads i = some (f, n) → s.me.storeQ = [] → exec i s = .next t →
    t.me.faultMark = false →
    t.cur = s.cur ∧ Spec.KeepsFiles s t f n ∧ Spec.KeepsSpecial s t ∧ t.me.m = s.me.m ∧
      ∀ place, t.byteAt place = s.byteAt place) ∧
  (∀ (i : Instr) (s t : State), Spec.stores i = true → exec i s = .next t → t.me.faultMark = false →
    t.cur = s.cur ∧ Spec.KeepsFiles s t .none 0 ∧ Spec.KeepsSpecial s t ∧ t.me.m = s.me.m ∧
      (∀ place, t.byteAt place = s.byteAt place) ∧ ∀ q, q ≠ s.cur → t.stream q = s.stream q) ∧
  (∀ (i : Instr) (s t : State) (d a : BitVec 5), Spec.atoms i = some (d, a) → s.me.storeQ = [] →
    (∀ k, (s.die k).parked = []) → exec i s = .next t → t.me.faultMark = false →
    t.cur = s.cur ∧ Spec.KeepsFiles s t .scalar d.toNat ∧ Spec.KeepsSpecial s t ∧
      ∀ place, (∀ p full, s.translate (s.readS a).toNat .both = .ok p full → ∀ j, j < 8 → s.cellKey (p + j) ≠ s.cellKey place) →
        t.byteAt place = s.byteAt place) ∧
  (∀ (s t : State) (q : Nat), s.memWf → (∀ d, (s.die d).parked = []) →
    (let ready := (s.sentWrites q fun k => k == .scalar || k == .wide).filter fun e => (State.piecesOf e).any (s.mayLand q e)
     ready ≠ [] → (∀ e ∈ ready, Spec.onPages s e) → exec (.write q) s = .next t →
     ∃ e ∈ ready, ∃ k ∈ State.piecesOf e, s.mayLand q e k = true ∧
       Spec.StoresOnly s t (e.cells.filter fun b => e.piece b.1 == k)) ∧
    (let ready := (s.sentWrites q State.isRemote).filter fun e => e.cells.all fun b => s.mayLand q e b.1
     ready ≠ [] → (∀ e ∈ ready, Spec.onPages s e) → exec (.strPacket q) s = .next t →
     ∃ e ∈ ready, Spec.StoresOnly s t e.cells) ∧
    (let ready := (s.sentWrites q State.isReduction).filter fun e => e.cells.all fun b => s.mayLand q e b.1
     ready ≠ [] → (∀ e ∈ ready, ∀ b ∈ e.cells, State.isLocalPlace b.1 = false) → (∀ r ∈ s.agentReqs q, r.2.reply.isSome = true) →
     exec (.atom q) s = .next t → (t.stream q).faultMark = false →
     ∃ e ∈ ready, ∀ place, (∀ p ∈ e.cells.head?, ∀ j, j < 8 → s.cellKey (p.1 + j) ≠ s.cellKey place) →
       t.byteAt place = s.byteAt place))

/-! ## Invariants -/

/-- The memory of the machine after reset is in its canonical form: addresses rise and no listed byte is the one that an
unlisted address reads as. The form, and that nothing is listed at reset, are the model's choice (log 1). -/
def Obligations.ResetMemoryIsCanonical : Prop := State.reset.memWf

/-- Every step keeps the memory in its canonical form. The form is the model's choice (log 1). -/
def Obligations.StepKeepsMemoryCanonical : Prop := ∀ s t : State, s.memWf → step s = .next t → t.memWf

/-- The registers have no reserved bit set (R8, R92, R129, R210), and the saved cause is one of R200. -/
def Sys2Proof.Spec.LegalRegs (r : Regs) : Prop :=
  r.epc = maskEpc r.epc ∧ r.trapbase = maskTrapbase r.trapbase ∧ r.ecause.toNat ≤ 18 ∧
  (∀ k : Fin 8, r.bp[k] = maskBp r.bp[k]) ∧ ∀ k : Fin 4, r.lb[k].toNat < 2 ^ 57

/-- Every stream has legal registers, those that a squash would bring back too, and at most 24 entries in its partition of the TRB
(R163). -/
def Sys2Proof.Spec.Legal (s : State) : Prop :=
  ∀ q, Spec.LegalRegs (s.stream q).regs ∧ (s.stream q).trb.length ≤ Config.trbPartition ∧
    ∀ e ∈ (s.stream q).trb, Spec.LegalRegs e.before

/-- The writes of a stream whose words have retired (R234). -/
def Sys2Proof.Spec.retiredWrites (t : Stream) : Nat := (t.storeQ.filter fun f => !(t.trb.any fun e => e.seq == f.seq)).length

/-- R8, R92, R129, R163, R210, R234: reset leaves every stream legal and every step keeps them so; retirement leaves no more
than 16 writes in the store queue of a stream, unless more were there. That an entry is placed when its word decodes is the
model's (log 3). -/
def Obligations.StepKeepsStreamsLegal : Prop :=
  Spec.Legal State.reset ∧ (∀ s t : State, Spec.Legal s → step s = .next t → Spec.Legal t) ∧
  ∀ (s t : State) (c q : Nat), ((s.stream q).storeQ.map (·.seq)).Nodup → exec (.trbRetire c) s = .next t →
    Spec.retiredWrites (t.stream q) ≤ max Config.storeQueueSize (Spec.retiredWrites (s.stream q))
end

