-- ==== Sys2Proof/Laws/Dispatch.lean ====
section
/-! SUPPORT. The dispatch, arm by arm: what `exec` of each constructor is. -/

namespace Sys2Proof.Machine

@[simp] theorem exec_batMov {a b} (s : State) : exec (.batMov a b) s = execBatMov a b s := rfl
@[simp] theorem exec_batAdd {a b} (s : State) : exec (.batAdd a b) s = execBatAdd a b s := rfl
@[simp] theorem exec_batSub {a b} (s : State) : exec (.batSub a b) s = execBatSub a b s := rfl
@[simp] theorem exec_batAnd {a b} (s : State) : exec (.batAnd a b) s = execBatAnd a b s := rfl
@[simp] theorem exec_batOr {a b} (s : State) : exec (.batOr a b) s = execBatOr a b s := rfl
@[simp] theorem exec_batXor {a b} (s : State) : exec (.batXor a b) s = execBatXor a b s := rfl
@[simp] theorem exec_batShl {a b} (s : State) : exec (.batShl a b) s = execBatShl a b s := rfl
@[simp] theorem exec_batShr {a b} (s : State) : exec (.batShr a b) s = execBatShr a b s := rfl
@[simp] theorem exec_batSra {a b} (s : State) : exec (.batSra a b) s = execBatSra a b s := rfl
@[simp] theorem exec_batMul {a b} (s : State) : exec (.batMul a b) s = execBatMul a b s := rfl
@[simp] theorem exec_batLdD {a b} (s : State) : exec (.batLdD a b) s = execBatLdD a b s := rfl
@[simp] theorem exec_batStD {a b} (s : State) : exec (.batStD a b) s = execBatStD a b s := rfl
@[simp] theorem exec_batJr {b} (s : State) : exec (.batJr b) s = execBatJr b s := rfl
@[simp] theorem exec_batB {o} (s : State) : exec (.batB o) s = execBatB o s := rfl
@[simp] theorem exec_batCall {o} (s : State) : exec (.batCall o) s = execBatCall o s := rfl
@[simp] theorem exec_imx {p q} (s : State) : exec (.imx p q) s = execImx p q s := rfl
@[simp] theorem exec_movi {g im d} (s : State) : exec (.movi g im d) s = execMovi g im d s := rfl
@[simp] theorem exec_addi {g im d} (s : State) : exec (.addi g im d) s = execAddi g im d s := rfl
@[simp] theorem exec_andi {g im d} (s : State) : exec (.andi g im d) s = execAndi g im d s := rfl
@[simp] theorem exec_ori {g im d} (s : State) : exec (.ori g im d) s = execOri g im d s := rfl
@[simp] theorem exec_xori {g im d} (s : State) : exec (.xori g im d) s = execXori g im d s := rfl
@[simp] theorem exec_shli {g im d} (s : State) : exec (.shli g im d) s = execShli g im d s := rfl
@[simp] theorem exec_shri {g im d} (s : State) : exec (.shri g im d) s = execShri g im d s := rfl
@[simp] theorem exec_srai {g im d} (s : State) : exec (.srai g im d) s = execSrai g im d s := rfl
@[simp] theorem exec_muli {g im d} (s : State) : exec (.muli g im d) s = execMuli g im d s := rfl
@[simp] theorem exec_movh {g im d} (s : State) : exec (.movh g im d) s = execMovh g im d s := rfl
@[simp] theorem exec_ldB {g b im t} (s : State) : exec (.ldB g b im t) s = execLdB g b im t s := rfl
@[simp] theorem exec_ldBu {g b im t} (s : State) : exec (.ldBu g b im t) s = execLdBu g b im t s := rfl
@[simp] theorem exec_ldH {g b im t} (s : State) : exec (.ldH g b im t) s = execLdH g b im t s := rfl
@[simp] theorem exec_ldHu {g b im t} (s : State) : exec (.ldHu g b im t) s = execLdHu g b im t s := rfl
@[simp] theorem exec_ldW {g b im t} (s : State) : exec (.ldW g b im t) s = execLdW g b im t s := rfl
@[simp] theorem exec_ldWu {g b im t} (s : State) : exec (.ldWu g b im t) s = execLdWu g b im t s := rfl
@[simp] theorem exec_ldD {g b im t} (s : State) : exec (.ldD g b im t) s = execLdD g b im t s := rfl
@[simp] theorem exec_ldxD {g b im t} (s : State) : exec (.ldxD g b im t) s = execLdxD g b im t s := rfl
@[simp] theorem exec_stB {g b im t} (s : State) : exec (.stB g b im t) s = execStB g b im t s := rfl
@[simp] theorem exec_stH {g b im t} (s : State) : exec (.stH g b im t) s = execStH g b im t s := rfl
@[simp] theorem exec_stW {g b im t} (s : State) : exec (.stW g b im t) s = execStW g b im t s := rfl
@[simp] theorem exec_stD {g b im t} (s : State) : exec (.stD g b im t) s = execStD g b im t s := rfl
@[simp] theorem exec_pref {g b im l} (s : State) : exec (.pref g b im l) s = execPref g b im l s := rfl
@[simp] theorem exec_add {g d a b} (s : State) : exec (.add g d a b) s = execAdd g d a b s := rfl
@[simp] theorem exec_sub {g d a b} (s : State) : exec (.sub g d a b) s = execSub g d a b s := rfl
@[simp] theorem exec_mul {g d a b} (s : State) : exec (.mul g d a b) s = execMul g d a b s := rfl
@[simp] theorem exec_mulh {g d a b} (s : State) : exec (.mulh g d a b) s = execMulh g d a b s := rfl
@[simp] theorem exec_mulhu {g d a b} (s : State) : exec (.mulhu g d a b) s = execMulhu g d a b s := rfl
@[simp] theorem exec_mulhm {g d a b} (s : State) : exec (.mulhm g d a b) s = execMulhm g d a b s := rfl
@[simp] theorem exec_div {g d a b} (s : State) : exec (.div g d a b) s = execDiv g d a b s := rfl
@[simp] theorem exec_divu {g d a b} (s : State) : exec (.divu g d a b) s = execDivu g d a b s := rfl
@[simp] theorem exec_rem {g d a b} (s : State) : exec (.rem g d a b) s = execRem g d a b s := rfl
@[simp] theorem exec_remu {g d a b} (s : State) : exec (.remu g d a b) s = execRemu g d a b s := rfl
@[simp] theorem exec_min {g d a b} (s : State) : exec (.min g d a b) s = execMin g d a b s := rfl
@[simp] theorem exec_minu {g d a b} (s : State) : exec (.minu g d a b) s = execMinu g d a b s := rfl
@[simp] theorem exec_max {g d a b} (s : State) : exec (.max g d a b) s = execMax g d a b s := rfl
@[simp] theorem exec_maxu {g d a b} (s : State) : exec (.maxu g d a b) s = execMaxu g d a b s := rfl
@[simp] theorem exec_adds {g d a b} (s : State) : exec (.adds g d a b) s = execAdds g d a b s := rfl
@[simp] theorem exec_subs {g d a b} (s : State) : exec (.subs g d a b) s = execSubs g d a b s := rfl
@[simp] theorem exec_addsu {g d a b} (s : State) : exec (.addsu g d a b) s = execAddsu g d a b s := rfl
@[simp] theorem exec_subsu {g d a b} (s : State) : exec (.subsu g d a b) s = execSubsu g d a b s := rfl
@[simp] theorem exec_abs {g d a} (s : State) : exec (.abs g d a) s = execAbs g d a s := rfl
@[simp] theorem exec_neg {g d a} (s : State) : exec (.neg g d a) s = execNeg g d a s := rfl
@[simp] theorem exec_and {g d a b} (s : State) : exec (.and g d a b) s = execAnd g d a b s := rfl
@[simp] theorem exec_or {g d a b} (s : State) : exec (.or g d a b) s = execOr g d a b s := rfl
@[simp] theorem exec_xor {g d a b} (s : State) : exec (.xor g d a b) s = execXor g d a b s := rfl
@[simp] theorem exec_andn {g d a b} (s : State) : exec (.andn g d a b) s = execAndn g d a b s := rfl
@[simp] theorem exec_orn {g d a b} (s : State) : exec (.orn g d a b) s = execOrn g d a b s := rfl
@[simp] theorem exec_xnor {g d a b} (s : State) : exec (.xnor g d a b) s = execXnor g d a b s := rfl
@[simp] theorem exec_shl {g d a b} (s : State) : exec (.shl g d a b) s = execShl g d a b s := rfl
@[simp] theorem exec_shr {g d a b} (s : State) : exec (.shr g d a b) s = execShr g d a b s := rfl
@[simp] theorem exec_sra {g d a b} (s : State) : exec (.sra g d a b) s = execSra g d a b s := rfl
@[simp] theorem exec_rol {g d a b} (s : State) : exec (.rol g d a b) s = execRol g d a b s := rfl
@[simp] theorem exec_ror {g d a b} (s : State) : exec (.ror g d a b) s = execRor g d a b s := rfl
@[simp] theorem exec_clz {g d a} (s : State) : exec (.clz g d a) s = execClz g d a s := rfl
@[simp] theorem exec_ctz {g d a} (s : State) : exec (.ctz g d a) s = execCtz g d a s := rfl
@[simp] theorem exec_popc {g d a} (s : State) : exec (.popc g d a) s = execPopc g d a s := rfl
@[simp] theorem exec_brev {g d a} (s : State) : exec (.brev g d a) s = execBrev g d a s := rfl
@[simp] theorem exec_bswap {g d a} (s : State) : exec (.bswap g d a) s = execBswap g d a s := rfl
@[simp] theorem exec_sxtB {g d a} (s : State) : exec (.sxtB g d a) s = execSxtB g d a s := rfl
@[simp] theorem exec_sxtH {g d a} (s : State) : exec (.sxtH g d a) s = execSxtH g d a s := rfl
@[simp] theorem exec_sxtW {g d a} (s : State) : exec (.sxtW g d a) s = execSxtW g d a s := rfl
@[simp] theorem exec_zxtB {g d a} (s : State) : exec (.zxtB g d a) s = execZxtB g d a s := rfl
@[simp] theorem exec_zxtH {g d a} (s : State) : exec (.zxtH g d a) s = execZxtH g d a s := rfl
@[simp] theorem exec_zxtW {g d a} (s : State) : exec (.zxtW g d a) s = execZxtW g d a s := rfl
@[simp] theorem exec_bfx {g d a b} (s : State) : exec (.bfx g d a b) s = execBfx g d a b s := rfl
@[simp] theorem exec_bfxu {g d a b} (s : State) : exec (.bfxu g d a b) s = execBfxu g d a b s := rfl
@[simp] theorem exec_bfi {g d a b} (s : State) : exec (.bfi g d a b) s = execBfi g d a b s := rfl
@[simp] theorem exec_addW {g d a b} (s : State) : exec (.addW g d a b) s = execAddW g d a b s := rfl
@[simp] theorem exec_subW {g d a b} (s : State) : exec (.subW g d a b) s = execSubW g d a b s := rfl
@[simp] theorem exec_mulW {g d a b} (s : State) : exec (.mulW g d a b) s = execMulW g d a b s := rfl
@[simp] theorem exec_divW {g d a b} (s : State) : exec (.divW g d a b) s = execDivW g d a b s := rfl
@[simp] theorem exec_divuW {g d a b} (s : State) : exec (.divuW g d a b) s = execDivuW g d a b s := rfl
@[simp] theorem exec_remW {g d a b} (s : State) : exec (.remW g d a b) s = execRemW g d a b s := rfl
@[simp] theorem exec_remuW {g d a b} (s : State) : exec (.remuW g d a b) s = execRemuW g d a b s := rfl
@[simp] theorem exec_shlW {g d a b} (s : State) : exec (.shlW g d a b) s = execShlW g d a b s := rfl
@[simp] theorem exec_shrW {g d a b} (s : State) : exec (.shrW g d a b) s = execShrW g d a b s := rfl
@[simp] theorem exec_sraW {g d a b} (s : State) : exec (.sraW g d a b) s = execSraW g d a b s := rfl
@[simp] theorem exec_rdi {g d a} (s : State) : exec (.rdi g d a) s = execRdi g d a s := rfl
@[simp] theorem exec_rdlc {g d a} (s : State) : exec (.rdlc g d a) s = execRdlc g d a s := rfl
@[simp] theorem exec_wri {g d a} (s : State) : exec (.wri g d a) s = execWri g d a s := rfl
@[simp] theorem exec_wrlc {g d a} (s : State) : exec (.wrlc g d a) s = execWrlc g d a s := rfl
@[simp] theorem exec_rdlb {g d a} (s : State) : exec (.rdlb g d a) s = execRdlb g d a s := rfl
@[simp] theorem exec_wrlb {g d a} (s : State) : exec (.wrlb g d a) s = execWrlb g d a s := rfl
@[simp] theorem exec_rdp {g d} (s : State) : exec (.rdp g d) s = execRdp g d s := rfl
@[simp] theorem exec_wrp {g a} (s : State) : exec (.wrp g a) s = execWrp g a s := rfl
@[simp] theorem exec_rdpc {g d} (s : State) : exec (.rdpc g d) s = execRdpc g d s := rfl
@[simp] theorem exec_madd {g d a b} (s : State) : exec (.madd g d a b) s = execMadd g d a b s := rfl
@[simp] theorem exec_msub {g d a b} (s : State) : exec (.msub g d a b) s = execMsub g d a b s := rfl
@[simp] theorem exec_shadd1 {g d a b} (s : State) : exec (.shadd1 g d a b) s = execShadd1 g d a b s := rfl
@[simp] theorem exec_shadd2 {g d a b} (s : State) : exec (.shadd2 g d a b) s = execShadd2 g d a b s := rfl
@[simp] theorem exec_shadd3 {g d a b} (s : State) : exec (.shadd3 g d a b) s = execShadd3 g d a b s := rfl
@[simp] theorem exec_shadd4 {g d a b} (s : State) : exec (.shadd4 g d a b) s = execShadd4 g d a b s := rfl
@[simp] theorem exec_cmp {g d a b c} (s : State) : exec (.cmp g d a b c) s = execCmp g d a b c s := rfl
@[simp] theorem exec_icmpi {g n c im d} (s : State) : exec (.icmpi g n c im d) s = execIcmpi g n c im d s := rfl
@[simp] theorem exec_pand {g d a b} (s : State) : exec (.pand g d a b) s = execPand g d a b s := rfl
@[simp] theorem exec_por {g d a b} (s : State) : exec (.por g d a b) s = execPor g d a b s := rfl
@[simp] theorem exec_pxor {g d a b} (s : State) : exec (.pxor g d a b) s = execPxor g d a b s := rfl
@[simp] theorem exec_pandn {g d a b} (s : State) : exec (.pandn g d a b) s = execPandn g d a b s := rfl
@[simp] theorem exec_porn {g d a b} (s : State) : exec (.porn g d a b) s = execPorn g d a b s := rfl
@[simp] theorem exec_pnand {g d a b} (s : State) : exec (.pnand g d a b) s = execPnand g d a b s := rfl
@[simp] theorem exec_pnor {g d a b} (s : State) : exec (.pnor g d a b) s = execPnor g d a b s := rfl
@[simp] theorem exec_pxnor {g d a b} (s : State) : exec (.pxnor g d a b) s = execPxnor g d a b s := rfl
@[simp] theorem exec_sel {g d a b c} (s : State) : exec (.sel g d a b c) s = execSel g d a b c s := rfl
@[simp] theorem exec_cset {g d c} (s : State) : exec (.cset g d c) s = execCset g d c s := rfl
@[simp] theorem exec_selz {g d a c} (s : State) : exec (.selz g d a c) s = execSelz g d a c s := rfl
@[simp] theorem exec_fcmp {g d a b c} (s : State) : exec (.fcmp g d a b c) s = execFcmp g d a b c s := rfl
@[simp] theorem exec_fadd {g d a b m} (s : State) : exec (.fadd g d a b m) s = execFadd g d a b m s := rfl
@[simp] theorem exec_fsub {g d a b m} (s : State) : exec (.fsub g d a b m) s = execFsub g d a b m s := rfl
@[simp] theorem exec_fmul {g d a b m} (s : State) : exec (.fmul g d a b m) s = execFmul g d a b m s := rfl
@[simp] theorem exec_fdiv {g d a b m} (s : State) : exec (.fdiv g d a b m) s = execFdiv g d a b m s := rfl
@[simp] theorem exec_fma {g d a b m} (s : State) : exec (.fma g d a b m) s = execFma g d a b m s := rfl
@[simp] theorem exec_fms {g d a b m} (s : State) : exec (.fms g d a b m) s = execFms g d a b m s := rfl
@[simp] theorem exec_fsqrt {g d a m} (s : State) : exec (.fsqrt g d a m) s = execFsqrt g d a m s := rfl
@[simp] theorem exec_fcvtIF {g d a m} (s : State) : exec (.fcvtIF g d a m) s = execFcvtIF g d a m s := rfl
@[simp] theorem exec_fmin {g d a b} (s : State) : exec (.fmin g d a b) s = execFmin g d a b s := rfl
@[simp] theorem exec_fmax {g d a b} (s : State) : exec (.fmax g d a b) s = execFmax g d a b s := rfl
@[simp] theorem exec_fneg {g d a} (s : State) : exec (.fneg g d a) s = execFneg g d a s := rfl
@[simp] theorem exec_fabs {g d a} (s : State) : exec (.fabs g d a) s = execFabs g d a s := rfl
@[simp] theorem exec_fcpys {g d a b} (s : State) : exec (.fcpys g d a b) s = execFcpys g d a b s := rfl
@[simp] theorem exec_fclass {g d a} (s : State) : exec (.fclass g d a) s = execFclass g d a s := rfl
@[simp] theorem exec_fcvtFI {g d a m} (s : State) : exec (.fcvtFI g d a m) s = execFcvtFI g d a m s := rfl
@[simp] theorem exec_fcvtFU {g d a m} (s : State) : exec (.fcvtFU g d a m) s = execFcvtFU g d a m s := rfl
@[simp] theorem exec_fcvtUF {g d a m} (s : State) : exec (.fcvtUF g d a m) s = execFcvtUF g d a m s := rfl
@[simp] theorem exec_bL {g o n} (s : State) : exec (.bL g o n) s = execBL g o n s := rfl
@[simp] theorem exec_callL {g o n} (s : State) : exec (.callL g o n) s = execCallL g o n s := rfl
@[simp] theorem exec_jrL {g a n} (s : State) : exec (.jrL g a n) s = execJrL g a n s := rfl
@[simp] theorem exec_callr {g a n} (s : State) : exec (.callr g a n) s = execCallr g a n s := rfl
@[simp] theorem exec_loop {n a l} (s : State) : exec (.loop n a l) s = execLoop n a l s := rfl
@[simp] theorem exec_lexit {n} (s : State) : exec (.lexit n) s = execLexit n s := rfl
@[simp] theorem exec_hld {g d sc} (s : State) : exec (.hld g d sc) s = execHld g d sc s := rfl
@[simp] theorem exec_hldL {g d sc} (s : State) : exec (.hldL g d sc) s = execHldL g d sc s := rfl
@[simp] theorem exec_hst {g a sc} (s : State) : exec (.hst g a sc) s = execHst g a sc s := rfl
@[simp] theorem exec_hstL {g a sc} (s : State) : exec (.hstL g a sc) s = execHstL g a sc s := rfl
@[simp] theorem exec_hsetd {g d k sc x} (s : State) : exec (.hsetd g d k sc x) s = execHsetd g d k sc x s := rfl
@[simp] theorem exec_hoff {g d k sc} (s : State) : exec (.hoff g d k sc) s = execHoff g d k sc s := rfl
@[simp] theorem exec_xset {g d a} (s : State) : exec (.xset g d a) s = execXset g d a s := rfl
@[simp] theorem exec_xget {g d a} (s : State) : exec (.xget g d a) s = execXget g d a s := rfl
@[simp] theorem exec_sysr {g r d} (s : State) : exec (.sysr g r d) s = execSysr g r d s := rfl
@[simp] theorem exec_sysw {g r d} (s : State) : exec (.sysw g r d) s = execSysw g r d s := rfl
@[simp] theorem exec_sysx {g r d} (s : State) : exec (.sysx g r d) s = execSysx g r d s := rfl
@[simp] theorem exec_vaddF {g d a b m} (s : State) : exec (.vaddF g d a b m) s = execVaddF g d a b m s := rfl
@[simp] theorem exec_vsubF {g d a b m} (s : State) : exec (.vsubF g d a b m) s = execVsubF g d a b m s := rfl
@[simp] theorem exec_vmulF {g d a b m} (s : State) : exec (.vmulF g d a b m) s = execVmulF g d a b m s := rfl
@[simp] theorem exec_vdivF {g d a b m} (s : State) : exec (.vdivF g d a b m) s = execVdivF g d a b m s := rfl
@[simp] theorem exec_vminF {g d a b} (s : State) : exec (.vminF g d a b) s = execVminF g d a b s := rfl
@[simp] theorem exec_vmaxF {g d a b} (s : State) : exec (.vmaxF g d a b) s = execVmaxF g d a b s := rfl
@[simp] theorem exec_vfmaF {g d a b m} (s : State) : exec (.vfmaF g d a b m) s = execVfmaF g d a b m s := rfl
@[simp] theorem exec_vfmsF {g d a b m} (s : State) : exec (.vfmsF g d a b m) s = execVfmsF g d a b m s := rfl
@[simp] theorem exec_vsqrt {g d a m} (s : State) : exec (.vsqrt g d a m) s = execVsqrt g d a m s := rfl
@[simp] theorem exec_vrcp {g d a m} (s : State) : exec (.vrcp g d a m) s = execVrcp g d a m s := rfl
@[simp] theorem exec_vrsq {g d a m} (s : State) : exec (.vrsq g d a m) s = execVrsq g d a m s := rfl
@[simp] theorem exec_vexp2 {g d a m} (s : State) : exec (.vexp2 g d a m) s = execVexp2 g d a m s := rfl
@[simp] theorem exec_vlog2 {g d a m} (s : State) : exec (.vlog2 g d a m) s = execVlog2 g d a m s := rfl
@[simp] theorem exec_vnegF {g d a} (s : State) : exec (.vnegF g d a) s = execVnegF g d a s := rfl
@[simp] theorem exec_vabsF {g d a} (s : State) : exec (.vabsF g d a) s = execVabsF g d a s := rfl
@[simp] theorem exec_vcpysF {g d a b} (s : State) : exec (.vcpysF g d a b) s = execVcpysF g d a b s := rfl
@[simp] theorem exec_vclassF {g d a} (s : State) : exec (.vclassF g d a) s = execVclassF g d a s := rfl
@[simp] theorem exec_vrndF {g d a m} (s : State) : exec (.vrndF g d a m) s = execVrndF g d a m s := rfl
@[simp] theorem exec_vaddI {g d a b} (s : State) : exec (.vaddI g d a b) s = execVaddI g d a b s := rfl
@[simp] theorem exec_vsubI {g d a b} (s : State) : exec (.vsubI g d a b) s = execVsubI g d a b s := rfl
@[simp] theorem exec_vmulI {g d a b} (s : State) : exec (.vmulI g d a b) s = execVmulI g d a b s := rfl
@[simp] theorem exec_vmulhI {g d a b} (s : State) : exec (.vmulhI g d a b) s = execVmulhI g d a b s := rfl
@[simp] theorem exec_vmulhU {g d a b} (s : State) : exec (.vmulhU g d a b) s = execVmulhU g d a b s := rfl
@[simp] theorem exec_vminI {g d a b} (s : State) : exec (.vminI g d a b) s = execVminI g d a b s := rfl
@[simp] theorem exec_vminU {g d a b} (s : State) : exec (.vminU g d a b) s = execVminU g d a b s := rfl
@[simp] theorem exec_vmaxI {g d a b} (s : State) : exec (.vmaxI g d a b) s = execVmaxI g d a b s := rfl
@[simp] theorem exec_vmaxU {g d a b} (s : State) : exec (.vmaxU g d a b) s = execVmaxU g d a b s := rfl
@[simp] theorem exec_vaddsI {g d a b} (s : State) : exec (.vaddsI g d a b) s = execVaddsI g d a b s := rfl
@[simp] theorem exec_vsubsI {g d a b} (s : State) : exec (.vsubsI g d a b) s = execVsubsI g d a b s := rfl
@[simp] theorem exec_vaddsU {g d a b} (s : State) : exec (.vaddsU g d a b) s = execVaddsU g d a b s := rfl
@[simp] theorem exec_vsubsU {g d a b} (s : State) : exec (.vsubsU g d a b) s = execVsubsU g d a b s := rfl
@[simp] theorem exec_vabsI {g d a} (s : State) : exec (.vabsI g d a) s = execVabsI g d a s := rfl
@[simp] theorem exec_vnegI {g d a} (s : State) : exec (.vnegI g d a) s = execVnegI g d a s := rfl
@[simp] theorem exec_vmaddI {g d a b} (s : State) : exec (.vmaddI g d a b) s = execVmaddI g d a b s := rfl
@[simp] theorem exec_vand {g d a b} (s : State) : exec (.vand g d a b) s = execVand g d a b s := rfl
@[simp] theorem exec_vor {g d a b} (s : State) : exec (.vor g d a b) s = execVor g d a b s := rfl
@[simp] theorem exec_vxor {g d a b} (s : State) : exec (.vxor g d a b) s = execVxor g d a b s := rfl
@[simp] theorem exec_vandn {g d a b} (s : State) : exec (.vandn g d a b) s = execVandn g d a b s := rfl
@[simp] theorem exec_vnot {g d a} (s : State) : exec (.vnot g d a) s = execVnot g d a s := rfl
@[simp] theorem exec_vshl {g d a b} (s : State) : exec (.vshl g d a b) s = execVshl g d a b s := rfl
@[simp] theorem exec_vshr {g d a b} (s : State) : exec (.vshr g d a b) s = execVshr g d a b s := rfl
@[simp] theorem exec_vsra {g d a b} (s : State) : exec (.vsra g d a b) s = execVsra g d a b s := rfl
@[simp] theorem exec_vshli {g d a k} (s : State) : exec (.vshli g d a k) s = execVshli g d a k s := rfl
@[simp] theorem exec_vshri {g d a k} (s : State) : exec (.vshri g d a k) s = execVshri g d a k s := rfl
@[simp] theorem exec_vsrai {g d a k} (s : State) : exec (.vsrai g d a k) s = execVsrai g d a k s := rfl
@[simp] theorem exec_vpopc {g d a} (s : State) : exec (.vpopc g d a) s = execVpopc g d a s := rfl
@[simp] theorem exec_vclz {g d a} (s : State) : exec (.vclz g d a) s = execVclz g d a s := rfl
@[simp] theorem exec_vfcmpEq {g d a b} (s : State) : exec (.vfcmpEq g d a b) s = execVfcmpEq g d a b s := rfl
@[simp] theorem exec_vfcmpLt {g d a b} (s : State) : exec (.vfcmpLt g d a b) s = execVfcmpLt g d a b s := rfl
@[simp] theorem exec_vfcmpLe {g d a b} (s : State) : exec (.vfcmpLe g d a b) s = execVfcmpLe g d a b s := rfl
@[simp] theorem exec_vfcmpUn {g d a b} (s : State) : exec (.vfcmpUn g d a b) s = execVfcmpUn g d a b s := rfl
@[simp] theorem exec_vfcmpNe {g d a b} (s : State) : exec (.vfcmpNe g d a b) s = execVfcmpNe g d a b s := rfl
@[simp] theorem exec_vcmpEq {g d a b} (s : State) : exec (.vcmpEq g d a b) s = execVcmpEq g d a b s := rfl
@[simp] theorem exec_vcmpNe {g d a b} (s : State) : exec (.vcmpNe g d a b) s = execVcmpNe g d a b s := rfl
@[simp] theorem exec_vcmpLt {g d a b} (s : State) : exec (.vcmpLt g d a b) s = execVcmpLt g d a b s := rfl
@[simp] theorem exec_vcmpLe {g d a b} (s : State) : exec (.vcmpLe g d a b) s = execVcmpLe g d a b s := rfl
@[simp] theorem exec_vcmpLtu {g d a b} (s : State) : exec (.vcmpLtu g d a b) s = execVcmpLtu g d a b s := rfl
@[simp] theorem exec_vcmpLeu {g d a b} (s : State) : exec (.vcmpLeu g d a b) s = execVcmpLeu g d a b s := rfl
@[simp] theorem exec_vsel {g d a b c} (s : State) : exec (.vsel g d a b c) s = execVsel g d a b c s := rfl
@[simp] theorem exec_vany {g d a} (s : State) : exec (.vany g d a) s = execVany g d a s := rfl
@[simp] theorem exec_vall {g d a} (s : State) : exec (.vall g d a) s = execVall g d a s := rfl
@[simp] theorem exec_vcvtFI {g d a m} (s : State) : exec (.vcvtFI g d a m) s = execVcvtFI g d a m s := rfl
@[simp] theorem exec_vcvtFU {g d a m} (s : State) : exec (.vcvtFU g d a m) s = execVcvtFU g d a m s := rfl
@[simp] theorem exec_vcvtIF {g d a m} (s : State) : exec (.vcvtIF g d a m) s = execVcvtIF g d a m s := rfl
@[simp] theorem exec_vcvtUF {g d a m} (s : State) : exec (.vcvtUF g d a m) s = execVcvtUF g d a m s := rfl
@[simp] theorem exec_vpackF16 {g d a b m} (s : State) : exec (.vpackF16 g d a b m) s = execVpackF16 g d a b m s := rfl
@[simp] theorem exec_vpackBf16 {g d a b m} (s : State) : exec (.vpackBf16 g d a b m) s = execVpackBf16 g d a b m s := rfl
@[simp] theorem exec_vpackE4m3Lo {g d a b m} (s : State) : exec (.vpackE4m3Lo g d a b m) s = execVpackE4m3Lo g d a b m s := rfl
@[simp] theorem exec_vpackE4m3Hi {g d a b m} (s : State) : exec (.vpackE4m3Hi g d a b m) s = execVpackE4m3Hi g d a b m s := rfl
@[simp] theorem exec_vpackE5m2Lo {g d a b m} (s : State) : exec (.vpackE5m2Lo g d a b m) s = execVpackE5m2Lo g d a b m s := rfl
@[simp] theorem exec_vpackE5m2Hi {g d a b m} (s : State) : exec (.vpackE5m2Hi g d a b m) s = execVpackE5m2Hi g d a b m s := rfl
@[simp] theorem exec_vpackI16 {g d a b} (s : State) : exec (.vpackI16 g d a b) s = execVpackI16 g d a b s := rfl
@[simp] theorem exec_vpackI8Lo {g d a b} (s : State) : exec (.vpackI8Lo g d a b) s = execVpackI8Lo g d a b s := rfl
@[simp] theorem exec_vpackI8Hi {g d a b} (s : State) : exec (.vpackI8Hi g d a b) s = execVpackI8Hi g d a b s := rfl
@[simp] theorem exec_vunpkF16 {g d a p} (s : State) : exec (.vunpkF16 g d a p) s = execVunpkF16 g d a p s := rfl
@[simp] theorem exec_vunpkBf16 {g d a p} (s : State) : exec (.vunpkBf16 g d a p) s = execVunpkBf16 g d a p s := rfl
@[simp] theorem exec_vunpkE4m3 {g d a p} (s : State) : exec (.vunpkE4m3 g d a p) s = execVunpkE4m3 g d a p s := rfl
@[simp] theorem exec_vunpkE5m2 {g d a p} (s : State) : exec (.vunpkE5m2 g d a p) s = execVunpkE5m2 g d a p s := rfl
@[simp] theorem exec_vunpkTc8 {g d a k p} (s : State) : exec (.vunpkTc8 g d a k p) s = execVunpkTc8 g d a k p s := rfl
@[simp] theorem exec_vunpkI16 {g d a p} (s : State) : exec (.vunpkI16 g d a p) s = execVunpkI16 g d a p s := rfl
@[simp] theorem exec_vunpkI8 {g d a p} (s : State) : exec (.vunpkI8 g d a p) s = execVunpkI8 g d a p s := rfl
@[simp] theorem exec_vredAddF {g d a m} (s : State) : exec (.vredAddF g d a m) s = execVredAddF g d a m s := rfl
@[simp] theorem exec_vredMinF {g d a} (s : State) : exec (.vredMinF g d a) s = execVredMinF g d a s := rfl
@[simp] theorem exec_vredMaxF {g d a} (s : State) : exec (.vredMaxF g d a) s = execVredMaxF g d a s := rfl
@[simp] theorem exec_vredAddI {g d a} (s : State) : exec (.vredAddI g d a) s = execVredAddI g d a s := rfl
@[simp] theorem exec_vredMinI {g d a} (s : State) : exec (.vredMinI g d a) s = execVredMinI g d a s := rfl
@[simp] theorem exec_vredMaxI {g d a} (s : State) : exec (.vredMaxI g d a) s = execVredMaxI g d a s := rfl
@[simp] theorem exec_vredMinU {g d a} (s : State) : exec (.vredMinU g d a) s = execVredMinU g d a s := rfl
@[simp] theorem exec_vredMaxU {g d a} (s : State) : exec (.vredMaxU g d a) s = execVredMaxU g d a s := rfl
@[simp] theorem exec_vscanAddF {g d a m} (s : State) : exec (.vscanAddF g d a m) s = execVscanAddF g d a m s := rfl
@[simp] theorem exec_vscanAddI {g d a} (s : State) : exec (.vscanAddI g d a) s = execVscanAddI g d a s := rfl
@[simp] theorem exec_vmov {g d a} (s : State) : exec (.vmov g d a) s = execVmov g d a s := rfl
@[simp] theorem exec_viota {g d} (s : State) : exec (.viota g d) s = execViota g d s := rfl
@[simp] theorem exec_vld {g d sc} (s : State) : exec (.vld g d sc) s = execVld g d sc s := rfl
@[simp] theorem exec_vldL {g d sc} (s : State) : exec (.vldL g d sc) s = execVldL g d sc s := rfl
@[simp] theorem exec_vldx {g d sc} (s : State) : exec (.vldx g d sc) s = execVldx g d sc s := rfl
@[simp] theorem exec_vlds {g d sc x} (s : State) : exec (.vlds g d sc x) s = execVlds g d sc x s := rfl
@[simp] theorem exec_vldsL {g d sc x} (s : State) : exec (.vldsL g d sc x) s = execVldsL g d sc x s := rfl
@[simp] theorem exec_vgth {g d a sc} (s : State) : exec (.vgth g d a sc) s = execVgth g d a sc s := rfl
@[simp] theorem exec_vgthL {g d a sc} (s : State) : exec (.vgthL g d a sc) s = execVgthL g d a sc s := rfl
@[simp] theorem exec_vst {g a sc} (s : State) : exec (.vst g a sc) s = execVst g a sc s := rfl
@[simp] theorem exec_vstL {g a sc} (s : State) : exec (.vstL g a sc) s = execVstL g a sc s := rfl
@[simp] theorem exec_vsts {g a sc x} (s : State) : exec (.vsts g a sc x) s = execVsts g a sc x s := rfl
@[simp] theorem exec_vstsL {g a sc x} (s : State) : exec (.vstsL g a sc x) s = execVstsL g a sc x s := rfl
@[simp] theorem exec_vsct {g im a sc} (s : State) : exec (.vsct g im a sc) s = execVsct g im a sc s := rfl
@[simp] theorem exec_vsctL {g im a sc} (s : State) : exec (.vsctL g im a sc) s = execVsctL g im a sc s := rfl
@[simp] theorem exec_vstm {g m a sc} (s : State) : exec (.vstm g m a sc) s = execVstm g m a sc s := rfl
@[simp] theorem exec_vstmL {g m a sc} (s : State) : exec (.vstmL g m a sc) s = execVstmL g m a sc s := rfl
@[simp] theorem exec_vperm {g d a b} (s : State) : exec (.vperm g d a b) s = execVperm g d a b s := rfl
@[simp] theorem exec_vrot {g d a k} (s : State) : exec (.vrot g d a k) s = execVrot g d a k s := rfl
@[simp] theorem exec_vbcst {g d a k} (s : State) : exec (.vbcst g d a k) s = execVbcst g d a k s := rfl
@[simp] theorem exec_vzipLo {g d a b} (s : State) : exec (.vzipLo g d a b) s = execVzipLo g d a b s := rfl
@[simp] theorem exec_vzipHi {g d a b} (s : State) : exec (.vzipHi g d a b) s = execVzipHi g d a b s := rfl
@[simp] theorem exec_vuzpEv {g d a b} (s : State) : exec (.vuzpEv g d a b) s = execVuzpEv g d a b s := rfl
@[simp] theorem exec_vuzpOd {g d a b} (s : State) : exec (.vuzpOd g d a b) s = execVuzpOd g d a b s := rfl
@[simp] theorem exec_vrng {g d a k} (s : State) : exec (.vrng g d a k) s = execVrng g d a k s := rfl
@[simp] theorem exec_vrngU {g d a k} (s : State) : exec (.vrngU g d a k) s = execVrngU g d a k s := rfl
@[simp] theorem exec_vfromt {g d a q} (s : State) : exec (.vfromt g d a q) s = execVfromt g d a q s := rfl
@[simp] theorem exec_vtot {g d a q} (s : State) : exec (.vtot g d a q) s = execVtot g d a q s := rfl
@[simp] theorem exec_vext {g d a k} (s : State) : exec (.vext g d a k) s = execVext g d a k s := rfl
@[simp] theorem exec_vins {g d a k} (s : State) : exec (.vins g d a k) s = execVins g d a k s := rfl
@[simp] theorem exec_vbcs {g d a} (s : State) : exec (.vbcs g d a) s = execVbcs g d a s := rfl
@[simp] theorem exec_cbkEncLo {g d a b k} (s : State) : exec (.cbkEncLo g d a b k) s = execCbkEncLo g d a b k s := rfl
@[simp] theorem exec_cbkEncHi {g d a b k} (s : State) : exec (.cbkEncHi g d a b k) s = execCbkEncHi g d a b k s := rfl
@[simp] theorem exec_vencF4 {g d a b m} (s : State) : exec (.vencF4 g d a b m) s = execVencF4 g d a b m s := rfl
@[simp] theorem exec_vdecF4 {g d a p} (s : State) : exec (.vdecF4 g d a p) s = execVdecF4 g d a p s := rfl
@[simp] theorem exec_tld {g d a sc} (s : State) : exec (.tld g d a sc) s = execTld g d a sc s := rfl
@[simp] theorem exec_tldT {g d a sc} (s : State) : exec (.tldT g d a sc) s = execTldT g d a sc s := rfl
@[simp] theorem exec_tldP6 {g d a sc} (s : State) : exec (.tldP6 g d a sc) s = execTldP6 g d a sc s := rfl
@[simp] theorem exec_tst {g t a sc} (s : State) : exec (.tst g t a sc) s = execTst g t a sc s := rfl
@[simp] theorem exec_tmov {g d a} (s : State) : exec (.tmov g d a) s = execTmov g d a s := rfl
@[simp] theorem exec_tzero {g d} (s : State) : exec (.tzero g d) s = execTzero g d s := rfl
@[simp] theorem exec_tcvt {g d a sc p k f} (s : State) : exec (.tcvt g d a sc p k f) s = execTcvt g d a sc p k f s := rfl
@[simp] theorem exec_tred {g d a k m f} (s : State) : exec (.tred g d a k m f) s = execTred g d a k m f s := rfl
@[simp] theorem exec_mma {g d a b m p} (s : State) : exec (.mma g d a b m p) s = execMma g d a b m p s := rfl
@[simp] theorem exec_mmaSp {g d a b t p} (s : State) : exec (.mmaSp g d a b t p) s = execMmaSp g d a b t p s := rfl
@[simp] theorem exec_mmaTc {g d a b y x p} (s : State) : exec (.mmaTc g d a b y x p) s = execMmaTc g d a b y x p s := rfl
@[simp] theorem exec_czero {g d} (s : State) : exec (.czero g d) s = execCzero g d s := rfl
@[simp] theorem exec_cmov {g d a} (s : State) : exec (.cmov g d a) s = execCmov g d a s := rfl
@[simp] theorem exec_cld {g d a} (s : State) : exec (.cld g d a) s = execCld g d a s := rfl
@[simp] theorem exec_cst {g d a} (s : State) : exec (.cst g d a) s = execCst g d a s := rfl
@[simp] theorem exec_ccvtE4m3 {g d a p m} (s : State) : exec (.ccvtE4m3 g d a p m) s = execCcvtE4m3 g d a p m s := rfl
@[simp] theorem exec_ccvtE5m2 {g d a p m} (s : State) : exec (.ccvtE5m2 g d a p m) s = execCcvtE5m2 g d a p m s := rfl
@[simp] theorem exec_ccvtF16 {g d a p m} (s : State) : exec (.ccvtF16 g d a p m) s = execCcvtF16 g d a p m s := rfl
@[simp] theorem exec_ccvtBf16 {g d a p m} (s : State) : exec (.ccvtBf16 g d a p m) s = execCcvtBf16 g d a p m s := rfl
@[simp] theorem exec_ccvtF32 {g d a p m} (s : State) : exec (.ccvtF32 g d a p m) s = execCcvtF32 g d a p m s := rfl
@[simp] theorem exec_ccvtF4 {g d a p m} (s : State) : exec (.ccvtF4 g d a p m) s = execCcvtF4 g d a p m s := rfl
@[simp] theorem exec_csclR {g d a v m} (s : State) : exec (.csclR g d a v m) s = execCsclR g d a v m s := rfl
@[simp] theorem exec_csclC {g d a v m} (s : State) : exec (.csclC g d a v m) s = execCsclC g d a v m s := rfl
@[simp] theorem exec_cbkLd {g d sc} (s : State) : exec (.cbkLd g d sc) s = execCbkLd g d sc s := rfl
@[simp] theorem exec_cbkLdL {g d sc} (s : State) : exec (.cbkLdL g d sc) s = execCbkLdL g d sc s := rfl
@[simp] theorem exec_eret (s : State) : exec .eret s = execEret s := rfl
@[simp] theorem exec_eretStep (s : State) : exec .eretStep s = execEretStep s := rfl
@[simp] theorem exec_brk {g k} (s : State) : exec (.brk g k) s = execBrk g k s := rfl
@[simp] theorem exec_rdus {g d a} (s : State) : exec (.rdus g d a) s = execRdus g d a s := rfl
@[simp] theorem exec_wrus {g d a} (s : State) : exec (.wrus g d a) s = execWrus g d a s := rfl
@[simp] theorem exec_rdtime {g d k} (s : State) : exec (.rdtime g d k) s = execRdtime g d k s := rfl
@[simp] theorem exec_lda {g d a r sc z} (s : State) : exec (.lda g d a r sc z) s = execLda g d a r sc z s := rfl
@[simp] theorem exec_stl {g r sc a b z} (s : State) : exec (.stl g r sc a b z) s = execStl g r sc a b z s := rfl
@[simp] theorem exec_str {g a b z} (s : State) : exec (.str g a b z) s = execStr g a b z s := rfl
@[simp] theorem exec_atomAdd {g d a b z} (s : State) : exec (.atomAdd g d a b z) s = execAtomAdd g d a b z s := rfl
@[simp] theorem exec_atomMin {g d a b z} (s : State) : exec (.atomMin g d a b z) s = execAtomMin g d a b z s := rfl
@[simp] theorem exec_atomMax {g d a b z} (s : State) : exec (.atomMax g d a b z) s = execAtomMax g d a b z s := rfl
@[simp] theorem exec_atomAnd {g d a b z} (s : State) : exec (.atomAnd g d a b z) s = execAtomAnd g d a b z s := rfl
@[simp] theorem exec_atomOr {g d a b z} (s : State) : exec (.atomOr g d a b z) s = execAtomOr g d a b z s := rfl
@[simp] theorem exec_atomXor {g d a b z} (s : State) : exec (.atomXor g d a b z) s = execAtomXor g d a b z s := rfl
@[simp] theorem exec_atomXchg {g d a b z} (s : State) : exec (.atomXchg g d a b z) s = execAtomXchg g d a b z s := rfl
@[simp] theorem exec_atomCas {g d a b z} (s : State) : exec (.atomCas g d a b z) s = execAtomCas g d a b z s := rfl
@[simp] theorem exec_atomFaddF32 {g d a b} (s : State) : exec (.atomFaddF32 g d a b) s = execAtomFaddF32 g d a b s := rfl
@[simp] theorem exec_redAddW {g a b} (s : State) : exec (.redAddW g a b) s = execRedAddW g a b s := rfl
@[simp] theorem exec_redAddD {g a b} (s : State) : exec (.redAddD g a b) s = execRedAddD g a b s := rfl
@[simp] theorem exec_redMinW {g a b} (s : State) : exec (.redMinW g a b) s = execRedMinW g a b s := rfl
@[simp] theorem exec_redMinD {g a b} (s : State) : exec (.redMinD g a b) s = execRedMinD g a b s := rfl
@[simp] theorem exec_redMaxW {g a b} (s : State) : exec (.redMaxW g a b) s = execRedMaxW g a b s := rfl
@[simp] theorem exec_redMaxD {g a b} (s : State) : exec (.redMaxD g a b) s = execRedMaxD g a b s := rfl
@[simp] theorem exec_redAndW {g a b} (s : State) : exec (.redAndW g a b) s = execRedAndW g a b s := rfl
@[simp] theorem exec_redAndD {g a b} (s : State) : exec (.redAndD g a b) s = execRedAndD g a b s := rfl
@[simp] theorem exec_redOrW {g a b} (s : State) : exec (.redOrW g a b) s = execRedOrW g a b s := rfl
@[simp] theorem exec_redOrD {g a b} (s : State) : exec (.redOrD g a b) s = execRedOrD g a b s := rfl
@[simp] theorem exec_redXorW {g a b} (s : State) : exec (.redXorW g a b) s = execRedXorW g a b s := rfl
@[simp] theorem exec_redXorD {g a b} (s : State) : exec (.redXorD g a b) s = execRedXorD g a b s := rfl
@[simp] theorem exec_redAddF32 {g a b} (s : State) : exec (.redAddF32 g a b) s = execRedAddF32 g a b s := rfl
@[simp] theorem exec_ldfe {g d a} (s : State) : exec (.ldfe g d a) s = execLdfe g d a s := rfl
@[simp] theorem exec_ldff {g d a} (s : State) : exec (.ldff g d a) s = execLdff g d a s := rfl
@[simp] theorem exec_stfl {g a b} (s : State) : exec (.stfl g a b) s = execStfl g a b s := rfl
@[simp] theorem exec_feclr {g a} (s : State) : exec (.feclr g a) s = execFeclr g a s := rfl
@[simp] theorem exec_lock {g d a} (s : State) : exec (.lock g d a) s = execLock g d a s := rfl
@[simp] theorem exec_unlock {g a} (s : State) : exec (.unlock g a) s = execUnlock g a s := rfl
@[simp] theorem exec_pinL {g d a} (s : State) : exec (.pinL g d a) s = execPinL g d a s := rfl
@[simp] theorem exec_unpinL {g a} (s : State) : exec (.unpinL g a) s = execUnpinL g a s := rfl
@[simp] theorem exec_plockL {g d a} (s : State) : exec (.plockL g d a) s = execPlockL g d a s := rfl
@[simp] theorem exec_punlockL {g a} (s : State) : exec (.punlockL g a) s = execPunlockL g a s := rfl
@[simp] theorem exec_fenceAcq {g r m sc} (s : State) : exec (.fenceAcq g r m sc) s = execFenceAcq g r m sc s := rfl
@[simp] theorem exec_fenceRel {g r m sc} (s : State) : exec (.fenceRel g r m sc) s = execFenceRel g r m sc s := rfl
@[simp] theorem exec_fenceAr {g r m sc} (s : State) : exec (.fenceAr g r m sc) s = execFenceAr g r m sc s := rfl
@[simp] theorem exec_monArm {g a k} (s : State) : exec (.monArm g a k) s = execMonArm g a k s := rfl
@[simp] theorem exec_monDisarm {g k} (s : State) : exec (.monDisarm g k) s = execMonDisarm g k s := rfl
@[simp] theorem exec_monWait {g d a} (s : State) : exec (.monWait g d a) s = execMonWait g d a s := rfl
@[simp] theorem exec_copyG2l {g d a sc} (s : State) : exec (.copyG2l g d a sc) s = execCopyG2l g d a sc s := rfl
@[simp] theorem exec_copyL2g {g d a sc} (s : State) : exec (.copyL2g g d a sc) s = execCopyL2g g d a sc s := rfl
@[simp] theorem exec_copyG2lB {g d a sc k} (s : State) : exec (.copyG2lB g d a sc k) s = execCopyG2lB g d a sc k s := rfl
@[simp] theorem exec_copyL2gB {g d a sc k} (s : State) : exec (.copyL2gB g d a sc k) s = execCopyL2gB g d a sc k s := rfl
@[simp] theorem exec_copyResume {g sc} (s : State) : exec (.copyResume g sc) s = execCopyResume g sc s := rfl
@[simp] theorem exec_copyCancel {g sc} (s : State) : exec (.copyCancel g sc) s = execCopyCancel g sc s := rfl
@[simp] theorem exec_copyChk {g sc} (s : State) : exec (.copyChk g sc) s = execCopyChk g sc s := rfl
@[simp] theorem exec_taskSpawn {g d a x} (s : State) : exec (.taskSpawn g d a x) s = execTaskSpawn g d a x s := rfl
@[simp] theorem exec_taskNext {g} (s : State) : exec (.taskNext g) s = execTaskNext g s := rfl
@[simp] theorem exec_taskDone {g} (s : State) : exec (.taskDone g) s = execTaskDone g s := rfl
@[simp] theorem exec_taskYield {g a} (s : State) : exec (.taskYield g a) s = execTaskYield g a s := rfl
@[simp] theorem exec_cancel {g d a} (s : State) : exec (.cancel g d a) s = execCancel g d a s := rfl
@[simp] theorem exec_taskInfo {g d k} (s : State) : exec (.taskInfo g d k) s = execTaskInfo g d k s := rfl
@[simp] theorem exec_gjoin {g d a t} (s : State) : exec (.gjoin g d a t) s = execGjoin g d a t s := rfl
@[simp] theorem exec_gleave {g a} (s : State) : exec (.gleave g a) s = execGleave g a s := rfl
@[simp] theorem exec_bar {g d a} (s : State) : exec (.bar g d a) s = execBar g d a s := rfl
@[simp] theorem exec_barArr {g d a} (s : State) : exec (.barArr g d a) s = execBarArr g d a s := rfl
@[simp] theorem exec_barWait {g d a} (s : State) : exec (.barWait g d a) s = execBarWait g d a s := rfl
@[simp] theorem exec_steCfg {g d a} (s : State) : exec (.steCfg g d a) s = execSteCfg g d a s := rfl
@[simp] theorem exec_steIns {g d a} (s : State) : exec (.steIns g d a) s = execSteIns g d a s := rfl
@[simp] theorem exec_steUpd {g d a} (s : State) : exec (.steUpd g d a) s = execSteUpd g d a s := rfl
@[simp] theorem exec_steDraw {g d a b} (s : State) : exec (.steDraw g d a b) s = execSteDraw g d a b s := rfl
@[simp] theorem exec_steSum {g d q} (s : State) : exec (.steSum g d q) s = execSteSum g d q s := rfl
@[simp] theorem exec_rangeTag {g d a b} (s : State) : exec (.rangeTag g d a b) s = execRangeTag g d a b s := rfl
@[simp] theorem exec_rangeTagH {g d k} (s : State) : exec (.rangeTagH g d k) s = execRangeTagH g d k s := rfl
@[simp] theorem exec_rangeClr {g d} (s : State) : exec (.rangeClr g d) s = execRangeClr g d s := rfl
@[simp] theorem exec_rangeRd {g d a k} (s : State) : exec (.rangeRd g d a k) s = execRangeRd g d a k s := rfl
@[simp] theorem exec_nestClaim {g d a} (s : State) : exec (.nestClaim g d a) s = execNestClaim g d a s := rfl
@[simp] theorem exec_perfRd {g d a} (s : State) : exec (.perfRd g d a) s = execPerfRd g d a s := rfl
@[simp] theorem exec_entryIssue {core e} (s : State) : exec (.entryIssue core e) s = execEntryIssue core e s := rfl
@[simp] theorem exec_engineCompletion {core e} (s : State) : exec (.engineCompletion core e) s = execEngineCompletion core e s := rfl
@[simp] theorem exec_trbRetire {core} (s : State) : exec (.trbRetire core) s = execTrbRetire core s := rfl
@[simp] theorem exec_storeQueuePerform {q} (s : State) : exec (.storeQueuePerform q) s = execStoreQueuePerform q s := rfl
@[simp] theorem exec_trapEntry {q} (s : State) : exec (.trapEntry q) s = execTrapEntry q s := rfl
@[simp] theorem exec_eventTaken {q} (s : State) : exec (.eventTaken q) s = execEventTaken q s := rfl
@[simp] theorem exec_uncorrectableError {site} (s : State) : exec (.uncorrectableError site) s = execUncorrectableError site s := rfl
@[simp] theorem exec_scratchpadRefill {core page} (s : State) : exec (.scratchpadRefill core page) s = execScratchpadRefill core page s := rfl
@[simp] theorem exec_pageWalk {core va} (s : State) : exec (.pageWalk core va) s = execPageWalk core va s := rfl
@[simp] theorem exec_rdreq {n} (s : State) : exec (.rdreq n) s = execRdreq n s := rfl
@[simp] theorem exec_rddata {n} (s : State) : exec (.rddata n) s = execRddata n s := rfl
@[simp] theorem exec_write {q} (s : State) : exec (.write q) s = execWrite q s := rfl
@[simp] theorem exec_wrack {q} (s : State) : exec (.wrack q) s = execWrack q s := rfl
@[simp] theorem exec_atom {q} (s : State) : exec (.atom q) s = execAtom q s := rfl
@[simp] theorem exec_atrep {q} (s : State) : exec (.atrep q) s = execAtrep q s := rfl
@[simp] theorem exec_strPacket {q} (s : State) : exec (.strPacket q) s = execStrPacket q s := rfl
@[simp] theorem exec_feop {q} (s : State) : exec (.feop q) s = execFeop q s := rfl
@[simp] theorem exec_ferep {q} (s : State) : exec (.ferep q) s = execFerep q s := rfl
@[simp] theorem exec_mon {q} (s : State) : exec (.mon q) s = execMon q s := rfl
@[simp] theorem exec_barmsg {n} (s : State) : exec (.barmsg n) s = execBarmsg n s := rfl
@[simp] theorem exec_stecmd {n} (s : State) : exec (.stecmd n) s = execStecmd n s := rfl
@[simp] theorem exec_sterep {n} (s : State) : exec (.sterep n) s = execSterep n s := rfl
@[simp] theorem exec_steCfgCreate {t} (s : State) : exec (.steCfgCreate t) s = execSteCfgCreate t s := rfl
@[simp] theorem exec_steCfgBuild {t} (s : State) : exec (.steCfgBuild t) s = execSteCfgBuild t s := rfl
@[simp] theorem exec_steCfgSet {t} (s : State) : exec (.steCfgSet t) s = execSteCfgSet t s := rfl
@[simp] theorem exec_steCfgRelease {t} (s : State) : exec (.steCfgRelease t) s = execSteCfgRelease t s := rfl
@[simp] theorem exec_steInsExec {t} (s : State) : exec (.steInsExec t) s = execSteInsExec t s := rfl
@[simp] theorem exec_steUpdExec {t} (s : State) : exec (.steUpdExec t) s = execSteUpdExec t s := rfl
@[simp] theorem exec_steDrawExec {t} (s : State) : exec (.steDrawExec t) s = execSteDrawExec t s := rfl
@[simp] theorem exec_steSumExec {t} (s : State) : exec (.steSumExec t) s = execSteSumExec t s := rfl
@[simp] theorem exec_copyTransfer {core rec n} (s : State) : exec (.copyTransfer core rec n) s = execCopyTransfer core rec n s := rfl
@[simp] theorem exec_copyComplete {core rec} (s : State) : exec (.copyComplete core rec) s = execCopyComplete core rec s := rfl
@[simp] theorem exec_launchWrite {page die v} (s : State) : exec (.launchWrite page die v) s = execLaunchWrite page die v s := rfl
@[simp] theorem exec_launchNop {die ctx} (s : State) : exec (.launchNop die ctx) s = execLaunchNop die ctx s := rfl
@[simp] theorem exec_launchTasks {die ctx} (s : State) : exec (.launchTasks die ctx) s = execLaunchTasks die ctx s := rfl
@[simp] theorem exec_launchStart {die ctx} (s : State) : exec (.launchStart die ctx) s = execLaunchStart die ctx s := rfl
@[simp] theorem exec_launchServe {die ctx} (s : State) : exec (.launchServe die ctx) s = execLaunchServe die ctx s := rfl
@[simp] theorem exec_launchCancel {die ctx} (s : State) : exec (.launchCancel die ctx) s = execLaunchCancel die ctx s := rfl
@[simp] theorem exec_start {n} (s : State) : exec (.start n) s = execStart n s := rfl
@[simp] theorem exec_taskDelivery {die} (s : State) : exec (.taskDelivery die) s = execTaskDelivery die s := rfl
@[simp] theorem exec_taskmsg {die} (s : State) : exec (.taskmsg die) s = execTaskmsg die s := rfl
@[simp] theorem exec_spillRefill {die} (s : State) : exec (.spillRefill die) s = execSpillRefill die s := rfl
@[simp] theorem exec_hostEventWrite {page v} (s : State) : exec (.hostEventWrite page v) s = execHostEventWrite page v s := rfl
@[simp] theorem exec_ctxcreate {die} (s : State) : exec (.ctxcreate die) s = execCtxcreate die s := rfl
@[simp] theorem exec_ctxset {die} (s : State) : exec (.ctxset die) s = execCtxset die s := rfl
@[simp] theorem exec_invtlb {die} (s : State) : exec (.invtlb die) s = execInvtlb die s := rfl
@[simp] theorem exec_migrate {die} (s : State) : exec (.migrate die) s = execMigrate die s := rfl
@[simp] theorem exec_migrationDrainComplete {n} (s : State) : exec (.migrationDrainComplete n) s = execMigrationDrainComplete n s := rfl
@[simp] theorem exec_migrationInstall {n} (s : State) : exec (.migrationInstall n) s = execMigrationInstall n s := rfl
@[simp] theorem exec_pegForward {n} (s : State) : exec (.pegForward n) s = execPegForward n s := rfl
@[simp] theorem exec_marker {n} (s : State) : exec (.marker n) s = execMarker n s := rfl
@[simp] theorem exec_repart {die} (s : State) : exec (.repart die) s = execRepart die s := rfl
@[simp] theorem exec_switchout {die} (s : State) : exec (.switchout die) s = execSwitchout die s := rfl
@[simp] theorem exec_resume {die} (s : State) : exec (.resume die) s = execResume die s := rfl
@[simp] theorem exec_clrfault {die} (s : State) : exec (.clrfault die) s = execClrfault die s := rfl
@[simp] theorem exec_ctxdestroy {die} (s : State) : exec (.ctxdestroy die) s = execCtxdestroy die s := rfl
@[simp] theorem exec_sethome {die} (s : State) : exec (.sethome die) s = execSethome die s := rfl
@[simp] theorem exec_setqueue {die} (s : State) : exec (.setqueue die) s = execSetqueue die s := rfl
@[simp] theorem exec_setspill {die} (s : State) : exec (.setspill die) s = execSetspill die s := rfl
@[simp] theorem exec_streamset {die} (s : State) : exec (.streamset die) s = execStreamset die s := rfl
@[simp] theorem exec_outputPortSlot {port} (s : State) : exec (.outputPortSlot port) s = execOutputPortSlot port s := rfl
@[simp] theorem exec_meshFlitReceive {port flit} (s : State) : exec (.meshFlitReceive port flit) s = execMeshFlitReceive port flit s := rfl
@[simp] theorem exec_mortarFlitReceive {link flit} (s : State) : exec (.mortarFlitReceive link flit) s = execMortarFlitReceive link flit s := rfl
@[simp] theorem exec_controlFlit {link flit} (s : State) : exec (.controlFlit link flit) s = execControlFlit link flit s := rfl
@[simp] theorem exec_replayTimeout {link} (s : State) : exec (.replayTimeout link) s = execReplayTimeout link s := rfl
@[simp] theorem exec_marginAlarm {module lane} (s : State) : exec (.marginAlarm module lane) s = execMarginAlarm module lane s := rfl
@[simp] theorem exec_retrainComplete {module} (s : State) : exec (.retrainComplete module) s = execRetrainComplete module s := rfl
@[simp] theorem exec_poison {n} (s : State) : exec (.poison n) s = execPoison n s := rfl
@[simp] theorem exec_mgmt {n} (s : State) : exec (.mgmt n) s = execMgmt n s := rfl
@[simp] theorem exec_snoop {line} (s : State) : exec (.snoop line) s = execSnoop line s := rfl
@[simp] theorem exec_reassemblyWatchdog {port} (s : State) : exec (.reassemblyWatchdog port) s = execReassemblyWatchdog port s := rfl
@[simp] theorem exec_replyTimerExpiry {q} (s : State) : exec (.replyTimerExpiry q) s = execReplyTimerExpiry q s := rfl
@[simp] theorem exec_atomRepeatTimeout {agent reqnum} (s : State) : exec (.atomRepeatTimeout agent reqnum) s = execAtomRepeatTimeout agent reqnum s := rfl
@[simp] theorem exec_timerDeadline {q} (s : State) : exec (.timerDeadline q) s = execTimerDeadline q s := rfl
@[simp] theorem exec_waitLimitExpiry {q} (s : State) : exec (.waitLimitExpiry q) s = execWaitLimitExpiry q s := rfl
@[simp] theorem exec_monWaitDeadline {q} (s : State) : exec (.monWaitDeadline q) s = execMonWaitDeadline q s := rfl
@[simp] theorem exec_timeCalibration (s : State) : exec .timeCalibration s = execTimeCalibration s := rfl
@[simp] theorem exec_timeStep {die v} (s : State) : exec (.timeStep die v) s = execTimeStep die v s := rfl
@[simp] theorem exec_regulatorAdmit {stack ctx n} (s : State) : exec (.regulatorAdmit stack ctx n) s = execRegulatorAdmit stack ctx n s := rfl
@[simp] theorem exec_regulatorWrite {stack ctx v} (s : State) : exec (.regulatorWrite stack ctx v) s = execRegulatorWrite stack ctx v s := rfl
@[simp] theorem exec_powerAlarm {src} (s : State) : exec (.powerAlarm src) s = execPowerAlarm src s := rfl
@[simp] theorem exec_alarmClear {src} (s : State) : exec (.alarmClear src) s = execAlarmClear src s := rfl
@[simp] theorem exec_clockStepDown (s : State) : exec .clockStepDown s = execClockStepDown s := rfl
@[simp] theorem exec_clockStepUp (s : State) : exec .clockStepUp s = execClockStepUp s := rfl
@[simp] theorem exec_coldReset (s : State) : exec .coldReset s = execColdReset s := rfl
@[simp] theorem exec_reboot {v} (s : State) : exec (.reboot v) s = execReboot v s := rfl
@[simp] theorem exec_rollbackCommit {v} (s : State) : exec (.rollbackCommit v) s = execRollbackCommit v s := rfl
@[simp] theorem exec_hostPortFreezeClear {v} (s : State) : exec (.hostPortFreezeClear v) s = execHostPortFreezeClear v s := rfl
@[simp] theorem exec_steFreezeClear {k v} (s : State) : exec (.steFreezeClear k v) s = execSteFreezeClear k v s := rfl
@[simp] theorem exec_copyEngineFreezeClear {core v} (s : State) : exec (.copyEngineFreezeClear core v) s = execCopyEngineFreezeClear core v s := rfl
@[simp] theorem exec_hostWindowWrite {off v} (s : State) : exec (.hostWindowWrite off v) s = execHostWindowWrite off v s := rfl
@[simp] theorem exec_hostWrite {space addr bytes} (s : State) : exec (.hostWrite space addr bytes) s = execHostWrite space addr bytes s := rfl
@[simp] theorem exec_hostRead {space addr n} (s : State) : exec (.hostRead space addr n) s = execHostRead space addr n s := rfl
@[simp] theorem exec_illegalWord (s : State) : exec .illegalWord s = execIllegalWord s := rfl
@[simp] theorem exec_oscillatorTick {die} (s : State) : exec (.oscillatorTick die) s = execOscillatorTick die s := rfl
@[simp] theorem exec_coreClockCycle {core} (s : State) : exec (.coreClockCycle core) s = execCoreClockCycle core s := rfl
@[simp] theorem exec_commandedRetrain {module} (s : State) : exec (.commandedRetrain module) s = execCommandedRetrain module s := rfl

end Sys2Proof.Machine
end

