-- ==== Sys2Proof/Laws/Items.lean ====
section
/-! SUPPORT. Reading the items of a window: a list of items is read piece by piece. -/

namespace Sys2Proof.Machine

/-- The first item of a list that was read whole is read at the state that the rest goes on from. -/
theorem readItems_cons {h : Handle} {bad : Nat → Bool} {blocks : List Nat} {s t : State} {i : Item} {l : List Item} {a : List Nat}
    (e : s.readItems h bad blocks (i :: l) = (t, .ok a)) :
    ∃ (w : State) (x : Nat) (q : List Nat), a = x :: q ∧ w.readItems h bad blocks l = (t, .ok q) ∧ ∀ (m : List Item) (v : State) (p : List Nat),
      w.readItems h bad blocks m = (v, .ok p) → s.readItems h bad blocks (i :: m) = (v, .ok (x :: p)) := by
  have next : ∀ (w : State) (x : Nat) (y : Word), (if bad x then (w, Except.error (Effect.keep (w.raise .format y))) else
      match w.readItems h bad blocks l with
      | (v, .ok q) => (v, .ok (x :: q))
      | (v, .error k) => (v, .error k)) = (t, .ok a) →
      bad x = false ∧ ∃ q, a = x :: q ∧ w.readItems h bad blocks l = (t, .ok q) := by
    intro w x y e
    cases hb : bad x <;> simp only [hb, if_true, if_false, reduceCtorEq, Prod.mk.injEq, and_false, Bool.false_eq_true] at e ⊢
    revert e
    rcases w.readItems h bad blocks l with ⟨v, k | q⟩ <;> simp only [Prod.mk.injEq, reduceCtorEq, and_false, Except.ok.injEq, false_implies]
    rintro ⟨rfl, rfl⟩
    exact ⟨trivial, q, rfl, rfl, rfl⟩
  simp only [State.readItems] at e ⊢
  cases hi : i.at' with
  | fault x => simp [hi] at e
  | pad =>
    simp only [hi] at e ⊢
    obtain ⟨hb, q, rfl, hq⟩ := next _ _ _ e
    exact ⟨s, _, q, rfl, hq, fun m v p hm => by simp [hb, hm]⟩
  | elem c x =>
    simp only [hi] at e ⊢
    cases hp : s.placeItem h x .load with
    | no k => simp [hp] at e
    | ok place =>
      simp only [hp] at e ⊢
      revert e
      rcases s.readPiece s.myCore s.myCtxId .l2 x.toNat place i.n (.core s.myCore) (blocks.contains (x.toNat / 64)) with ⟨w, k | b⟩
      · simp
      · intro e
        obtain ⟨hb, q, rfl, hq⟩ := next _ _ _ e
        exact ⟨w, _, q, rfl, hq, fun m v p hm => by simp [hb, hm]⟩

/-- Reading one list and then another is reading them one behind the other. -/
theorem readItems_append (h : Handle) (bad : Nat → Bool) (blocks : List Nat) (r : List Item) (l : List Item) :
    ∀ (s t u : State) (a b : List Nat), s.readItems h bad blocks l = (t, .ok a) → t.readItems h bad blocks r = (u, .ok b) →
      s.readItems h bad blocks (l ++ r) = (u, .ok (a ++ b)) := by
  induction l with
  | nil => intro s t u a b h1 h2; simp only [State.readItems, Prod.mk.injEq, Except.ok.injEq] at h1; obtain ⟨rfl, rfl⟩ := h1; exact h2
  | cons i l ih =>
    intro s t u a b h1 h2
    obtain ⟨w, x, q, rfl, hq, go⟩ := readItems_cons h1
    exact go _ _ _ (ih w t u q b hq h2)

end Sys2Proof.Machine
end

