-- ==== Sys2Proof/Laws/State.lean ====
section
/-! SUPPORT. What each named update of the state leaves and writes, field by field. -/

namespace Sys2Proof

/-! ## Finite maps -/

namespace SMap

variable {α : Type}

@[simp] theorem get_nil (d : α) (k : Nat) : get d [] k = d := rfl
@[simp] theorem find_nil (k : Nat) : find ([] : SMap α) k = none := rfl

/-- Reading the key that was set gives the value. -/
@[simp] theorem get_set_same (d : α) (m : SMap α) (k : Nat) (v : α) : get d (set m k v) k = v := by
  induction m with
  | nil => simp [set, get]
  | cons e m ih => obtain ⟨j, w⟩ := e; by_cases h : j = k <;> simp [set, get, h, ih]

/-- Setting a key leaves the values of the others. -/
theorem get_set_ne (d : α) (m : SMap α) {k j : Nat} (v : α) (h : j ≠ k) : get d (set m k v) j = get d m j := by
  induction m with
  | nil => simp [set, get, Ne.symm h]
  | cons e m ih =>
    obtain ⟨i, w⟩ := e
    by_cases h1 : i = k
    · subst h1; simp [set, get, Ne.symm h]
    · by_cases h2 : i = j
      · subst h2; simp [set, get, h1]
      · simp [set, get, h1, h2, ih]

/-- Reading after a set, by cases of the key. -/
theorem get_set (d : α) (m : SMap α) (k j : Nat) (v : α) :
    get d (set m k v) j = if j = k then v else get d m j := by
  by_cases h : j = k
  · subst h; simp
  · simp [h, get_set_ne d m v h]

@[simp] theorem find_set_same (m : SMap α) (k : Nat) (v : α) : find (set m k v) k = some v := by
  induction m with
  | nil => simp [set, find]
  | cons e m ih => obtain ⟨j, w⟩ := e; by_cases h : j = k <;> simp [set, find, h, ih]

theorem find_set_ne (m : SMap α) {k j : Nat} (v : α) (h : j ≠ k) : find (set m k v) j = find m j := by
  induction m with
  | nil => simp [set, find, Ne.symm h]
  | cons e m ih =>
    obtain ⟨i, w⟩ := e
    by_cases h1 : i = k
    · subst h1; simp [set, find, Ne.symm h]
    · by_cases h2 : i = j
      · subst h2; simp [set, find, h1]
      · simp [set, find, h1, h2, ih]

/-- Setting a key twice keeps the second value. -/
@[simp] theorem set_set (m : SMap α) (k : Nat) (v w : α) : set (set m k v) k w = set m k w := by
  induction m with
  | nil => simp [set]
  | cons e m ih => obtain ⟨j, x⟩ := e; by_cases h : j = k <;> simp [set, h, ih]

/-- A value that `get` reads is the one `find` finds, or the default. -/
theorem get_eq_find (d : α) (m : SMap α) (k : Nat) : get d m k = (find m k).getD d := by
  induction m with
  | nil => rfl
  | cons e m ih => obtain ⟨j, w⟩ := e; by_cases h : j = k <;> simp [get, find, h, ih]

/-- A map of values that keeps the default reads as the function of the old value. -/
theorem get_mapVal (d : α) (f : Nat → α → α) (m : SMap α) (k : Nat) (hd : f k d = d) :
    get d (mapVal f m) k = f k (get d m k) := by
  induction m with
  | nil => simp [mapVal, hd]
  | cons e m ih =>
    obtain ⟨j, w⟩ := e
    by_cases h : j = k
    · subst h; simp [mapVal, get]
    · have : get d (mapVal f m) k = f k (get d m k) := ih
      simpa [mapVal, get, h] using this

end SMap

namespace Machine

namespace State

/-! ## Each update of a part writes that part and leaves the other fields -/

@[simp] theorem setStream_cores (s : State) (q : Nat) (x : Stream) : (s.setStream q x).cores = s.cores := rfl
@[simp] theorem setStream_dies (s : State) (q : Nat) (x : Stream) : (s.setStream q x).dies = s.dies := rfl
@[simp] theorem setStream_ctxs (s : State) (q : Nat) (x : Stream) : (s.setStream q x).ctxs = s.ctxs := rfl
@[simp] theorem setStream_saved (s : State) (q : Nat) (x : Stream) : (s.setStream q x).saved = s.saved := rfl
@[simp] theorem setStream_moves (s : State) (q : Nat) (x : Stream) : (s.setStream q x).moves = s.moves := rfl
@[simp] theorem setStream_stes (s : State) (q : Nat) (x : Stream) : (s.setStream q x).stes = s.stes := rfl
@[simp] theorem setStream_regulators (s : State) (q : Nat) (x : Stream) : (s.setStream q x).regulators = s.regulators := rfl
@[simp] theorem setStream_cells (s : State) (q : Nat) (x : Stream) : (s.setStream q x).cells = s.cells := rfl
@[simp] theorem setStream_sectors (s : State) (q : Nat) (x : Stream) : (s.setStream q x).sectors = s.sectors := rfl
@[simp] theorem setStream_full (s : State) (q : Nat) (x : Stream) : (s.setStream q x).full = s.full := rfl
@[simp] theorem setStream_feQueue (s : State) (q : Nat) (x : Stream) : (s.setStream q x).feQueue = s.feQueue := rfl
@[simp] theorem setStream_monEntries (s : State) (q : Nat) (x : Stream) : (s.setStream q x).monEntries = s.monEntries := rfl
@[simp] theorem setStream_feMaps (s : State) (q : Nat) (x : Stream) : (s.setStream q x).feMaps = s.feMaps := rfl
@[simp] theorem setStream_locks (s : State) (q : Nat) (x : Stream) : (s.setStream q x).locks = s.locks := rfl
@[simp] theorem setStream_l2 (s : State) (q : Nat) (x : Stream) : (s.setStream q x).l2 = s.l2 := rfl
@[simp] theorem setStream_groupErrs (s : State) (q : Nat) (x : Stream) : (s.setStream q x).groupErrs = s.groupErrs := rfl
@[simp] theorem setStream_ranges (s : State) (q : Nat) (x : Stream) : (s.setStream q x).ranges = s.ranges := rfl
@[simp] theorem setStream_net (s : State) (q : Nat) (x : Stream) : (s.setStream q x).net = s.net := rfl
@[simp] theorem setStream_ahead (s : State) (q : Nat) (x : Stream) : (s.setStream q x).ahead = s.ahead := rfl
@[simp] theorem setStream_outPorts (s : State) (q : Nat) (x : Stream) : (s.setStream q x).outPorts = s.outPorts := rfl
@[simp] theorem setStream_inPorts (s : State) (q : Nat) (x : Stream) : (s.setStream q x).inPorts = s.inPorts := rfl
@[simp] theorem setStream_mortar (s : State) (q : Nat) (x : Stream) : (s.setStream q x).mortar = s.mortar := rfl
@[simp] theorem setStream_modules (s : State) (q : Nat) (x : Stream) : (s.setStream q x).modules = s.modules := rfl
@[simp] theorem setStream_board (s : State) (q : Nat) (x : Stream) : (s.setStream q x).board = s.board := rfl
@[simp] theorem setStream_agenda (s : State) (q : Nat) (x : Stream) : (s.setStream q x).agenda = s.agenda := rfl
@[simp] theorem setStream_cur (s : State) (q : Nat) (x : Stream) : (s.setStream q x).cur = s.cur := rfl
@[simp] theorem setStream_freeCtr (s : State) (q : Nat) (x : Stream) : (s.setStream q x).freeCtr = s.freeCtr := rfl
@[simp] theorem setStream_nextId (s : State) (q : Nat) (x : Stream) : (s.setStream q x).nextId = s.nextId := rfl

@[simp] theorem setMe_cores (s : State) (x : Stream) : (s.setMe x).cores = s.cores := rfl
@[simp] theorem setMe_dies (s : State) (x : Stream) : (s.setMe x).dies = s.dies := rfl
@[simp] theorem setMe_ctxs (s : State) (x : Stream) : (s.setMe x).ctxs = s.ctxs := rfl
@[simp] theorem setMe_saved (s : State) (x : Stream) : (s.setMe x).saved = s.saved := rfl
@[simp] theorem setMe_moves (s : State) (x : Stream) : (s.setMe x).moves = s.moves := rfl
@[simp] theorem setMe_stes (s : State) (x : Stream) : (s.setMe x).stes = s.stes := rfl
@[simp] theorem setMe_regulators (s : State) (x : Stream) : (s.setMe x).regulators = s.regulators := rfl
@[simp] theorem setMe_cells (s : State) (x : Stream) : (s.setMe x).cells = s.cells := rfl
@[simp] theorem setMe_sectors (s : State) (x : Stream) : (s.setMe x).sectors = s.sectors := rfl
@[simp] theorem setMe_full (s : State) (x : Stream) : (s.setMe x).full = s.full := rfl
@[simp] theorem setMe_feQueue (s : State) (x : Stream) : (s.setMe x).feQueue = s.feQueue := rfl
@[simp] theorem setMe_monEntries (s : State) (x : Stream) : (s.setMe x).monEntries = s.monEntries := rfl
@[simp] theorem setMe_feMaps (s : State) (x : Stream) : (s.setMe x).feMaps = s.feMaps := rfl
@[simp] theorem setMe_locks (s : State) (x : Stream) : (s.setMe x).locks = s.locks := rfl
@[simp] theorem setMe_l2 (s : State) (x : Stream) : (s.setMe x).l2 = s.l2 := rfl
@[simp] theorem setMe_groupErrs (s : State) (x : Stream) : (s.setMe x).groupErrs = s.groupErrs := rfl
@[simp] theorem setMe_ranges (s : State) (x : Stream) : (s.setMe x).ranges = s.ranges := rfl
@[simp] theorem setMe_net (s : State) (x : Stream) : (s.setMe x).net = s.net := rfl
@[simp] theorem setMe_ahead (s : State) (x : Stream) : (s.setMe x).ahead = s.ahead := rfl
@[simp] theorem setMe_outPorts (s : State) (x : Stream) : (s.setMe x).outPorts = s.outPorts := rfl
@[simp] theorem setMe_inPorts (s : State) (x : Stream) : (s.setMe x).inPorts = s.inPorts := rfl
@[simp] theorem setMe_mortar (s : State) (x : Stream) : (s.setMe x).mortar = s.mortar := rfl
@[simp] theorem setMe_modules (s : State) (x : Stream) : (s.setMe x).modules = s.modules := rfl
@[simp] theorem setMe_board (s : State) (x : Stream) : (s.setMe x).board = s.board := rfl
@[simp] theorem setMe_agenda (s : State) (x : Stream) : (s.setMe x).agenda = s.agenda := rfl
@[simp] theorem setMe_cur (s : State) (x : Stream) : (s.setMe x).cur = s.cur := rfl
@[simp] theorem setMe_freeCtr (s : State) (x : Stream) : (s.setMe x).freeCtr = s.freeCtr := rfl
@[simp] theorem setMe_nextId (s : State) (x : Stream) : (s.setMe x).nextId = s.nextId := rfl

@[simp] theorem setCore_streams (s : State) (c : Nat) (x : Core) : (s.setCore c x).streams = s.streams := rfl
@[simp] theorem setCore_dies (s : State) (c : Nat) (x : Core) : (s.setCore c x).dies = s.dies := rfl
@[simp] theorem setCore_ctxs (s : State) (c : Nat) (x : Core) : (s.setCore c x).ctxs = s.ctxs := rfl
@[simp] theorem setCore_saved (s : State) (c : Nat) (x : Core) : (s.setCore c x).saved = s.saved := rfl
@[simp] theorem setCore_moves (s : State) (c : Nat) (x : Core) : (s.setCore c x).moves = s.moves := rfl
@[simp] theorem setCore_stes (s : State) (c : Nat) (x : Core) : (s.setCore c x).stes = s.stes := rfl
@[simp] theorem setCore_regulators (s : State) (c : Nat) (x : Core) : (s.setCore c x).regulators = s.regulators := rfl
@[simp] theorem setCore_cells (s : State) (c : Nat) (x : Core) : (s.setCore c x).cells = s.cells := rfl
@[simp] theorem setCore_sectors (s : State) (c : Nat) (x : Core) : (s.setCore c x).sectors = s.sectors := rfl
@[simp] theorem setCore_full (s : State) (c : Nat) (x : Core) : (s.setCore c x).full = s.full := rfl
@[simp] theorem setCore_feQueue (s : State) (c : Nat) (x : Core) : (s.setCore c x).feQueue = s.feQueue := rfl
@[simp] theorem setCore_monEntries (s : State) (c : Nat) (x : Core) : (s.setCore c x).monEntries = s.monEntries := rfl
@[simp] theorem setCore_feMaps (s : State) (c : Nat) (x : Core) : (s.setCore c x).feMaps = s.feMaps := rfl
@[simp] theorem setCore_locks (s : State) (c : Nat) (x : Core) : (s.setCore c x).locks = s.locks := rfl
@[simp] theorem setCore_l2 (s : State) (c : Nat) (x : Core) : (s.setCore c x).l2 = s.l2 := rfl
@[simp] theorem setCore_groupErrs (s : State) (c : Nat) (x : Core) : (s.setCore c x).groupErrs = s.groupErrs := rfl
@[simp] theorem setCore_ranges (s : State) (c : Nat) (x : Core) : (s.setCore c x).ranges = s.ranges := rfl
@[simp] theorem setCore_net (s : State) (c : Nat) (x : Core) : (s.setCore c x).net = s.net := rfl
@[simp] theorem setCore_ahead (s : State) (c : Nat) (x : Core) : (s.setCore c x).ahead = s.ahead := rfl
@[simp] theorem setCore_outPorts (s : State) (c : Nat) (x : Core) : (s.setCore c x).outPorts = s.outPorts := rfl
@[simp] theorem setCore_inPorts (s : State) (c : Nat) (x : Core) : (s.setCore c x).inPorts = s.inPorts := rfl
@[simp] theorem setCore_mortar (s : State) (c : Nat) (x : Core) : (s.setCore c x).mortar = s.mortar := rfl
@[simp] theorem setCore_modules (s : State) (c : Nat) (x : Core) : (s.setCore c x).modules = s.modules := rfl
@[simp] theorem setCore_board (s : State) (c : Nat) (x : Core) : (s.setCore c x).board = s.board := rfl
@[simp] theorem setCore_agenda (s : State) (c : Nat) (x : Core) : (s.setCore c x).agenda = s.agenda := rfl
@[simp] theorem setCore_cur (s : State) (c : Nat) (x : Core) : (s.setCore c x).cur = s.cur := rfl
@[simp] theorem setCore_freeCtr (s : State) (c : Nat) (x : Core) : (s.setCore c x).freeCtr = s.freeCtr := rfl
@[simp] theorem setCore_nextId (s : State) (c : Nat) (x : Core) : (s.setCore c x).nextId = s.nextId := rfl

@[simp] theorem setDie_streams (s : State) (d : Nat) (x : Die) : (s.setDie d x).streams = s.streams := rfl
@[simp] theorem setDie_cores (s : State) (d : Nat) (x : Die) : (s.setDie d x).cores = s.cores := rfl
@[simp] theorem setDie_ctxs (s : State) (d : Nat) (x : Die) : (s.setDie d x).ctxs = s.ctxs := rfl
@[simp] theorem setDie_saved (s : State) (d : Nat) (x : Die) : (s.setDie d x).saved = s.saved := rfl
@[simp] theorem setDie_moves (s : State) (d : Nat) (x : Die) : (s.setDie d x).moves = s.moves := rfl
@[simp] theorem setDie_stes (s : State) (d : Nat) (x : Die) : (s.setDie d x).stes = s.stes := rfl
@[simp] theorem setDie_regulators (s : State) (d : Nat) (x : Die) : (s.setDie d x).regulators = s.regulators := rfl
@[simp] theorem setDie_cells (s : State) (d : Nat) (x : Die) : (s.setDie d x).cells = s.cells := rfl
@[simp] theorem setDie_sectors (s : State) (d : Nat) (x : Die) : (s.setDie d x).sectors = s.sectors := rfl
@[simp] theorem setDie_full (s : State) (d : Nat) (x : Die) : (s.setDie d x).full = s.full := rfl
@[simp] theorem setDie_feQueue (s : State) (d : Nat) (x : Die) : (s.setDie d x).feQueue = s.feQueue := rfl
@[simp] theorem setDie_monEntries (s : State) (d : Nat) (x : Die) : (s.setDie d x).monEntries = s.monEntries := rfl
@[simp] theorem setDie_feMaps (s : State) (d : Nat) (x : Die) : (s.setDie d x).feMaps = s.feMaps := rfl
@[simp] theorem setDie_locks (s : State) (d : Nat) (x : Die) : (s.setDie d x).locks = s.locks := rfl
@[simp] theorem setDie_l2 (s : State) (d : Nat) (x : Die) : (s.setDie d x).l2 = s.l2 := rfl
@[simp] theorem setDie_groupErrs (s : State) (d : Nat) (x : Die) : (s.setDie d x).groupErrs = s.groupErrs := rfl
@[simp] theorem setDie_ranges (s : State) (d : Nat) (x : Die) : (s.setDie d x).ranges = s.ranges := rfl
@[simp] theorem setDie_net (s : State) (d : Nat) (x : Die) : (s.setDie d x).net = s.net := rfl
@[simp] theorem setDie_ahead (s : State) (d : Nat) (x : Die) : (s.setDie d x).ahead = s.ahead := rfl
@[simp] theorem setDie_outPorts (s : State) (d : Nat) (x : Die) : (s.setDie d x).outPorts = s.outPorts := rfl
@[simp] theorem setDie_inPorts (s : State) (d : Nat) (x : Die) : (s.setDie d x).inPorts = s.inPorts := rfl
@[simp] theorem setDie_mortar (s : State) (d : Nat) (x : Die) : (s.setDie d x).mortar = s.mortar := rfl
@[simp] theorem setDie_modules (s : State) (d : Nat) (x : Die) : (s.setDie d x).modules = s.modules := rfl
@[simp] theorem setDie_board (s : State) (d : Nat) (x : Die) : (s.setDie d x).board = s.board := rfl
@[simp] theorem setDie_agenda (s : State) (d : Nat) (x : Die) : (s.setDie d x).agenda = s.agenda := rfl
@[simp] theorem setDie_cur (s : State) (d : Nat) (x : Die) : (s.setDie d x).cur = s.cur := rfl
@[simp] theorem setDie_freeCtr (s : State) (d : Nat) (x : Die) : (s.setDie d x).freeCtr = s.freeCtr := rfl
@[simp] theorem setDie_nextId (s : State) (d : Nat) (x : Die) : (s.setDie d x).nextId = s.nextId := rfl

@[simp] theorem setSte_streams (s : State) (k : Nat) (x : Ste) : (s.setSte k x).streams = s.streams := rfl
@[simp] theorem setSte_cores (s : State) (k : Nat) (x : Ste) : (s.setSte k x).cores = s.cores := rfl
@[simp] theorem setSte_dies (s : State) (k : Nat) (x : Ste) : (s.setSte k x).dies = s.dies := rfl
@[simp] theorem setSte_ctxs (s : State) (k : Nat) (x : Ste) : (s.setSte k x).ctxs = s.ctxs := rfl
@[simp] theorem setSte_saved (s : State) (k : Nat) (x : Ste) : (s.setSte k x).saved = s.saved := rfl
@[simp] theorem setSte_moves (s : State) (k : Nat) (x : Ste) : (s.setSte k x).moves = s.moves := rfl
@[simp] theorem setSte_regulators (s : State) (k : Nat) (x : Ste) : (s.setSte k x).regulators = s.regulators := rfl
@[simp] theorem setSte_cells (s : State) (k : Nat) (x : Ste) : (s.setSte k x).cells = s.cells := rfl
@[simp] theorem setSte_sectors (s : State) (k : Nat) (x : Ste) : (s.setSte k x).sectors = s.sectors := rfl
@[simp] theorem setSte_full (s : State) (k : Nat) (x : Ste) : (s.setSte k x).full = s.full := rfl
@[simp] theorem setSte_feQueue (s : State) (k : Nat) (x : Ste) : (s.setSte k x).feQueue = s.feQueue := rfl
@[simp] theorem setSte_monEntries (s : State) (k : Nat) (x : Ste) : (s.setSte k x).monEntries = s.monEntries := rfl
@[simp] theorem setSte_feMaps (s : State) (k : Nat) (x : Ste) : (s.setSte k x).feMaps = s.feMaps := rfl
@[simp] theorem setSte_locks (s : State) (k : Nat) (x : Ste) : (s.setSte k x).locks = s.locks := rfl
@[simp] theorem setSte_l2 (s : State) (k : Nat) (x : Ste) : (s.setSte k x).l2 = s.l2 := rfl
@[simp] theorem setSte_groupErrs (s : State) (k : Nat) (x : Ste) : (s.setSte k x).groupErrs = s.groupErrs := rfl
@[simp] theorem setSte_ranges (s : State) (k : Nat) (x : Ste) : (s.setSte k x).ranges = s.ranges := rfl
@[simp] theorem setSte_net (s : State) (k : Nat) (x : Ste) : (s.setSte k x).net = s.net := rfl
@[simp] theorem setSte_ahead (s : State) (k : Nat) (x : Ste) : (s.setSte k x).ahead = s.ahead := rfl
@[simp] theorem setSte_outPorts (s : State) (k : Nat) (x : Ste) : (s.setSte k x).outPorts = s.outPorts := rfl
@[simp] theorem setSte_inPorts (s : State) (k : Nat) (x : Ste) : (s.setSte k x).inPorts = s.inPorts := rfl
@[simp] theorem setSte_mortar (s : State) (k : Nat) (x : Ste) : (s.setSte k x).mortar = s.mortar := rfl
@[simp] theorem setSte_modules (s : State) (k : Nat) (x : Ste) : (s.setSte k x).modules = s.modules := rfl
@[simp] theorem setSte_board (s : State) (k : Nat) (x : Ste) : (s.setSte k x).board = s.board := rfl
@[simp] theorem setSte_agenda (s : State) (k : Nat) (x : Ste) : (s.setSte k x).agenda = s.agenda := rfl
@[simp] theorem setSte_cur (s : State) (k : Nat) (x : Ste) : (s.setSte k x).cur = s.cur := rfl
@[simp] theorem setSte_freeCtr (s : State) (k : Nat) (x : Ste) : (s.setSte k x).freeCtr = s.freeCtr := rfl
@[simp] theorem setSte_nextId (s : State) (k : Nat) (x : Ste) : (s.setSte k x).nextId = s.nextId := rfl

@[simp] theorem setCtx_streams (s : State) (c : Nat) (x : Ctx) : (s.setCtx c x).streams = s.streams := rfl
@[simp] theorem setCtx_cores (s : State) (c : Nat) (x : Ctx) : (s.setCtx c x).cores = s.cores := rfl
@[simp] theorem setCtx_dies (s : State) (c : Nat) (x : Ctx) : (s.setCtx c x).dies = s.dies := rfl
@[simp] theorem setCtx_saved (s : State) (c : Nat) (x : Ctx) : (s.setCtx c x).saved = s.saved := rfl
@[simp] theorem setCtx_moves (s : State) (c : Nat) (x : Ctx) : (s.setCtx c x).moves = s.moves := rfl
@[simp] theorem setCtx_stes (s : State) (c : Nat) (x : Ctx) : (s.setCtx c x).stes = s.stes := rfl
@[simp] theorem setCtx_regulators (s : State) (c : Nat) (x : Ctx) : (s.setCtx c x).regulators = s.regulators := rfl
@[simp] theorem setCtx_cells (s : State) (c : Nat) (x : Ctx) : (s.setCtx c x).cells = s.cells := rfl
@[simp] theorem setCtx_sectors (s : State) (c : Nat) (x : Ctx) : (s.setCtx c x).sectors = s.sectors := rfl
@[simp] theorem setCtx_full (s : State) (c : Nat) (x : Ctx) : (s.setCtx c x).full = s.full := rfl
@[simp] theorem setCtx_feQueue (s : State) (c : Nat) (x : Ctx) : (s.setCtx c x).feQueue = s.feQueue := rfl
@[simp] theorem setCtx_monEntries (s : State) (c : Nat) (x : Ctx) : (s.setCtx c x).monEntries = s.monEntries := rfl
@[simp] theorem setCtx_feMaps (s : State) (c : Nat) (x : Ctx) : (s.setCtx c x).feMaps = s.feMaps := rfl
@[simp] theorem setCtx_locks (s : State) (c : Nat) (x : Ctx) : (s.setCtx c x).locks = s.locks := rfl
@[simp] theorem setCtx_l2 (s : State) (c : Nat) (x : Ctx) : (s.setCtx c x).l2 = s.l2 := rfl
@[simp] theorem setCtx_groupErrs (s : State) (c : Nat) (x : Ctx) : (s.setCtx c x).groupErrs = s.groupErrs := rfl
@[simp] theorem setCtx_ranges (s : State) (c : Nat) (x : Ctx) : (s.setCtx c x).ranges = s.ranges := rfl
@[simp] theorem setCtx_net (s : State) (c : Nat) (x : Ctx) : (s.setCtx c x).net = s.net := rfl
@[simp] theorem setCtx_ahead (s : State) (c : Nat) (x : Ctx) : (s.setCtx c x).ahead = s.ahead := rfl
@[simp] theorem setCtx_outPorts (s : State) (c : Nat) (x : Ctx) : (s.setCtx c x).outPorts = s.outPorts := rfl
@[simp] theorem setCtx_inPorts (s : State) (c : Nat) (x : Ctx) : (s.setCtx c x).inPorts = s.inPorts := rfl
@[simp] theorem setCtx_mortar (s : State) (c : Nat) (x : Ctx) : (s.setCtx c x).mortar = s.mortar := rfl
@[simp] theorem setCtx_modules (s : State) (c : Nat) (x : Ctx) : (s.setCtx c x).modules = s.modules := rfl
@[simp] theorem setCtx_board (s : State) (c : Nat) (x : Ctx) : (s.setCtx c x).board = s.board := rfl
@[simp] theorem setCtx_agenda (s : State) (c : Nat) (x : Ctx) : (s.setCtx c x).agenda = s.agenda := rfl
@[simp] theorem setCtx_cur (s : State) (c : Nat) (x : Ctx) : (s.setCtx c x).cur = s.cur := rfl
@[simp] theorem setCtx_freeCtr (s : State) (c : Nat) (x : Ctx) : (s.setCtx c x).freeCtr = s.freeCtr := rfl
@[simp] theorem setCtx_nextId (s : State) (c : Nat) (x : Ctx) : (s.setCtx c x).nextId = s.nextId := rfl

@[simp] theorem setRegulator_streams (s : State) (k : Nat) (x : Regulator) : (s.setRegulator k x).streams = s.streams := rfl
@[simp] theorem setRegulator_cores (s : State) (k : Nat) (x : Regulator) : (s.setRegulator k x).cores = s.cores := rfl
@[simp] theorem setRegulator_dies (s : State) (k : Nat) (x : Regulator) : (s.setRegulator k x).dies = s.dies := rfl
@[simp] theorem setRegulator_ctxs (s : State) (k : Nat) (x : Regulator) : (s.setRegulator k x).ctxs = s.ctxs := rfl
@[simp] theorem setRegulator_saved (s : State) (k : Nat) (x : Regulator) : (s.setRegulator k x).saved = s.saved := rfl
@[simp] theorem setRegulator_moves (s : State) (k : Nat) (x : Regulator) : (s.setRegulator k x).moves = s.moves := rfl
@[simp] theorem setRegulator_stes (s : State) (k : Nat) (x : Regulator) : (s.setRegulator k x).stes = s.stes := rfl
@[simp] theorem setRegulator_cells (s : State) (k : Nat) (x : Regulator) : (s.setRegulator k x).cells = s.cells := rfl
@[simp] theorem setRegulator_sectors (s : State) (k : Nat) (x : Regulator) : (s.setRegulator k x).sectors = s.sectors := rfl
@[simp] theorem setRegulator_full (s : State) (k : Nat) (x : Regulator) : (s.setRegulator k x).full = s.full := rfl
@[simp] theorem setRegulator_feQueue (s : State) (k : Nat) (x : Regulator) : (s.setRegulator k x).feQueue = s.feQueue := rfl
@[simp] theorem setRegulator_monEntries (s : State) (k : Nat) (x : Regulator) : (s.setRegulator k x).monEntries = s.monEntries := rfl
@[simp] theorem setRegulator_feMaps (s : State) (k : Nat) (x : Regulator) : (s.setRegulator k x).feMaps = s.feMaps := rfl
@[simp] theorem setRegulator_locks (s : State) (k : Nat) (x : Regulator) : (s.setRegulator k x).locks = s.locks := rfl
@[simp] theorem setRegulator_l2 (s : State) (k : Nat) (x : Regulator) : (s.setRegulator k x).l2 = s.l2 := rfl
@[simp] theorem setRegulator_groupErrs (s : State) (k : Nat) (x : Regulator) : (s.setRegulator k x).groupErrs = s.groupErrs := rfl
@[simp] theorem setRegulator_ranges (s : State) (k : Nat) (x : Regulator) : (s.setRegulator k x).ranges = s.ranges := rfl
@[simp] theorem setRegulator_net (s : State) (k : Nat) (x : Regulator) : (s.setRegulator k x).net = s.net := rfl
@[simp] theorem setRegulator_ahead (s : State) (k : Nat) (x : Regulator) : (s.setRegulator k x).ahead = s.ahead := rfl
@[simp] theorem setRegulator_outPorts (s : State) (k : Nat) (x : Regulator) : (s.setRegulator k x).outPorts = s.outPorts := rfl
@[simp] theorem setRegulator_inPorts (s : State) (k : Nat) (x : Regulator) : (s.setRegulator k x).inPorts = s.inPorts := rfl
@[simp] theorem setRegulator_mortar (s : State) (k : Nat) (x : Regulator) : (s.setRegulator k x).mortar = s.mortar := rfl
@[simp] theorem setRegulator_modules (s : State) (k : Nat) (x : Regulator) : (s.setRegulator k x).modules = s.modules := rfl
@[simp] theorem setRegulator_board (s : State) (k : Nat) (x : Regulator) : (s.setRegulator k x).board = s.board := rfl
@[simp] theorem setRegulator_agenda (s : State) (k : Nat) (x : Regulator) : (s.setRegulator k x).agenda = s.agenda := rfl
@[simp] theorem setRegulator_cur (s : State) (k : Nat) (x : Regulator) : (s.setRegulator k x).cur = s.cur := rfl
@[simp] theorem setRegulator_freeCtr (s : State) (k : Nat) (x : Regulator) : (s.setRegulator k x).freeCtr = s.freeCtr := rfl
@[simp] theorem setRegulator_nextId (s : State) (k : Nat) (x : Regulator) : (s.setRegulator k x).nextId = s.nextId := rfl

@[simp] theorem toHost_streams (s : State) (v c : Nat) (x : Word) : (s.toHost v c x).streams = s.streams := rfl
@[simp] theorem toHost_cores (s : State) (v c : Nat) (x : Word) : (s.toHost v c x).cores = s.cores := rfl
@[simp] theorem toHost_dies (s : State) (v c : Nat) (x : Word) : (s.toHost v c x).dies = s.dies := rfl
@[simp] theorem toHost_ctxs (s : State) (v c : Nat) (x : Word) : (s.toHost v c x).ctxs = s.ctxs := rfl
@[simp] theorem toHost_saved (s : State) (v c : Nat) (x : Word) : (s.toHost v c x).saved = s.saved := rfl
@[simp] theorem toHost_moves (s : State) (v c : Nat) (x : Word) : (s.toHost v c x).moves = s.moves := rfl
@[simp] theorem toHost_stes (s : State) (v c : Nat) (x : Word) : (s.toHost v c x).stes = s.stes := rfl
@[simp] theorem toHost_regulators (s : State) (v c : Nat) (x : Word) : (s.toHost v c x).regulators = s.regulators := rfl
@[simp] theorem toHost_cells (s : State) (v c : Nat) (x : Word) : (s.toHost v c x).cells = s.cells := rfl
@[simp] theorem toHost_sectors (s : State) (v c : Nat) (x : Word) : (s.toHost v c x).sectors = s.sectors := rfl
@[simp] theorem toHost_full (s : State) (v c : Nat) (x : Word) : (s.toHost v c x).full = s.full := rfl
@[simp] theorem toHost_feQueue (s : State) (v c : Nat) (x : Word) : (s.toHost v c x).feQueue = s.feQueue := rfl
@[simp] theorem toHost_monEntries (s : State) (v c : Nat) (x : Word) : (s.toHost v c x).monEntries = s.monEntries := rfl
@[simp] theorem toHost_feMaps (s : State) (v c : Nat) (x : Word) : (s.toHost v c x).feMaps = s.feMaps := rfl
@[simp] theorem toHost_locks (s : State) (v c : Nat) (x : Word) : (s.toHost v c x).locks = s.locks := rfl
@[simp] theorem toHost_l2 (s : State) (v c : Nat) (x : Word) : (s.toHost v c x).l2 = s.l2 := rfl
@[simp] theorem toHost_groupErrs (s : State) (v c : Nat) (x : Word) : (s.toHost v c x).groupErrs = s.groupErrs := rfl
@[simp] theorem toHost_ranges (s : State) (v c : Nat) (x : Word) : (s.toHost v c x).ranges = s.ranges := rfl
@[simp] theorem toHost_net (s : State) (v c : Nat) (x : Word) : (s.toHost v c x).net = s.net := rfl
@[simp] theorem toHost_ahead (s : State) (v c : Nat) (x : Word) : (s.toHost v c x).ahead = s.ahead := rfl
@[simp] theorem toHost_outPorts (s : State) (v c : Nat) (x : Word) : (s.toHost v c x).outPorts = s.outPorts := rfl
@[simp] theorem toHost_inPorts (s : State) (v c : Nat) (x : Word) : (s.toHost v c x).inPorts = s.inPorts := rfl
@[simp] theorem toHost_mortar (s : State) (v c : Nat) (x : Word) : (s.toHost v c x).mortar = s.mortar := rfl
@[simp] theorem toHost_modules (s : State) (v c : Nat) (x : Word) : (s.toHost v c x).modules = s.modules := rfl
@[simp] theorem toHost_agenda (s : State) (v c : Nat) (x : Word) : (s.toHost v c x).agenda = s.agenda := rfl
@[simp] theorem toHost_cur (s : State) (v c : Nat) (x : Word) : (s.toHost v c x).cur = s.cur := rfl
@[simp] theorem toHost_freeCtr (s : State) (v c : Nat) (x : Word) : (s.toHost v c x).freeCtr = s.freeCtr := rfl
@[simp] theorem toHost_nextId (s : State) (v c : Nat) (x : Word) : (s.toHost v c x).nextId = s.nextId := rfl

@[simp] theorem post_streams (s : State) (m : Msg) : (s.post m).streams = s.streams := rfl
@[simp] theorem post_cores (s : State) (m : Msg) : (s.post m).cores = s.cores := rfl
@[simp] theorem post_dies (s : State) (m : Msg) : (s.post m).dies = s.dies := rfl
@[simp] theorem post_ctxs (s : State) (m : Msg) : (s.post m).ctxs = s.ctxs := rfl
@[simp] theorem post_saved (s : State) (m : Msg) : (s.post m).saved = s.saved := rfl
@[simp] theorem post_moves (s : State) (m : Msg) : (s.post m).moves = s.moves := rfl
@[simp] theorem post_stes (s : State) (m : Msg) : (s.post m).stes = s.stes := rfl
@[simp] theorem post_regulators (s : State) (m : Msg) : (s.post m).regulators = s.regulators := rfl
@[simp] theorem post_cells (s : State) (m : Msg) : (s.post m).cells = s.cells := rfl
@[simp] theorem post_sectors (s : State) (m : Msg) : (s.post m).sectors = s.sectors := rfl
@[simp] theorem post_full (s : State) (m : Msg) : (s.post m).full = s.full := rfl
@[simp] theorem post_feQueue (s : State) (m : Msg) : (s.post m).feQueue = s.feQueue := rfl
@[simp] theorem post_monEntries (s : State) (m : Msg) : (s.post m).monEntries = s.monEntries := rfl
@[simp] theorem post_feMaps (s : State) (m : Msg) : (s.post m).feMaps = s.feMaps := rfl
@[simp] theorem post_locks (s : State) (m : Msg) : (s.post m).locks = s.locks := rfl
@[simp] theorem post_l2 (s : State) (m : Msg) : (s.post m).l2 = s.l2 := rfl
@[simp] theorem post_groupErrs (s : State) (m : Msg) : (s.post m).groupErrs = s.groupErrs := rfl
@[simp] theorem post_ranges (s : State) (m : Msg) : (s.post m).ranges = s.ranges := rfl
@[simp] theorem post_ahead (s : State) (m : Msg) : (s.post m).ahead = s.ahead := rfl
@[simp] theorem post_outPorts (s : State) (m : Msg) : (s.post m).outPorts = s.outPorts := rfl
@[simp] theorem post_inPorts (s : State) (m : Msg) : (s.post m).inPorts = s.inPorts := rfl
@[simp] theorem post_mortar (s : State) (m : Msg) : (s.post m).mortar = s.mortar := rfl
@[simp] theorem post_modules (s : State) (m : Msg) : (s.post m).modules = s.modules := rfl
@[simp] theorem post_board (s : State) (m : Msg) : (s.post m).board = s.board := rfl
@[simp] theorem post_agenda (s : State) (m : Msg) : (s.post m).agenda = s.agenda := rfl
@[simp] theorem post_cur (s : State) (m : Msg) : (s.post m).cur = s.cur := rfl
@[simp] theorem post_freeCtr (s : State) (m : Msg) : (s.post m).freeCtr = s.freeCtr := rfl
@[simp] theorem post_nextId (s : State) (m : Msg) : (s.post m).nextId = s.nextId := rfl

@[simp] theorem putByte_streams (s : State) (a : Nat) (b : Byte) : (s.putByte a b).streams = s.streams := rfl
@[simp] theorem putByte_cores (s : State) (a : Nat) (b : Byte) : (s.putByte a b).cores = s.cores := rfl
@[simp] theorem putByte_dies (s : State) (a : Nat) (b : Byte) : (s.putByte a b).dies = s.dies := rfl
@[simp] theorem putByte_ctxs (s : State) (a : Nat) (b : Byte) : (s.putByte a b).ctxs = s.ctxs := rfl
@[simp] theorem putByte_saved (s : State) (a : Nat) (b : Byte) : (s.putByte a b).saved = s.saved := rfl
@[simp] theorem putByte_moves (s : State) (a : Nat) (b : Byte) : (s.putByte a b).moves = s.moves := rfl
@[simp] theorem putByte_stes (s : State) (a : Nat) (b : Byte) : (s.putByte a b).stes = s.stes := rfl
@[simp] theorem putByte_regulators (s : State) (a : Nat) (b : Byte) : (s.putByte a b).regulators = s.regulators := rfl
@[simp] theorem putByte_sectors (s : State) (a : Nat) (b : Byte) : (s.putByte a b).sectors = s.sectors := rfl
@[simp] theorem putByte_full (s : State) (a : Nat) (b : Byte) : (s.putByte a b).full = s.full := rfl
@[simp] theorem putByte_feQueue (s : State) (a : Nat) (b : Byte) : (s.putByte a b).feQueue = s.feQueue := rfl
@[simp] theorem putByte_monEntries (s : State) (a : Nat) (b : Byte) : (s.putByte a b).monEntries = s.monEntries := rfl
@[simp] theorem putByte_feMaps (s : State) (a : Nat) (b : Byte) : (s.putByte a b).feMaps = s.feMaps := rfl
@[simp] theorem putByte_locks (s : State) (a : Nat) (b : Byte) : (s.putByte a b).locks = s.locks := rfl
@[simp] theorem putByte_l2 (s : State) (a : Nat) (b : Byte) : (s.putByte a b).l2 = s.l2 := rfl
@[simp] theorem putByte_groupErrs (s : State) (a : Nat) (b : Byte) : (s.putByte a b).groupErrs = s.groupErrs := rfl
@[simp] theorem putByte_ranges (s : State) (a : Nat) (b : Byte) : (s.putByte a b).ranges = s.ranges := rfl
@[simp] theorem putByte_net (s : State) (a : Nat) (b : Byte) : (s.putByte a b).net = s.net := rfl
@[simp] theorem putByte_ahead (s : State) (a : Nat) (b : Byte) : (s.putByte a b).ahead = s.ahead := rfl
@[simp] theorem putByte_outPorts (s : State) (a : Nat) (b : Byte) : (s.putByte a b).outPorts = s.outPorts := rfl
@[simp] theorem putByte_inPorts (s : State) (a : Nat) (b : Byte) : (s.putByte a b).inPorts = s.inPorts := rfl
@[simp] theorem putByte_mortar (s : State) (a : Nat) (b : Byte) : (s.putByte a b).mortar = s.mortar := rfl
@[simp] theorem putByte_modules (s : State) (a : Nat) (b : Byte) : (s.putByte a b).modules = s.modules := rfl
@[simp] theorem putByte_board (s : State) (a : Nat) (b : Byte) : (s.putByte a b).board = s.board := rfl
@[simp] theorem putByte_agenda (s : State) (a : Nat) (b : Byte) : (s.putByte a b).agenda = s.agenda := rfl
@[simp] theorem putByte_cur (s : State) (a : Nat) (b : Byte) : (s.putByte a b).cur = s.cur := rfl
@[simp] theorem putByte_freeCtr (s : State) (a : Nat) (b : Byte) : (s.putByte a b).freeCtr = s.freeCtr := rfl
@[simp] theorem putByte_nextId (s : State) (a : Nat) (b : Byte) : (s.putByte a b).nextId = s.nextId := rfl

@[simp] theorem setSector_streams (s : State) (a : Nat) (x : Sector) : (s.setSector a x).streams = s.streams := rfl
@[simp] theorem setSector_cores (s : State) (a : Nat) (x : Sector) : (s.setSector a x).cores = s.cores := rfl
@[simp] theorem setSector_dies (s : State) (a : Nat) (x : Sector) : (s.setSector a x).dies = s.dies := rfl
@[simp] theorem setSector_ctxs (s : State) (a : Nat) (x : Sector) : (s.setSector a x).ctxs = s.ctxs := rfl
@[simp] theorem setSector_saved (s : State) (a : Nat) (x : Sector) : (s.setSector a x).saved = s.saved := rfl
@[simp] theorem setSector_moves (s : State) (a : Nat) (x : Sector) : (s.setSector a x).moves = s.moves := rfl
@[simp] theorem setSector_stes (s : State) (a : Nat) (x : Sector) : (s.setSector a x).stes = s.stes := rfl
@[simp] theorem setSector_regulators (s : State) (a : Nat) (x : Sector) : (s.setSector a x).regulators = s.regulators := rfl
@[simp] theorem setSector_cells (s : State) (a : Nat) (x : Sector) : (s.setSector a x).cells = s.cells := rfl
@[simp] theorem setSector_full (s : State) (a : Nat) (x : Sector) : (s.setSector a x).full = s.full := rfl
@[simp] theorem setSector_feQueue (s : State) (a : Nat) (x : Sector) : (s.setSector a x).feQueue = s.feQueue := rfl
@[simp] theorem setSector_monEntries (s : State) (a : Nat) (x : Sector) : (s.setSector a x).monEntries = s.monEntries := rfl
@[simp] theorem setSector_feMaps (s : State) (a : Nat) (x : Sector) : (s.setSector a x).feMaps = s.feMaps := rfl
@[simp] theorem setSector_locks (s : State) (a : Nat) (x : Sector) : (s.setSector a x).locks = s.locks := rfl
@[simp] theorem setSector_l2 (s : State) (a : Nat) (x : Sector) : (s.setSector a x).l2 = s.l2 := rfl
@[simp] theorem setSector_groupErrs (s : State) (a : Nat) (x : Sector) : (s.setSector a x).groupErrs = s.groupErrs := rfl
@[simp] theorem setSector_ranges (s : State) (a : Nat) (x : Sector) : (s.setSector a x).ranges = s.ranges := rfl
@[simp] theorem setSector_net (s : State) (a : Nat) (x : Sector) : (s.setSector a x).net = s.net := rfl
@[simp] theorem setSector_ahead (s : State) (a : Nat) (x : Sector) : (s.setSector a x).ahead = s.ahead := rfl
@[simp] theorem setSector_outPorts (s : State) (a : Nat) (x : Sector) : (s.setSector a x).outPorts = s.outPorts := rfl
@[simp] theorem setSector_inPorts (s : State) (a : Nat) (x : Sector) : (s.setSector a x).inPorts = s.inPorts := rfl
@[simp] theorem setSector_mortar (s : State) (a : Nat) (x : Sector) : (s.setSector a x).mortar = s.mortar := rfl
@[simp] theorem setSector_modules (s : State) (a : Nat) (x : Sector) : (s.setSector a x).modules = s.modules := rfl
@[simp] theorem setSector_board (s : State) (a : Nat) (x : Sector) : (s.setSector a x).board = s.board := rfl
@[simp] theorem setSector_agenda (s : State) (a : Nat) (x : Sector) : (s.setSector a x).agenda = s.agenda := rfl
@[simp] theorem setSector_cur (s : State) (a : Nat) (x : Sector) : (s.setSector a x).cur = s.cur := rfl
@[simp] theorem setSector_freeCtr (s : State) (a : Nat) (x : Sector) : (s.setSector a x).freeCtr = s.freeCtr := rfl
@[simp] theorem setSector_nextId (s : State) (a : Nat) (x : Sector) : (s.setSector a x).nextId = s.nextId := rfl

@[simp] theorem setPage_streams (s : State) (c p : Nat) (x : PageState) : (s.setPage c p x).streams = s.streams := rfl
@[simp] theorem setPage_dies (s : State) (c p : Nat) (x : PageState) : (s.setPage c p x).dies = s.dies := rfl
@[simp] theorem setPage_ctxs (s : State) (c p : Nat) (x : PageState) : (s.setPage c p x).ctxs = s.ctxs := rfl
@[simp] theorem setPage_saved (s : State) (c p : Nat) (x : PageState) : (s.setPage c p x).saved = s.saved := rfl
@[simp] theorem setPage_moves (s : State) (c p : Nat) (x : PageState) : (s.setPage c p x).moves = s.moves := rfl
@[simp] theorem setPage_stes (s : State) (c p : Nat) (x : PageState) : (s.setPage c p x).stes = s.stes := rfl
@[simp] theorem setPage_regulators (s : State) (c p : Nat) (x : PageState) : (s.setPage c p x).regulators = s.regulators := rfl
@[simp] theorem setPage_cells (s : State) (c p : Nat) (x : PageState) : (s.setPage c p x).cells = s.cells := rfl
@[simp] theorem setPage_sectors (s : State) (c p : Nat) (x : PageState) : (s.setPage c p x).sectors = s.sectors := rfl
@[simp] theorem setPage_full (s : State) (c p : Nat) (x : PageState) : (s.setPage c p x).full = s.full := rfl
@[simp] theorem setPage_feQueue (s : State) (c p : Nat) (x : PageState) : (s.setPage c p x).feQueue = s.feQueue := rfl
@[simp] theorem setPage_monEntries (s : State) (c p : Nat) (x : PageState) : (s.setPage c p x).monEntries = s.monEntries := rfl
@[simp] theorem setPage_feMaps (s : State) (c p : Nat) (x : PageState) : (s.setPage c p x).feMaps = s.feMaps := rfl
@[simp] theorem setPage_locks (s : State) (c p : Nat) (x : PageState) : (s.setPage c p x).locks = s.locks := rfl
@[simp] theorem setPage_l2 (s : State) (c p : Nat) (x : PageState) : (s.setPage c p x).l2 = s.l2 := rfl
@[simp] theorem setPage_groupErrs (s : State) (c p : Nat) (x : PageState) : (s.setPage c p x).groupErrs = s.groupErrs := rfl
@[simp] theorem setPage_ranges (s : State) (c p : Nat) (x : PageState) : (s.setPage c p x).ranges = s.ranges := rfl
@[simp] theorem setPage_net (s : State) (c p : Nat) (x : PageState) : (s.setPage c p x).net = s.net := rfl
@[simp] theorem setPage_ahead (s : State) (c p : Nat) (x : PageState) : (s.setPage c p x).ahead = s.ahead := rfl
@[simp] theorem setPage_outPorts (s : State) (c p : Nat) (x : PageState) : (s.setPage c p x).outPorts = s.outPorts := rfl
@[simp] theorem setPage_inPorts (s : State) (c p : Nat) (x : PageState) : (s.setPage c p x).inPorts = s.inPorts := rfl
@[simp] theorem setPage_mortar (s : State) (c p : Nat) (x : PageState) : (s.setPage c p x).mortar = s.mortar := rfl
@[simp] theorem setPage_modules (s : State) (c p : Nat) (x : PageState) : (s.setPage c p x).modules = s.modules := rfl
@[simp] theorem setPage_board (s : State) (c p : Nat) (x : PageState) : (s.setPage c p x).board = s.board := rfl
@[simp] theorem setPage_agenda (s : State) (c p : Nat) (x : PageState) : (s.setPage c p x).agenda = s.agenda := rfl
@[simp] theorem setPage_cur (s : State) (c p : Nat) (x : PageState) : (s.setPage c p x).cur = s.cur := rfl
@[simp] theorem setPage_freeCtr (s : State) (c p : Nat) (x : PageState) : (s.setPage c p x).freeCtr = s.freeCtr := rfl
@[simp] theorem setPage_nextId (s : State) (c p : Nat) (x : PageState) : (s.setPage c p x).nextId = s.nextId := rfl

@[simp] theorem addBank_streams (s : State) (d c i n : Nat) : (s.addBank d c i n).streams = s.streams := rfl
@[simp] theorem addBank_cores (s : State) (d c i n : Nat) : (s.addBank d c i n).cores = s.cores := rfl
@[simp] theorem addBank_ctxs (s : State) (d c i n : Nat) : (s.addBank d c i n).ctxs = s.ctxs := rfl
@[simp] theorem addBank_saved (s : State) (d c i n : Nat) : (s.addBank d c i n).saved = s.saved := rfl
@[simp] theorem addBank_moves (s : State) (d c i n : Nat) : (s.addBank d c i n).moves = s.moves := rfl
@[simp] theorem addBank_stes (s : State) (d c i n : Nat) : (s.addBank d c i n).stes = s.stes := rfl
@[simp] theorem addBank_regulators (s : State) (d c i n : Nat) : (s.addBank d c i n).regulators = s.regulators := rfl
@[simp] theorem addBank_cells (s : State) (d c i n : Nat) : (s.addBank d c i n).cells = s.cells := rfl
@[simp] theorem addBank_sectors (s : State) (d c i n : Nat) : (s.addBank d c i n).sectors = s.sectors := rfl
@[simp] theorem addBank_full (s : State) (d c i n : Nat) : (s.addBank d c i n).full = s.full := rfl
@[simp] theorem addBank_feQueue (s : State) (d c i n : Nat) : (s.addBank d c i n).feQueue = s.feQueue := rfl
@[simp] theorem addBank_monEntries (s : State) (d c i n : Nat) : (s.addBank d c i n).monEntries = s.monEntries := rfl
@[simp] theorem addBank_feMaps (s : State) (d c i n : Nat) : (s.addBank d c i n).feMaps = s.feMaps := rfl
@[simp] theorem addBank_locks (s : State) (d c i n : Nat) : (s.addBank d c i n).locks = s.locks := rfl
@[simp] theorem addBank_l2 (s : State) (d c i n : Nat) : (s.addBank d c i n).l2 = s.l2 := rfl
@[simp] theorem addBank_groupErrs (s : State) (d c i n : Nat) : (s.addBank d c i n).groupErrs = s.groupErrs := rfl
@[simp] theorem addBank_ranges (s : State) (d c i n : Nat) : (s.addBank d c i n).ranges = s.ranges := rfl
@[simp] theorem addBank_net (s : State) (d c i n : Nat) : (s.addBank d c i n).net = s.net := rfl
@[simp] theorem addBank_ahead (s : State) (d c i n : Nat) : (s.addBank d c i n).ahead = s.ahead := rfl
@[simp] theorem addBank_outPorts (s : State) (d c i n : Nat) : (s.addBank d c i n).outPorts = s.outPorts := rfl
@[simp] theorem addBank_inPorts (s : State) (d c i n : Nat) : (s.addBank d c i n).inPorts = s.inPorts := rfl
@[simp] theorem addBank_mortar (s : State) (d c i n : Nat) : (s.addBank d c i n).mortar = s.mortar := rfl
@[simp] theorem addBank_modules (s : State) (d c i n : Nat) : (s.addBank d c i n).modules = s.modules := rfl
@[simp] theorem addBank_board (s : State) (d c i n : Nat) : (s.addBank d c i n).board = s.board := rfl
@[simp] theorem addBank_agenda (s : State) (d c i n : Nat) : (s.addBank d c i n).agenda = s.agenda := rfl
@[simp] theorem addBank_cur (s : State) (d c i n : Nat) : (s.addBank d c i n).cur = s.cur := rfl
@[simp] theorem addBank_freeCtr (s : State) (d c i n : Nat) : (s.addBank d c i n).freeCtr = s.freeCtr := rfl
@[simp] theorem addBank_nextId (s : State) (d c i n : Nat) : (s.addBank d c i n).nextId = s.nextId := rfl

@[simp] theorem goTo_cores (s : State) (a : Word) : (s.goTo a).cores = s.cores := rfl
@[simp] theorem goTo_dies (s : State) (a : Word) : (s.goTo a).dies = s.dies := rfl
@[simp] theorem goTo_ctxs (s : State) (a : Word) : (s.goTo a).ctxs = s.ctxs := rfl
@[simp] theorem goTo_saved (s : State) (a : Word) : (s.goTo a).saved = s.saved := rfl
@[simp] theorem goTo_moves (s : State) (a : Word) : (s.goTo a).moves = s.moves := rfl
@[simp] theorem goTo_stes (s : State) (a : Word) : (s.goTo a).stes = s.stes := rfl
@[simp] theorem goTo_regulators (s : State) (a : Word) : (s.goTo a).regulators = s.regulators := rfl
@[simp] theorem goTo_cells (s : State) (a : Word) : (s.goTo a).cells = s.cells := rfl
@[simp] theorem goTo_sectors (s : State) (a : Word) : (s.goTo a).sectors = s.sectors := rfl
@[simp] theorem goTo_full (s : State) (a : Word) : (s.goTo a).full = s.full := rfl
@[simp] theorem goTo_feQueue (s : State) (a : Word) : (s.goTo a).feQueue = s.feQueue := rfl
@[simp] theorem goTo_monEntries (s : State) (a : Word) : (s.goTo a).monEntries = s.monEntries := rfl
@[simp] theorem goTo_feMaps (s : State) (a : Word) : (s.goTo a).feMaps = s.feMaps := rfl
@[simp] theorem goTo_locks (s : State) (a : Word) : (s.goTo a).locks = s.locks := rfl
@[simp] theorem goTo_l2 (s : State) (a : Word) : (s.goTo a).l2 = s.l2 := rfl
@[simp] theorem goTo_groupErrs (s : State) (a : Word) : (s.goTo a).groupErrs = s.groupErrs := rfl
@[simp] theorem goTo_ranges (s : State) (a : Word) : (s.goTo a).ranges = s.ranges := rfl
@[simp] theorem goTo_net (s : State) (a : Word) : (s.goTo a).net = s.net := rfl
@[simp] theorem goTo_ahead (s : State) (a : Word) : (s.goTo a).ahead = s.ahead := rfl
@[simp] theorem goTo_outPorts (s : State) (a : Word) : (s.goTo a).outPorts = s.outPorts := rfl
@[simp] theorem goTo_inPorts (s : State) (a : Word) : (s.goTo a).inPorts = s.inPorts := rfl
@[simp] theorem goTo_mortar (s : State) (a : Word) : (s.goTo a).mortar = s.mortar := rfl
@[simp] theorem goTo_modules (s : State) (a : Word) : (s.goTo a).modules = s.modules := rfl
@[simp] theorem goTo_board (s : State) (a : Word) : (s.goTo a).board = s.board := rfl
@[simp] theorem goTo_agenda (s : State) (a : Word) : (s.goTo a).agenda = s.agenda := rfl
@[simp] theorem goTo_cur (s : State) (a : Word) : (s.goTo a).cur = s.cur := rfl
@[simp] theorem goTo_freeCtr (s : State) (a : Word) : (s.goTo a).freeCtr = s.freeCtr := rfl
@[simp] theorem goTo_nextId (s : State) (a : Word) : (s.goTo a).nextId = s.nextId := rfl

@[simp] theorem holdWord_cores (s : State) : (s.holdWord).cores = s.cores := rfl
@[simp] theorem holdWord_dies (s : State) : (s.holdWord).dies = s.dies := rfl
@[simp] theorem holdWord_ctxs (s : State) : (s.holdWord).ctxs = s.ctxs := rfl
@[simp] theorem holdWord_saved (s : State) : (s.holdWord).saved = s.saved := rfl
@[simp] theorem holdWord_moves (s : State) : (s.holdWord).moves = s.moves := rfl
@[simp] theorem holdWord_stes (s : State) : (s.holdWord).stes = s.stes := rfl
@[simp] theorem holdWord_regulators (s : State) : (s.holdWord).regulators = s.regulators := rfl
@[simp] theorem holdWord_cells (s : State) : (s.holdWord).cells = s.cells := rfl
@[simp] theorem holdWord_sectors (s : State) : (s.holdWord).sectors = s.sectors := rfl
@[simp] theorem holdWord_full (s : State) : (s.holdWord).full = s.full := rfl
@[simp] theorem holdWord_feQueue (s : State) : (s.holdWord).feQueue = s.feQueue := rfl
@[simp] theorem holdWord_monEntries (s : State) : (s.holdWord).monEntries = s.monEntries := rfl
@[simp] theorem holdWord_feMaps (s : State) : (s.holdWord).feMaps = s.feMaps := rfl
@[simp] theorem holdWord_locks (s : State) : (s.holdWord).locks = s.locks := rfl
@[simp] theorem holdWord_l2 (s : State) : (s.holdWord).l2 = s.l2 := rfl
@[simp] theorem holdWord_groupErrs (s : State) : (s.holdWord).groupErrs = s.groupErrs := rfl
@[simp] theorem holdWord_ranges (s : State) : (s.holdWord).ranges = s.ranges := rfl
@[simp] theorem holdWord_net (s : State) : (s.holdWord).net = s.net := rfl
@[simp] theorem holdWord_ahead (s : State) : (s.holdWord).ahead = s.ahead := rfl
@[simp] theorem holdWord_outPorts (s : State) : (s.holdWord).outPorts = s.outPorts := rfl
@[simp] theorem holdWord_inPorts (s : State) : (s.holdWord).inPorts = s.inPorts := rfl
@[simp] theorem holdWord_mortar (s : State) : (s.holdWord).mortar = s.mortar := rfl
@[simp] theorem holdWord_modules (s : State) : (s.holdWord).modules = s.modules := rfl
@[simp] theorem holdWord_board (s : State) : (s.holdWord).board = s.board := rfl
@[simp] theorem holdWord_agenda (s : State) : (s.holdWord).agenda = s.agenda := rfl
@[simp] theorem holdWord_cur (s : State) : (s.holdWord).cur = s.cur := rfl
@[simp] theorem holdWord_freeCtr (s : State) : (s.holdWord).freeCtr = s.freeCtr := rfl
@[simp] theorem holdWord_nextId (s : State) : (s.holdWord).nextId = s.nextId := rfl

@[simp] theorem holdFor_cores (s : State) (w : Wait) : (s.holdFor w).cores = s.cores := rfl
@[simp] theorem holdFor_dies (s : State) (w : Wait) : (s.holdFor w).dies = s.dies := rfl
@[simp] theorem holdFor_ctxs (s : State) (w : Wait) : (s.holdFor w).ctxs = s.ctxs := rfl
@[simp] theorem holdFor_saved (s : State) (w : Wait) : (s.holdFor w).saved = s.saved := rfl
@[simp] theorem holdFor_moves (s : State) (w : Wait) : (s.holdFor w).moves = s.moves := rfl
@[simp] theorem holdFor_stes (s : State) (w : Wait) : (s.holdFor w).stes = s.stes := rfl
@[simp] theorem holdFor_regulators (s : State) (w : Wait) : (s.holdFor w).regulators = s.regulators := rfl
@[simp] theorem holdFor_cells (s : State) (w : Wait) : (s.holdFor w).cells = s.cells := rfl
@[simp] theorem holdFor_sectors (s : State) (w : Wait) : (s.holdFor w).sectors = s.sectors := rfl
@[simp] theorem holdFor_full (s : State) (w : Wait) : (s.holdFor w).full = s.full := rfl
@[simp] theorem holdFor_feQueue (s : State) (w : Wait) : (s.holdFor w).feQueue = s.feQueue := rfl
@[simp] theorem holdFor_monEntries (s : State) (w : Wait) : (s.holdFor w).monEntries = s.monEntries := rfl
@[simp] theorem holdFor_feMaps (s : State) (w : Wait) : (s.holdFor w).feMaps = s.feMaps := rfl
@[simp] theorem holdFor_locks (s : State) (w : Wait) : (s.holdFor w).locks = s.locks := rfl
@[simp] theorem holdFor_l2 (s : State) (w : Wait) : (s.holdFor w).l2 = s.l2 := rfl
@[simp] theorem holdFor_groupErrs (s : State) (w : Wait) : (s.holdFor w).groupErrs = s.groupErrs := rfl
@[simp] theorem holdFor_ranges (s : State) (w : Wait) : (s.holdFor w).ranges = s.ranges := rfl
@[simp] theorem holdFor_net (s : State) (w : Wait) : (s.holdFor w).net = s.net := rfl
@[simp] theorem holdFor_ahead (s : State) (w : Wait) : (s.holdFor w).ahead = s.ahead := rfl
@[simp] theorem holdFor_outPorts (s : State) (w : Wait) : (s.holdFor w).outPorts = s.outPorts := rfl
@[simp] theorem holdFor_inPorts (s : State) (w : Wait) : (s.holdFor w).inPorts = s.inPorts := rfl
@[simp] theorem holdFor_mortar (s : State) (w : Wait) : (s.holdFor w).mortar = s.mortar := rfl
@[simp] theorem holdFor_modules (s : State) (w : Wait) : (s.holdFor w).modules = s.modules := rfl
@[simp] theorem holdFor_board (s : State) (w : Wait) : (s.holdFor w).board = s.board := rfl
@[simp] theorem holdFor_agenda (s : State) (w : Wait) : (s.holdFor w).agenda = s.agenda := rfl
@[simp] theorem holdFor_cur (s : State) (w : Wait) : (s.holdFor w).cur = s.cur := rfl
@[simp] theorem holdFor_freeCtr (s : State) (w : Wait) : (s.holdFor w).freeCtr = s.freeCtr := rfl
@[simp] theorem holdFor_nextId (s : State) (w : Wait) : (s.holdFor w).nextId = s.nextId := rfl

@[simp] theorem blockOn_cores (s : State) (w : Wait) : (s.blockOn w).cores = s.cores := rfl
@[simp] theorem blockOn_dies (s : State) (w : Wait) : (s.blockOn w).dies = s.dies := rfl
@[simp] theorem blockOn_ctxs (s : State) (w : Wait) : (s.blockOn w).ctxs = s.ctxs := rfl
@[simp] theorem blockOn_saved (s : State) (w : Wait) : (s.blockOn w).saved = s.saved := rfl
@[simp] theorem blockOn_moves (s : State) (w : Wait) : (s.blockOn w).moves = s.moves := rfl
@[simp] theorem blockOn_stes (s : State) (w : Wait) : (s.blockOn w).stes = s.stes := rfl
@[simp] theorem blockOn_regulators (s : State) (w : Wait) : (s.blockOn w).regulators = s.regulators := rfl
@[simp] theorem blockOn_cells (s : State) (w : Wait) : (s.blockOn w).cells = s.cells := rfl
@[simp] theorem blockOn_sectors (s : State) (w : Wait) : (s.blockOn w).sectors = s.sectors := rfl
@[simp] theorem blockOn_full (s : State) (w : Wait) : (s.blockOn w).full = s.full := rfl
@[simp] theorem blockOn_feQueue (s : State) (w : Wait) : (s.blockOn w).feQueue = s.feQueue := rfl
@[simp] theorem blockOn_monEntries (s : State) (w : Wait) : (s.blockOn w).monEntries = s.monEntries := rfl
@[simp] theorem blockOn_feMaps (s : State) (w : Wait) : (s.blockOn w).feMaps = s.feMaps := rfl
@[simp] theorem blockOn_locks (s : State) (w : Wait) : (s.blockOn w).locks = s.locks := rfl
@[simp] theorem blockOn_l2 (s : State) (w : Wait) : (s.blockOn w).l2 = s.l2 := rfl
@[simp] theorem blockOn_groupErrs (s : State) (w : Wait) : (s.blockOn w).groupErrs = s.groupErrs := rfl
@[simp] theorem blockOn_ranges (s : State) (w : Wait) : (s.blockOn w).ranges = s.ranges := rfl
@[simp] theorem blockOn_net (s : State) (w : Wait) : (s.blockOn w).net = s.net := rfl
@[simp] theorem blockOn_ahead (s : State) (w : Wait) : (s.blockOn w).ahead = s.ahead := rfl
@[simp] theorem blockOn_outPorts (s : State) (w : Wait) : (s.blockOn w).outPorts = s.outPorts := rfl
@[simp] theorem blockOn_inPorts (s : State) (w : Wait) : (s.blockOn w).inPorts = s.inPorts := rfl
@[simp] theorem blockOn_mortar (s : State) (w : Wait) : (s.blockOn w).mortar = s.mortar := rfl
@[simp] theorem blockOn_modules (s : State) (w : Wait) : (s.blockOn w).modules = s.modules := rfl
@[simp] theorem blockOn_board (s : State) (w : Wait) : (s.blockOn w).board = s.board := rfl
@[simp] theorem blockOn_agenda (s : State) (w : Wait) : (s.blockOn w).agenda = s.agenda := rfl
@[simp] theorem blockOn_cur (s : State) (w : Wait) : (s.blockOn w).cur = s.cur := rfl
@[simp] theorem blockOn_freeCtr (s : State) (w : Wait) : (s.blockOn w).freeCtr = s.freeCtr := rfl
@[simp] theorem blockOn_nextId (s : State) (w : Wait) : (s.blockOn w).nextId = s.nextId := rfl

@[simp] theorem writeS_cores (s : State) (n : BitVec 5) (v : Word) : (s.writeS n v).cores = s.cores := rfl
@[simp] theorem writeS_dies (s : State) (n : BitVec 5) (v : Word) : (s.writeS n v).dies = s.dies := rfl
@[simp] theorem writeS_ctxs (s : State) (n : BitVec 5) (v : Word) : (s.writeS n v).ctxs = s.ctxs := rfl
@[simp] theorem writeS_saved (s : State) (n : BitVec 5) (v : Word) : (s.writeS n v).saved = s.saved := rfl
@[simp] theorem writeS_moves (s : State) (n : BitVec 5) (v : Word) : (s.writeS n v).moves = s.moves := rfl
@[simp] theorem writeS_stes (s : State) (n : BitVec 5) (v : Word) : (s.writeS n v).stes = s.stes := rfl
@[simp] theorem writeS_regulators (s : State) (n : BitVec 5) (v : Word) : (s.writeS n v).regulators = s.regulators := rfl
@[simp] theorem writeS_cells (s : State) (n : BitVec 5) (v : Word) : (s.writeS n v).cells = s.cells := rfl
@[simp] theorem writeS_sectors (s : State) (n : BitVec 5) (v : Word) : (s.writeS n v).sectors = s.sectors := rfl
@[simp] theorem writeS_full (s : State) (n : BitVec 5) (v : Word) : (s.writeS n v).full = s.full := rfl
@[simp] theorem writeS_feQueue (s : State) (n : BitVec 5) (v : Word) : (s.writeS n v).feQueue = s.feQueue := rfl
@[simp] theorem writeS_monEntries (s : State) (n : BitVec 5) (v : Word) : (s.writeS n v).monEntries = s.monEntries := rfl
@[simp] theorem writeS_feMaps (s : State) (n : BitVec 5) (v : Word) : (s.writeS n v).feMaps = s.feMaps := rfl
@[simp] theorem writeS_locks (s : State) (n : BitVec 5) (v : Word) : (s.writeS n v).locks = s.locks := rfl
@[simp] theorem writeS_l2 (s : State) (n : BitVec 5) (v : Word) : (s.writeS n v).l2 = s.l2 := rfl
@[simp] theorem writeS_groupErrs (s : State) (n : BitVec 5) (v : Word) : (s.writeS n v).groupErrs = s.groupErrs := rfl
@[simp] theorem writeS_ranges (s : State) (n : BitVec 5) (v : Word) : (s.writeS n v).ranges = s.ranges := rfl
@[simp] theorem writeS_net (s : State) (n : BitVec 5) (v : Word) : (s.writeS n v).net = s.net := rfl
@[simp] theorem writeS_ahead (s : State) (n : BitVec 5) (v : Word) : (s.writeS n v).ahead = s.ahead := rfl
@[simp] theorem writeS_outPorts (s : State) (n : BitVec 5) (v : Word) : (s.writeS n v).outPorts = s.outPorts := rfl
@[simp] theorem writeS_inPorts (s : State) (n : BitVec 5) (v : Word) : (s.writeS n v).inPorts = s.inPorts := rfl
@[simp] theorem writeS_mortar (s : State) (n : BitVec 5) (v : Word) : (s.writeS n v).mortar = s.mortar := rfl
@[simp] theorem writeS_modules (s : State) (n : BitVec 5) (v : Word) : (s.writeS n v).modules = s.modules := rfl
@[simp] theorem writeS_board (s : State) (n : BitVec 5) (v : Word) : (s.writeS n v).board = s.board := rfl
@[simp] theorem writeS_agenda (s : State) (n : BitVec 5) (v : Word) : (s.writeS n v).agenda = s.agenda := rfl
@[simp] theorem writeS_cur (s : State) (n : BitVec 5) (v : Word) : (s.writeS n v).cur = s.cur := rfl
@[simp] theorem writeS_freeCtr (s : State) (n : BitVec 5) (v : Word) : (s.writeS n v).freeCtr = s.freeCtr := rfl
@[simp] theorem writeS_nextId (s : State) (n : BitVec 5) (v : Word) : (s.writeS n v).nextId = s.nextId := rfl

@[simp] theorem writeP_cores (s : State) (n : BitVec 3) (b : Bool) : (s.writeP n b).cores = s.cores := rfl
@[simp] theorem writeP_dies (s : State) (n : BitVec 3) (b : Bool) : (s.writeP n b).dies = s.dies := rfl
@[simp] theorem writeP_ctxs (s : State) (n : BitVec 3) (b : Bool) : (s.writeP n b).ctxs = s.ctxs := rfl
@[simp] theorem writeP_saved (s : State) (n : BitVec 3) (b : Bool) : (s.writeP n b).saved = s.saved := rfl
@[simp] theorem writeP_moves (s : State) (n : BitVec 3) (b : Bool) : (s.writeP n b).moves = s.moves := rfl
@[simp] theorem writeP_stes (s : State) (n : BitVec 3) (b : Bool) : (s.writeP n b).stes = s.stes := rfl
@[simp] theorem writeP_regulators (s : State) (n : BitVec 3) (b : Bool) : (s.writeP n b).regulators = s.regulators := rfl
@[simp] theorem writeP_cells (s : State) (n : BitVec 3) (b : Bool) : (s.writeP n b).cells = s.cells := rfl
@[simp] theorem writeP_sectors (s : State) (n : BitVec 3) (b : Bool) : (s.writeP n b).sectors = s.sectors := rfl
@[simp] theorem writeP_full (s : State) (n : BitVec 3) (b : Bool) : (s.writeP n b).full = s.full := rfl
@[simp] theorem writeP_feQueue (s : State) (n : BitVec 3) (b : Bool) : (s.writeP n b).feQueue = s.feQueue := rfl
@[simp] theorem writeP_monEntries (s : State) (n : BitVec 3) (b : Bool) : (s.writeP n b).monEntries = s.monEntries := rfl
@[simp] theorem writeP_feMaps (s : State) (n : BitVec 3) (b : Bool) : (s.writeP n b).feMaps = s.feMaps := rfl
@[simp] theorem writeP_locks (s : State) (n : BitVec 3) (b : Bool) : (s.writeP n b).locks = s.locks := rfl
@[simp] theorem writeP_l2 (s : State) (n : BitVec 3) (b : Bool) : (s.writeP n b).l2 = s.l2 := rfl
@[simp] theorem writeP_groupErrs (s : State) (n : BitVec 3) (b : Bool) : (s.writeP n b).groupErrs = s.groupErrs := rfl
@[simp] theorem writeP_ranges (s : State) (n : BitVec 3) (b : Bool) : (s.writeP n b).ranges = s.ranges := rfl
@[simp] theorem writeP_net (s : State) (n : BitVec 3) (b : Bool) : (s.writeP n b).net = s.net := rfl
@[simp] theorem writeP_ahead (s : State) (n : BitVec 3) (b : Bool) : (s.writeP n b).ahead = s.ahead := rfl
@[simp] theorem writeP_outPorts (s : State) (n : BitVec 3) (b : Bool) : (s.writeP n b).outPorts = s.outPorts := rfl
@[simp] theorem writeP_inPorts (s : State) (n : BitVec 3) (b : Bool) : (s.writeP n b).inPorts = s.inPorts := rfl
@[simp] theorem writeP_mortar (s : State) (n : BitVec 3) (b : Bool) : (s.writeP n b).mortar = s.mortar := rfl
@[simp] theorem writeP_modules (s : State) (n : BitVec 3) (b : Bool) : (s.writeP n b).modules = s.modules := rfl
@[simp] theorem writeP_board (s : State) (n : BitVec 3) (b : Bool) : (s.writeP n b).board = s.board := rfl
@[simp] theorem writeP_agenda (s : State) (n : BitVec 3) (b : Bool) : (s.writeP n b).agenda = s.agenda := rfl
@[simp] theorem writeP_cur (s : State) (n : BitVec 3) (b : Bool) : (s.writeP n b).cur = s.cur := rfl
@[simp] theorem writeP_freeCtr (s : State) (n : BitVec 3) (b : Bool) : (s.writeP n b).freeCtr = s.freeCtr := rfl
@[simp] theorem writeP_nextId (s : State) (n : BitVec 3) (b : Bool) : (s.writeP n b).nextId = s.nextId := rfl

@[simp] theorem setPend_cores (s : State) (q b : Nat) : (s.setPend q b).cores = s.cores := rfl
@[simp] theorem setPend_dies (s : State) (q b : Nat) : (s.setPend q b).dies = s.dies := rfl
@[simp] theorem setPend_ctxs (s : State) (q b : Nat) : (s.setPend q b).ctxs = s.ctxs := rfl
@[simp] theorem setPend_saved (s : State) (q b : Nat) : (s.setPend q b).saved = s.saved := rfl
@[simp] theorem setPend_moves (s : State) (q b : Nat) : (s.setPend q b).moves = s.moves := rfl
@[simp] theorem setPend_stes (s : State) (q b : Nat) : (s.setPend q b).stes = s.stes := rfl
@[simp] theorem setPend_regulators (s : State) (q b : Nat) : (s.setPend q b).regulators = s.regulators := rfl
@[simp] theorem setPend_cells (s : State) (q b : Nat) : (s.setPend q b).cells = s.cells := rfl
@[simp] theorem setPend_sectors (s : State) (q b : Nat) : (s.setPend q b).sectors = s.sectors := rfl
@[simp] theorem setPend_full (s : State) (q b : Nat) : (s.setPend q b).full = s.full := rfl
@[simp] theorem setPend_feQueue (s : State) (q b : Nat) : (s.setPend q b).feQueue = s.feQueue := rfl
@[simp] theorem setPend_monEntries (s : State) (q b : Nat) : (s.setPend q b).monEntries = s.monEntries := rfl
@[simp] theorem setPend_feMaps (s : State) (q b : Nat) : (s.setPend q b).feMaps = s.feMaps := rfl
@[simp] theorem setPend_locks (s : State) (q b : Nat) : (s.setPend q b).locks = s.locks := rfl
@[simp] theorem setPend_l2 (s : State) (q b : Nat) : (s.setPend q b).l2 = s.l2 := rfl
@[simp] theorem setPend_groupErrs (s : State) (q b : Nat) : (s.setPend q b).groupErrs = s.groupErrs := rfl
@[simp] theorem setPend_ranges (s : State) (q b : Nat) : (s.setPend q b).ranges = s.ranges := rfl
@[simp] theorem setPend_net (s : State) (q b : Nat) : (s.setPend q b).net = s.net := rfl
@[simp] theorem setPend_ahead (s : State) (q b : Nat) : (s.setPend q b).ahead = s.ahead := rfl
@[simp] theorem setPend_outPorts (s : State) (q b : Nat) : (s.setPend q b).outPorts = s.outPorts := rfl
@[simp] theorem setPend_inPorts (s : State) (q b : Nat) : (s.setPend q b).inPorts = s.inPorts := rfl
@[simp] theorem setPend_mortar (s : State) (q b : Nat) : (s.setPend q b).mortar = s.mortar := rfl
@[simp] theorem setPend_modules (s : State) (q b : Nat) : (s.setPend q b).modules = s.modules := rfl
@[simp] theorem setPend_board (s : State) (q b : Nat) : (s.setPend q b).board = s.board := rfl
@[simp] theorem setPend_agenda (s : State) (q b : Nat) : (s.setPend q b).agenda = s.agenda := rfl
@[simp] theorem setPend_cur (s : State) (q b : Nat) : (s.setPend q b).cur = s.cur := rfl
@[simp] theorem setPend_freeCtr (s : State) (q b : Nat) : (s.setPend q b).freeCtr = s.freeCtr := rfl
@[simp] theorem setPend_nextId (s : State) (q b : Nat) : (s.setPend q b).nextId = s.nextId := rfl

@[simp] theorem forgetAhead_streams (s : State) (q : Nat) : (s.forgetAhead q).streams = s.streams := rfl
@[simp] theorem forgetAhead_cores (s : State) (q : Nat) : (s.forgetAhead q).cores = s.cores := rfl
@[simp] theorem forgetAhead_dies (s : State) (q : Nat) : (s.forgetAhead q).dies = s.dies := rfl
@[simp] theorem forgetAhead_ctxs (s : State) (q : Nat) : (s.forgetAhead q).ctxs = s.ctxs := rfl
@[simp] theorem forgetAhead_saved (s : State) (q : Nat) : (s.forgetAhead q).saved = s.saved := rfl
@[simp] theorem forgetAhead_moves (s : State) (q : Nat) : (s.forgetAhead q).moves = s.moves := rfl
@[simp] theorem forgetAhead_stes (s : State) (q : Nat) : (s.forgetAhead q).stes = s.stes := rfl
@[simp] theorem forgetAhead_regulators (s : State) (q : Nat) : (s.forgetAhead q).regulators = s.regulators := rfl
@[simp] theorem forgetAhead_cells (s : State) (q : Nat) : (s.forgetAhead q).cells = s.cells := rfl
@[simp] theorem forgetAhead_sectors (s : State) (q : Nat) : (s.forgetAhead q).sectors = s.sectors := rfl
@[simp] theorem forgetAhead_full (s : State) (q : Nat) : (s.forgetAhead q).full = s.full := rfl
@[simp] theorem forgetAhead_feQueue (s : State) (q : Nat) : (s.forgetAhead q).feQueue = s.feQueue := rfl
@[simp] theorem forgetAhead_monEntries (s : State) (q : Nat) : (s.forgetAhead q).monEntries = s.monEntries := rfl
@[simp] theorem forgetAhead_feMaps (s : State) (q : Nat) : (s.forgetAhead q).feMaps = s.feMaps := rfl
@[simp] theorem forgetAhead_locks (s : State) (q : Nat) : (s.forgetAhead q).locks = s.locks := rfl
@[simp] theorem forgetAhead_l2 (s : State) (q : Nat) : (s.forgetAhead q).l2 = s.l2 := rfl
@[simp] theorem forgetAhead_groupErrs (s : State) (q : Nat) : (s.forgetAhead q).groupErrs = s.groupErrs := rfl
@[simp] theorem forgetAhead_ranges (s : State) (q : Nat) : (s.forgetAhead q).ranges = s.ranges := rfl
@[simp] theorem forgetAhead_net (s : State) (q : Nat) : (s.forgetAhead q).net = s.net := rfl
@[simp] theorem forgetAhead_outPorts (s : State) (q : Nat) : (s.forgetAhead q).outPorts = s.outPorts := rfl
@[simp] theorem forgetAhead_inPorts (s : State) (q : Nat) : (s.forgetAhead q).inPorts = s.inPorts := rfl
@[simp] theorem forgetAhead_mortar (s : State) (q : Nat) : (s.forgetAhead q).mortar = s.mortar := rfl
@[simp] theorem forgetAhead_modules (s : State) (q : Nat) : (s.forgetAhead q).modules = s.modules := rfl
@[simp] theorem forgetAhead_board (s : State) (q : Nat) : (s.forgetAhead q).board = s.board := rfl
@[simp] theorem forgetAhead_agenda (s : State) (q : Nat) : (s.forgetAhead q).agenda = s.agenda := rfl
@[simp] theorem forgetAhead_cur (s : State) (q : Nat) : (s.forgetAhead q).cur = s.cur := rfl
@[simp] theorem forgetAhead_freeCtr (s : State) (q : Nat) : (s.forgetAhead q).freeCtr = s.freeCtr := rfl
@[simp] theorem forgetAhead_nextId (s : State) (q : Nat) : (s.forgetAhead q).nextId = s.nextId := rfl

@[simp] theorem forgetCore_streams (s : State) (c : Nat) : (s.forgetCore c).streams = s.streams := rfl
@[simp] theorem forgetCore_cores (s : State) (c : Nat) : (s.forgetCore c).cores = s.cores := rfl
@[simp] theorem forgetCore_dies (s : State) (c : Nat) : (s.forgetCore c).dies = s.dies := rfl
@[simp] theorem forgetCore_ctxs (s : State) (c : Nat) : (s.forgetCore c).ctxs = s.ctxs := rfl
@[simp] theorem forgetCore_saved (s : State) (c : Nat) : (s.forgetCore c).saved = s.saved := rfl
@[simp] theorem forgetCore_moves (s : State) (c : Nat) : (s.forgetCore c).moves = s.moves := rfl
@[simp] theorem forgetCore_stes (s : State) (c : Nat) : (s.forgetCore c).stes = s.stes := rfl
@[simp] theorem forgetCore_regulators (s : State) (c : Nat) : (s.forgetCore c).regulators = s.regulators := rfl
@[simp] theorem forgetCore_cells (s : State) (c : Nat) : (s.forgetCore c).cells = s.cells := rfl
@[simp] theorem forgetCore_sectors (s : State) (c : Nat) : (s.forgetCore c).sectors = s.sectors := rfl
@[simp] theorem forgetCore_full (s : State) (c : Nat) : (s.forgetCore c).full = s.full := rfl
@[simp] theorem forgetCore_feQueue (s : State) (c : Nat) : (s.forgetCore c).feQueue = s.feQueue := rfl
@[simp] theorem forgetCore_monEntries (s : State) (c : Nat) : (s.forgetCore c).monEntries = s.monEntries := rfl
@[simp] theorem forgetCore_feMaps (s : State) (c : Nat) : (s.forgetCore c).feMaps = s.feMaps := rfl
@[simp] theorem forgetCore_locks (s : State) (c : Nat) : (s.forgetCore c).locks = s.locks := rfl
@[simp] theorem forgetCore_l2 (s : State) (c : Nat) : (s.forgetCore c).l2 = s.l2 := rfl
@[simp] theorem forgetCore_groupErrs (s : State) (c : Nat) : (s.forgetCore c).groupErrs = s.groupErrs := rfl
@[simp] theorem forgetCore_ranges (s : State) (c : Nat) : (s.forgetCore c).ranges = s.ranges := rfl
@[simp] theorem forgetCore_net (s : State) (c : Nat) : (s.forgetCore c).net = s.net := rfl
@[simp] theorem forgetCore_outPorts (s : State) (c : Nat) : (s.forgetCore c).outPorts = s.outPorts := rfl
@[simp] theorem forgetCore_inPorts (s : State) (c : Nat) : (s.forgetCore c).inPorts = s.inPorts := rfl
@[simp] theorem forgetCore_mortar (s : State) (c : Nat) : (s.forgetCore c).mortar = s.mortar := rfl
@[simp] theorem forgetCore_modules (s : State) (c : Nat) : (s.forgetCore c).modules = s.modules := rfl
@[simp] theorem forgetCore_board (s : State) (c : Nat) : (s.forgetCore c).board = s.board := rfl
@[simp] theorem forgetCore_agenda (s : State) (c : Nat) : (s.forgetCore c).agenda = s.agenda := rfl
@[simp] theorem forgetCore_cur (s : State) (c : Nat) : (s.forgetCore c).cur = s.cur := rfl
@[simp] theorem forgetCore_freeCtr (s : State) (c : Nat) : (s.forgetCore c).freeCtr = s.freeCtr := rfl
@[simp] theorem forgetCore_nextId (s : State) (c : Nat) : (s.forgetCore c).nextId = s.nextId := rfl

/-! ## Reading a part after its update -/

@[simp] theorem stream_setStream_same (s : State) (q : Nat) (x : Stream) : (s.setStream q x).stream q = x :=
  SMap.get_set_same _ _ _ _
theorem stream_setStream_ne (s : State) {q p : Nat} (x : Stream) (h : p ≠ q) : (s.setStream q x).stream p = s.stream p :=
  SMap.get_set_ne _ _ _ h
@[simp] theorem core_setCore_same (s : State) (c : Nat) (x : Core) : (s.setCore c x).core c = x :=
  SMap.get_set_same _ _ _ _
theorem core_setCore_ne (s : State) {c e : Nat} (x : Core) (h : e ≠ c) : (s.setCore c x).core e = s.core e :=
  SMap.get_set_ne _ _ _ h
@[simp] theorem die_setDie_same (s : State) (d : Nat) (x : Die) : (s.setDie d x).die d = x :=
  SMap.get_set_same _ _ _ _
theorem die_setDie_ne (s : State) {d e : Nat} (x : Die) (h : e ≠ d) : (s.setDie d x).die e = s.die e :=
  SMap.get_set_ne _ _ _ h
@[simp] theorem ste_setSte_same (s : State) (k : Nat) (x : Ste) : (s.setSte k x).ste k = x :=
  SMap.get_set_same _ _ _ _
theorem ste_setSte_ne (s : State) {k e : Nat} (x : Ste) (h : e ≠ k) : (s.setSte k x).ste e = s.ste e :=
  SMap.get_set_ne _ _ _ h
@[simp] theorem ctx_find_setCtx_same (s : State) (c : Nat) (x : Ctx) : (s.setCtx c x).ctx? c = some x :=
  SMap.find_set_same _ _ _
theorem ctx_find_setCtx_ne (s : State) {c e : Nat} (x : Ctx) (h : e ≠ c) : (s.setCtx c x).ctx? e = s.ctx? e :=
  SMap.find_set_ne _ _ h
@[simp] theorem ctx_setCtx_same (s : State) (c : Nat) (x : Ctx) : (s.setCtx c x).ctx c = x := by
  simp [ctx]
theorem ctx_setCtx_ne (s : State) {c e : Nat} (x : Ctx) (h : e ≠ c) : (s.setCtx c x).ctx e = s.ctx e := by
  simp [ctx, ctx_find_setCtx_ne s x h]
@[simp] theorem regulator_setRegulator_same (s : State) (k : Nat) (x : Regulator) :
    (s.setRegulator k x).regulator k = x := SMap.get_set_same _ _ _ _
theorem regulator_setRegulator_ne (s : State) {k e : Nat} (x : Regulator) (h : e ≠ k) :
    (s.setRegulator k x).regulator e = s.regulator e := SMap.get_set_ne _ _ _ h

/-- The running stream after it is replaced. -/
@[simp] theorem me_setMe (s : State) (x : Stream) : (s.setMe x).me = x := SMap.get_set_same _ _ _ _
@[simp] theorem setStream_setStream (s : State) (q : Nat) (x y : Stream) :
    (s.setStream q x).setStream q y = s.setStream q y := by simp [setStream]
@[simp] theorem setMe_setMe (s : State) (x y : Stream) : (s.setMe x).setMe y = s.setMe y :=
  setStream_setStream s s.cur x y
theorem stream_setMe_ne (s : State) {q : Nat} (x : Stream) (h : q ≠ s.cur) : (s.setMe x).stream q = s.stream q :=
  SMap.get_set_ne _ _ _ h
@[simp] theorem me_goTo (s : State) (a : Word) :
    (s.goTo a).me = { s.me with pc := a, run := .ready, wait := .none } := me_setMe _ _
theorem stream_goTo_ne (s : State) {q : Nat} (a : Word) (h : q ≠ s.cur) : (s.goTo a).stream q = s.stream q :=
  stream_setMe_ne s _ h
@[simp] theorem me_holdWord (s : State) : s.holdWord.me = { s.me with run := .ready, wait := .retry } := me_setMe _ _
@[simp] theorem me_holdFor (s : State) (w : Wait) : (s.holdFor w).me = { s.me with run := .ready, wait := w } := me_setMe _ _
@[simp] theorem me_blockOn (s : State) (w : Wait) : (s.blockOn w).me = { s.me with run := .blocked, wait := w } := me_setMe _ _
@[simp] theorem me_writeS (s : State) (n : BitVec 5) (v : Word) : (s.writeS n v).me = s.me.writeS n v := me_setMe _ _
@[simp] theorem me_writeP (s : State) (n : BitVec 3) (b : Bool) : (s.writeP n b).me = s.me.writeP n b := me_setMe _ _
theorem stream_writeS_ne (s : State) {q : Nat} (n : BitVec 5) (v : Word) (h : q ≠ s.cur) :
    (s.writeS n v).stream q = s.stream q := stream_setMe_ne s _ h
theorem stream_writeP_ne (s : State) {q : Nat} (n : BitVec 3) (b : Bool) (h : q ≠ s.cur) :
    (s.writeP n b).stream q = s.stream q := stream_setMe_ne s _ h

/-! ## Parts that an update of another part leaves -/

@[simp] theorem core_setStream (s : State) (q : Nat) (x : Stream) (c' : Nat) : (s.setStream q x).core c' = s.core c' := rfl
@[simp] theorem die_setStream (s : State) (q : Nat) (x : Stream) (d' : Nat) : (s.setStream q x).die d' = s.die d' := rfl
@[simp] theorem ctx_setStream (s : State) (q : Nat) (x : Stream) (x' : Nat) : (s.setStream q x).ctx x' = s.ctx x' := rfl
@[simp] theorem ste_setStream (s : State) (q : Nat) (x : Stream) (k' : Nat) : (s.setStream q x).ste k' = s.ste k' := rfl
@[simp] theorem core_setMe (s : State) (x : Stream) (c' : Nat) : (s.setMe x).core c' = s.core c' := rfl
@[simp] theorem die_setMe (s : State) (x : Stream) (d' : Nat) : (s.setMe x).die d' = s.die d' := rfl
@[simp] theorem ctx_setMe (s : State) (x : Stream) (x' : Nat) : (s.setMe x).ctx x' = s.ctx x' := rfl
@[simp] theorem ste_setMe (s : State) (x : Stream) (k' : Nat) : (s.setMe x).ste k' = s.ste k' := rfl
@[simp] theorem stream_setCore (s : State) (c : Nat) (x : Core) (q' : Nat) : (s.setCore c x).stream q' = s.stream q' := rfl
@[simp] theorem die_setCore (s : State) (c : Nat) (x : Core) (d' : Nat) : (s.setCore c x).die d' = s.die d' := rfl
@[simp] theorem ctx_setCore (s : State) (c : Nat) (x : Core) (x' : Nat) : (s.setCore c x).ctx x' = s.ctx x' := rfl
@[simp] theorem ste_setCore (s : State) (c : Nat) (x : Core) (k' : Nat) : (s.setCore c x).ste k' = s.ste k' := rfl
@[simp] theorem stream_setDie (s : State) (d : Nat) (x : Die) (q' : Nat) : (s.setDie d x).stream q' = s.stream q' := rfl
@[simp] theorem core_setDie (s : State) (d : Nat) (x : Die) (c' : Nat) : (s.setDie d x).core c' = s.core c' := rfl
@[simp] theorem ctx_setDie (s : State) (d : Nat) (x : Die) (x' : Nat) : (s.setDie d x).ctx x' = s.ctx x' := rfl
@[simp] theorem ste_setDie (s : State) (d : Nat) (x : Die) (k' : Nat) : (s.setDie d x).ste k' = s.ste k' := rfl
@[simp] theorem stream_setSte (s : State) (k : Nat) (x : Ste) (q' : Nat) : (s.setSte k x).stream q' = s.stream q' := rfl
@[simp] theorem core_setSte (s : State) (k : Nat) (x : Ste) (c' : Nat) : (s.setSte k x).core c' = s.core c' := rfl
@[simp] theorem die_setSte (s : State) (k : Nat) (x : Ste) (d' : Nat) : (s.setSte k x).die d' = s.die d' := rfl
@[simp] theorem ctx_setSte (s : State) (k : Nat) (x : Ste) (x' : Nat) : (s.setSte k x).ctx x' = s.ctx x' := rfl
@[simp] theorem stream_setCtx (s : State) (c : Nat) (x : Ctx) (q' : Nat) : (s.setCtx c x).stream q' = s.stream q' := rfl
@[simp] theorem core_setCtx (s : State) (c : Nat) (x : Ctx) (c' : Nat) : (s.setCtx c x).core c' = s.core c' := rfl
@[simp] theorem die_setCtx (s : State) (c : Nat) (x : Ctx) (d' : Nat) : (s.setCtx c x).die d' = s.die d' := rfl
@[simp] theorem ste_setCtx (s : State) (c : Nat) (x : Ctx) (k' : Nat) : (s.setCtx c x).ste k' = s.ste k' := rfl
@[simp] theorem stream_setRegulator (s : State) (k : Nat) (x : Regulator) (q' : Nat) : (s.setRegulator k x).stream q' = s.stream q' := rfl
@[simp] theorem core_setRegulator (s : State) (k : Nat) (x : Regulator) (c' : Nat) : (s.setRegulator k x).core c' = s.core c' := rfl
@[simp] theorem die_setRegulator (s : State) (k : Nat) (x : Regulator) (d' : Nat) : (s.setRegulator k x).die d' = s.die d' := rfl
@[simp] theorem ctx_setRegulator (s : State) (k : Nat) (x : Regulator) (x' : Nat) : (s.setRegulator k x).ctx x' = s.ctx x' := rfl
@[simp] theorem ste_setRegulator (s : State) (k : Nat) (x : Regulator) (k' : Nat) : (s.setRegulator k x).ste k' = s.ste k' := rfl
@[simp] theorem stream_toHost (s : State) (v c : Nat) (x : Word) (q' : Nat) : (s.toHost v c x).stream q' = s.stream q' := rfl
@[simp] theorem core_toHost (s : State) (v c : Nat) (x : Word) (c' : Nat) : (s.toHost v c x).core c' = s.core c' := rfl
@[simp] theorem die_toHost (s : State) (v c : Nat) (x : Word) (d' : Nat) : (s.toHost v c x).die d' = s.die d' := rfl
@[simp] theorem ctx_toHost (s : State) (v c : Nat) (x : Word) (x' : Nat) : (s.toHost v c x).ctx x' = s.ctx x' := rfl
@[simp] theorem ste_toHost (s : State) (v c : Nat) (x : Word) (k' : Nat) : (s.toHost v c x).ste k' = s.ste k' := rfl
@[simp] theorem stream_post (s : State) (m : Msg) (q' : Nat) : (s.post m).stream q' = s.stream q' := rfl
@[simp] theorem core_post (s : State) (m : Msg) (c' : Nat) : (s.post m).core c' = s.core c' := rfl
@[simp] theorem die_post (s : State) (m : Msg) (d' : Nat) : (s.post m).die d' = s.die d' := rfl
@[simp] theorem ctx_post (s : State) (m : Msg) (x' : Nat) : (s.post m).ctx x' = s.ctx x' := rfl
@[simp] theorem ste_post (s : State) (m : Msg) (k' : Nat) : (s.post m).ste k' = s.ste k' := rfl
@[simp] theorem stream_putByte (s : State) (a : Nat) (b : Byte) (q' : Nat) : (s.putByte a b).stream q' = s.stream q' := rfl
@[simp] theorem core_putByte (s : State) (a : Nat) (b : Byte) (c' : Nat) : (s.putByte a b).core c' = s.core c' := rfl
@[simp] theorem die_putByte (s : State) (a : Nat) (b : Byte) (d' : Nat) : (s.putByte a b).die d' = s.die d' := rfl
@[simp] theorem ctx_putByte (s : State) (a : Nat) (b : Byte) (x' : Nat) : (s.putByte a b).ctx x' = s.ctx x' := rfl
@[simp] theorem ste_putByte (s : State) (a : Nat) (b : Byte) (k' : Nat) : (s.putByte a b).ste k' = s.ste k' := rfl
@[simp] theorem stream_setSector (s : State) (a : Nat) (x : Sector) (q' : Nat) : (s.setSector a x).stream q' = s.stream q' := rfl
@[simp] theorem core_setSector (s : State) (a : Nat) (x : Sector) (c' : Nat) : (s.setSector a x).core c' = s.core c' := rfl
@[simp] theorem die_setSector (s : State) (a : Nat) (x : Sector) (d' : Nat) : (s.setSector a x).die d' = s.die d' := rfl
@[simp] theorem ctx_setSector (s : State) (a : Nat) (x : Sector) (x' : Nat) : (s.setSector a x).ctx x' = s.ctx x' := rfl
@[simp] theorem ste_setSector (s : State) (a : Nat) (x : Sector) (k' : Nat) : (s.setSector a x).ste k' = s.ste k' := rfl
@[simp] theorem stream_setPage (s : State) (c p : Nat) (x : PageState) (q' : Nat) : (s.setPage c p x).stream q' = s.stream q' := rfl
@[simp] theorem die_setPage (s : State) (c p : Nat) (x : PageState) (d' : Nat) : (s.setPage c p x).die d' = s.die d' := rfl
@[simp] theorem ctx_setPage (s : State) (c p : Nat) (x : PageState) (x' : Nat) : (s.setPage c p x).ctx x' = s.ctx x' := rfl
@[simp] theorem ste_setPage (s : State) (c p : Nat) (x : PageState) (k' : Nat) : (s.setPage c p x).ste k' = s.ste k' := rfl
@[simp] theorem stream_addBank (s : State) (d c i n : Nat) (q' : Nat) : (s.addBank d c i n).stream q' = s.stream q' := rfl
@[simp] theorem core_addBank (s : State) (d c i n : Nat) (c' : Nat) : (s.addBank d c i n).core c' = s.core c' := rfl
@[simp] theorem ctx_addBank (s : State) (d c i n : Nat) (x' : Nat) : (s.addBank d c i n).ctx x' = s.ctx x' := rfl
@[simp] theorem ste_addBank (s : State) (d c i n : Nat) (k' : Nat) : (s.addBank d c i n).ste k' = s.ste k' := rfl
@[simp] theorem core_goTo (s : State) (a : Word) (c' : Nat) : (s.goTo a).core c' = s.core c' := rfl
@[simp] theorem die_goTo (s : State) (a : Word) (d' : Nat) : (s.goTo a).die d' = s.die d' := rfl
@[simp] theorem ctx_goTo (s : State) (a : Word) (x' : Nat) : (s.goTo a).ctx x' = s.ctx x' := rfl
@[simp] theorem ste_goTo (s : State) (a : Word) (k' : Nat) : (s.goTo a).ste k' = s.ste k' := rfl
@[simp] theorem core_holdWord (s : State) (c' : Nat) : (s.holdWord).core c' = s.core c' := rfl
@[simp] theorem die_holdWord (s : State) (d' : Nat) : (s.holdWord).die d' = s.die d' := rfl
@[simp] theorem ctx_holdWord (s : State) (x' : Nat) : (s.holdWord).ctx x' = s.ctx x' := rfl
@[simp] theorem ste_holdWord (s : State) (k' : Nat) : (s.holdWord).ste k' = s.ste k' := rfl
@[simp] theorem core_holdFor (s : State) (w : Wait) (c' : Nat) : (s.holdFor w).core c' = s.core c' := rfl
@[simp] theorem die_holdFor (s : State) (w : Wait) (d' : Nat) : (s.holdFor w).die d' = s.die d' := rfl
@[simp] theorem ctx_holdFor (s : State) (w : Wait) (x' : Nat) : (s.holdFor w).ctx x' = s.ctx x' := rfl
@[simp] theorem ste_holdFor (s : State) (w : Wait) (k' : Nat) : (s.holdFor w).ste k' = s.ste k' := rfl
@[simp] theorem core_blockOn (s : State) (w : Wait) (c' : Nat) : (s.blockOn w).core c' = s.core c' := rfl
@[simp] theorem die_blockOn (s : State) (w : Wait) (d' : Nat) : (s.blockOn w).die d' = s.die d' := rfl
@[simp] theorem ctx_blockOn (s : State) (w : Wait) (x' : Nat) : (s.blockOn w).ctx x' = s.ctx x' := rfl
@[simp] theorem ste_blockOn (s : State) (w : Wait) (k' : Nat) : (s.blockOn w).ste k' = s.ste k' := rfl
@[simp] theorem core_writeS (s : State) (n : BitVec 5) (v : Word) (c' : Nat) : (s.writeS n v).core c' = s.core c' := rfl
@[simp] theorem die_writeS (s : State) (n : BitVec 5) (v : Word) (d' : Nat) : (s.writeS n v).die d' = s.die d' := rfl
@[simp] theorem ctx_writeS (s : State) (n : BitVec 5) (v : Word) (x' : Nat) : (s.writeS n v).ctx x' = s.ctx x' := rfl
@[simp] theorem ste_writeS (s : State) (n : BitVec 5) (v : Word) (k' : Nat) : (s.writeS n v).ste k' = s.ste k' := rfl
@[simp] theorem core_writeP (s : State) (n : BitVec 3) (b : Bool) (c' : Nat) : (s.writeP n b).core c' = s.core c' := rfl
@[simp] theorem die_writeP (s : State) (n : BitVec 3) (b : Bool) (d' : Nat) : (s.writeP n b).die d' = s.die d' := rfl
@[simp] theorem ctx_writeP (s : State) (n : BitVec 3) (b : Bool) (x' : Nat) : (s.writeP n b).ctx x' = s.ctx x' := rfl
@[simp] theorem ste_writeP (s : State) (n : BitVec 3) (b : Bool) (k' : Nat) : (s.writeP n b).ste k' = s.ste k' := rfl
@[simp] theorem core_setPend (s : State) (q b : Nat) (c' : Nat) : (s.setPend q b).core c' = s.core c' := rfl
@[simp] theorem die_setPend (s : State) (q b : Nat) (d' : Nat) : (s.setPend q b).die d' = s.die d' := rfl
@[simp] theorem ctx_setPend (s : State) (q b : Nat) (x' : Nat) : (s.setPend q b).ctx x' = s.ctx x' := rfl
@[simp] theorem ste_setPend (s : State) (q b : Nat) (k' : Nat) : (s.setPend q b).ste k' = s.ste k' := rfl
@[simp] theorem stream_forgetAhead (s : State) (q : Nat) (q' : Nat) : (s.forgetAhead q).stream q' = s.stream q' := rfl
@[simp] theorem core_forgetAhead (s : State) (q : Nat) (c' : Nat) : (s.forgetAhead q).core c' = s.core c' := rfl
@[simp] theorem die_forgetAhead (s : State) (q : Nat) (d' : Nat) : (s.forgetAhead q).die d' = s.die d' := rfl
@[simp] theorem ctx_forgetAhead (s : State) (q : Nat) (x' : Nat) : (s.forgetAhead q).ctx x' = s.ctx x' := rfl
@[simp] theorem ste_forgetAhead (s : State) (q : Nat) (k' : Nat) : (s.forgetAhead q).ste k' = s.ste k' := rfl
@[simp] theorem stream_forgetCore (s : State) (c : Nat) (q' : Nat) : (s.forgetCore c).stream q' = s.stream q' := rfl
@[simp] theorem core_forgetCore (s : State) (c : Nat) (c' : Nat) : (s.forgetCore c).core c' = s.core c' := rfl
@[simp] theorem die_forgetCore (s : State) (c : Nat) (d' : Nat) : (s.forgetCore c).die d' = s.die d' := rfl
@[simp] theorem ctx_forgetCore (s : State) (c : Nat) (x' : Nat) : (s.forgetCore c).ctx x' = s.ctx x' := rfl
@[simp] theorem ste_forgetCore (s : State) (c : Nat) (k' : Nat) : (s.forgetCore c).ste k' = s.ste k' := rfl

end State

/-! ## Scalar and predicate registers (R90, R91, R199) -/

namespace Stream

@[simp] theorem putS_run (t : Stream) (n : BitVec 5) (v : Word) : (t.putS n v).run = t.run := by
  unfold putS; repeat' split
  all_goals rfl
@[simp] theorem putS_runBefore (t : Stream) (n : BitVec 5) (v : Word) : (t.putS n v).runBefore = t.runBefore := by
  unfold putS; repeat' split
  all_goals rfl
@[simp] theorem putS_pc (t : Stream) (n : BitVec 5) (v : Word) : (t.putS n v).pc = t.pc := by
  unfold putS; repeat' split
  all_goals rfl
@[simp] theorem putS_p (t : Stream) (n : BitVec 5) (v : Word) : (t.putS n v).p = t.p := by
  unfold putS; repeat' split
  all_goals rfl
@[simp] theorem putS_i (t : Stream) (n : BitVec 5) (v : Word) : (t.putS n v).i = t.i := by
  unfold putS; repeat' split
  all_goals rfl
@[simp] theorem putS_lc (t : Stream) (n : BitVec 5) (v : Word) : (t.putS n v).lc = t.lc := by
  unfold putS; repeat' split
  all_goals rfl
@[simp] theorem putS_lb (t : Stream) (n : BitVec 5) (v : Word) : (t.putS n v).lb = t.lb := by
  unfold putS; repeat' split
  all_goals rfl
@[simp] theorem putS_h (t : Stream) (n : BitVec 5) (v : Word) : (t.putS n v).h = t.h := by
  unfold putS; repeat' split
  all_goals rfl
@[simp] theorem putS_x (t : Stream) (n : BitVec 5) (v : Word) : (t.putS n v).x = t.x := by
  unfold putS; repeat' split
  all_goals rfl
@[simp] theorem putS_v (t : Stream) (n : BitVec 5) (v : Word) : (t.putS n v).v = t.v := by
  unfold putS; repeat' split
  all_goals rfl
@[simp] theorem putS_t (t : Stream) (n : BitVec 5) (v : Word) : (t.putS n v).t = t.t := by
  unfold putS; repeat' split
  all_goals rfl
@[simp] theorem putS_c (t : Stream) (n : BitVec 5) (v : Word) : (t.putS n v).c = t.c := by
  unfold putS; repeat' split
  all_goals rfl
@[simp] theorem putS_k (t : Stream) (n : BitVec 5) (v : Word) : (t.putS n v).k = t.k := by
  unfold putS; repeat' split
  all_goals rfl
@[simp] theorem putS_srseed (t : Stream) (n : BitVec 5) (v : Word) : (t.putS n v).srseed = t.srseed := by
  unfold putS; repeat' split
  all_goals rfl
@[simp] theorem putS_nftrap (t : Stream) (n : BitVec 5) (v : Word) : (t.putS n v).nftrap = t.nftrap := by
  unfold putS; repeat' split
  all_goals rfl
@[simp] theorem putS_fewait (t : Stream) (n : BitVec 5) (v : Word) : (t.putS n v).fewait = t.fewait := by
  unfold putS; repeat' split
  all_goals rfl
@[simp] theorem putS_epc (t : Stream) (n : BitVec 5) (v : Word) : (t.putS n v).epc = t.epc := by
  unfold putS; repeat' split
  all_goals rfl
@[simp] theorem putS_ecause (t : Stream) (n : BitVec 5) (v : Word) : (t.putS n v).ecause = t.ecause := by
  unfold putS; repeat' split
  all_goals rfl
@[simp] theorem putS_eaddr (t : Stream) (n : BitVec 5) (v : Word) : (t.putS n v).eaddr = t.eaddr := by
  unfold putS; repeat' split
  all_goals rfl
@[simp] theorem putS_trapbase (t : Stream) (n : BitVec 5) (v : Word) : (t.putS n v).trapbase = t.trapbase := by
  unfold putS; repeat' split
  all_goals rfl
@[simp] theorem putS_tdead (t : Stream) (n : BitVec 5) (v : Word) : (t.putS n v).tdead = t.tdead := by
  unfold putS; repeat' split
  all_goals rfl
@[simp] theorem putS_bp (t : Stream) (n : BitVec 5) (v : Word) : (t.putS n v).bp = t.bp := by
  unfold putS; repeat' split
  all_goals rfl
@[simp] theorem putS_level (t : Stream) (n : BitVec 5) (v : Word) : (t.putS n v).level = t.level := by
  unfold putS; repeat' split
  all_goals rfl
@[simp] theorem putS_step (t : Stream) (n : BitVec 5) (v : Word) : (t.putS n v).step = t.step := by
  unfold putS; repeat' split
  all_goals rfl
@[simp] theorem putS_skip (t : Stream) (n : BitVec 5) (v : Word) : (t.putS n v).skip = t.skip := by
  unfold putS; repeat' split
  all_goals rfl
@[simp] theorem putS_pend (t : Stream) (n : BitVec 5) (v : Word) : (t.putS n v).pend = t.pend := by
  unfold putS; repeat' split
  all_goals rfl
@[simp] theorem putS_hval (t : Stream) (n : BitVec 5) (v : Word) : (t.putS n v).hval = t.hval := by
  unfold putS; repeat' split
  all_goals rfl
@[simp] theorem putS_hostQueue (t : Stream) (n : BitVec 5) (v : Word) : (t.putS n v).hostQueue = t.hostQueue := by
  unfold putS; repeat' split
  all_goals rfl
@[simp] theorem putS_faultMark (t : Stream) (n : BitVec 5) (v : Word) : (t.putS n v).faultMark = t.faultMark := by
  unfold putS; repeat' split
  all_goals rfl
@[simp] theorem putS_brokenGroup (t : Stream) (n : BitVec 5) (v : Word) : (t.putS n v).brokenGroup = t.brokenGroup := by
  unfold putS; repeat' split
  all_goals rfl
@[simp] theorem putS_meshBefore (t : Stream) (n : BitVec 5) (v : Word) : (t.putS n v).meshBefore = t.meshBefore := by
  unfold putS; repeat' split
  all_goals rfl
@[simp] theorem putS_n (t : Stream) (n : BitVec 5) (v : Word) : (t.putS n v).n = t.n := by
  unfold putS; repeat' split
  all_goals rfl
@[simp] theorem putS_m (t : Stream) (n : BitVec 5) (v : Word) : (t.putS n v).m = t.m := by
  unfold putS; repeat' split
  all_goals rfl
@[simp] theorem putS_wait (t : Stream) (n : BitVec 5) (v : Word) : (t.putS n v).wait = t.wait := by
  unfold putS; repeat' split
  all_goals rfl
@[simp] theorem putS_task (t : Stream) (n : BitVec 5) (v : Word) : (t.putS n v).task = t.task := by
  unfold putS; repeat' split
  all_goals rfl
@[simp] theorem putS_groups (t : Stream) (n : BitVec 5) (v : Word) : (t.putS n v).groups = t.groups := by
  unfold putS; repeat' split
  all_goals rfl
@[simp] theorem putS_trb (t : Stream) (n : BitVec 5) (v : Word) : (t.putS n v).trb = t.trb := by
  unfold putS; repeat' split
  all_goals rfl
@[simp] theorem putS_storeQ (t : Stream) (n : BitVec 5) (v : Word) : (t.putS n v).storeQ = t.storeQ := by
  unfold putS; repeat' split
  all_goals rfl
@[simp] theorem putS_pending (t : Stream) (n : BitVec 5) (v : Word) : (t.putS n v).pending = t.pending := by
  unfold putS; repeat' split
  all_goals rfl
@[simp] theorem putS_seqNext (t : Stream) (n : BitVec 5) (v : Word) : (t.putS n v).seqNext = t.seqNext := by
  unfold putS; repeat' split
  all_goals rfl
@[simp] theorem putS_fresh (t : Stream) (n : BitVec 5) (v : Word) : (t.putS n v).fresh = t.fresh := by
  unfold putS; repeat' split
  all_goals rfl
@[simp] theorem writeS_run (t : Stream) (n : BitVec 5) (v : Word) : (t.writeS n v).run = t.run := putS_run t n v
@[simp] theorem writeS_runBefore (t : Stream) (n : BitVec 5) (v : Word) : (t.writeS n v).runBefore = t.runBefore := putS_runBefore t n v
@[simp] theorem writeS_pc (t : Stream) (n : BitVec 5) (v : Word) : (t.writeS n v).pc = t.pc := putS_pc t n v
@[simp] theorem writeS_p (t : Stream) (n : BitVec 5) (v : Word) : (t.writeS n v).p = t.p := putS_p t n v
@[simp] theorem writeS_i (t : Stream) (n : BitVec 5) (v : Word) : (t.writeS n v).i = t.i := putS_i t n v
@[simp] theorem writeS_lc (t : Stream) (n : BitVec 5) (v : Word) : (t.writeS n v).lc = t.lc := putS_lc t n v
@[simp] theorem writeS_lb (t : Stream) (n : BitVec 5) (v : Word) : (t.writeS n v).lb = t.lb := putS_lb t n v
@[simp] theorem writeS_h (t : Stream) (n : BitVec 5) (v : Word) : (t.writeS n v).h = t.h := putS_h t n v
@[simp] theorem writeS_x (t : Stream) (n : BitVec 5) (v : Word) : (t.writeS n v).x = t.x := putS_x t n v
@[simp] theorem writeS_v (t : Stream) (n : BitVec 5) (v : Word) : (t.writeS n v).v = t.v := putS_v t n v
@[simp] theorem writeS_t (t : Stream) (n : BitVec 5) (v : Word) : (t.writeS n v).t = t.t := putS_t t n v
@[simp] theorem writeS_c (t : Stream) (n : BitVec 5) (v : Word) : (t.writeS n v).c = t.c := putS_c t n v
@[simp] theorem writeS_k (t : Stream) (n : BitVec 5) (v : Word) : (t.writeS n v).k = t.k := putS_k t n v
@[simp] theorem writeS_srseed (t : Stream) (n : BitVec 5) (v : Word) : (t.writeS n v).srseed = t.srseed := putS_srseed t n v
@[simp] theorem writeS_nftrap (t : Stream) (n : BitVec 5) (v : Word) : (t.writeS n v).nftrap = t.nftrap := putS_nftrap t n v
@[simp] theorem writeS_fewait (t : Stream) (n : BitVec 5) (v : Word) : (t.writeS n v).fewait = t.fewait := putS_fewait t n v
@[simp] theorem writeS_epc (t : Stream) (n : BitVec 5) (v : Word) : (t.writeS n v).epc = t.epc := putS_epc t n v
@[simp] theorem writeS_ecause (t : Stream) (n : BitVec 5) (v : Word) : (t.writeS n v).ecause = t.ecause := putS_ecause t n v
@[simp] theorem writeS_eaddr (t : Stream) (n : BitVec 5) (v : Word) : (t.writeS n v).eaddr = t.eaddr := putS_eaddr t n v
@[simp] theorem writeS_trapbase (t : Stream) (n : BitVec 5) (v : Word) : (t.writeS n v).trapbase = t.trapbase := putS_trapbase t n v
@[simp] theorem writeS_tdead (t : Stream) (n : BitVec 5) (v : Word) : (t.writeS n v).tdead = t.tdead := putS_tdead t n v
@[simp] theorem writeS_bp (t : Stream) (n : BitVec 5) (v : Word) : (t.writeS n v).bp = t.bp := putS_bp t n v
@[simp] theorem writeS_level (t : Stream) (n : BitVec 5) (v : Word) : (t.writeS n v).level = t.level := putS_level t n v
@[simp] theorem writeS_step (t : Stream) (n : BitVec 5) (v : Word) : (t.writeS n v).step = t.step := putS_step t n v
@[simp] theorem writeS_skip (t : Stream) (n : BitVec 5) (v : Word) : (t.writeS n v).skip = t.skip := putS_skip t n v
@[simp] theorem writeS_pend (t : Stream) (n : BitVec 5) (v : Word) : (t.writeS n v).pend = t.pend := putS_pend t n v
@[simp] theorem writeS_hval (t : Stream) (n : BitVec 5) (v : Word) : (t.writeS n v).hval = t.hval := putS_hval t n v
@[simp] theorem writeS_hostQueue (t : Stream) (n : BitVec 5) (v : Word) : (t.writeS n v).hostQueue = t.hostQueue := putS_hostQueue t n v
@[simp] theorem writeS_faultMark (t : Stream) (n : BitVec 5) (v : Word) : (t.writeS n v).faultMark = t.faultMark := putS_faultMark t n v
@[simp] theorem writeS_brokenGroup (t : Stream) (n : BitVec 5) (v : Word) : (t.writeS n v).brokenGroup = t.brokenGroup := putS_brokenGroup t n v
@[simp] theorem writeS_meshBefore (t : Stream) (n : BitVec 5) (v : Word) : (t.writeS n v).meshBefore = t.meshBefore := putS_meshBefore t n v
@[simp] theorem writeS_n (t : Stream) (n : BitVec 5) (v : Word) : (t.writeS n v).n = t.n := putS_n t n v
@[simp] theorem writeS_m (t : Stream) (n : BitVec 5) (v : Word) : (t.writeS n v).m = t.m := putS_m t n v
@[simp] theorem writeS_wait (t : Stream) (n : BitVec 5) (v : Word) : (t.writeS n v).wait = t.wait := putS_wait t n v
@[simp] theorem writeS_task (t : Stream) (n : BitVec 5) (v : Word) : (t.writeS n v).task = t.task := putS_task t n v
@[simp] theorem writeS_groups (t : Stream) (n : BitVec 5) (v : Word) : (t.writeS n v).groups = t.groups := putS_groups t n v
@[simp] theorem writeS_trb (t : Stream) (n : BitVec 5) (v : Word) : (t.writeS n v).trb = t.trb := putS_trb t n v
@[simp] theorem writeS_storeQ (t : Stream) (n : BitVec 5) (v : Word) : (t.writeS n v).storeQ = t.storeQ := putS_storeQ t n v
@[simp] theorem writeS_seqNext (t : Stream) (n : BitVec 5) (v : Word) : (t.writeS n v).seqNext = t.seqNext := putS_seqNext t n v
@[simp] theorem writeS_fresh (t : Stream) (n : BitVec 5) (v : Word) : (t.writeS n v).fresh = t.fresh := putS_fresh t n v
@[simp] theorem writeP_run (t : Stream) (n : BitVec 3) (b : Bool) : (t.writeP n b).run = t.run := by
  unfold writeP; split <;> rfl
@[simp] theorem writeP_runBefore (t : Stream) (n : BitVec 3) (b : Bool) : (t.writeP n b).runBefore = t.runBefore := by
  unfold writeP; split <;> rfl
@[simp] theorem writeP_pc (t : Stream) (n : BitVec 3) (b : Bool) : (t.writeP n b).pc = t.pc := by
  unfold writeP; split <;> rfl
@[simp] theorem writeP_s (t : Stream) (n : BitVec 3) (b : Bool) : (t.writeP n b).s = t.s := by
  unfold writeP; split <;> rfl
@[simp] theorem writeP_i (t : Stream) (n : BitVec 3) (b : Bool) : (t.writeP n b).i = t.i := by
  unfold writeP; split <;> rfl
@[simp] theorem writeP_lc (t : Stream) (n : BitVec 3) (b : Bool) : (t.writeP n b).lc = t.lc := by
  unfold writeP; split <;> rfl
@[simp] theorem writeP_lb (t : Stream) (n : BitVec 3) (b : Bool) : (t.writeP n b).lb = t.lb := by
  unfold writeP; split <;> rfl
@[simp] theorem writeP_h (t : Stream) (n : BitVec 3) (b : Bool) : (t.writeP n b).h = t.h := by
  unfold writeP; split <;> rfl
@[simp] theorem writeP_x (t : Stream) (n : BitVec 3) (b : Bool) : (t.writeP n b).x = t.x := by
  unfold writeP; split <;> rfl
@[simp] theorem writeP_v (t : Stream) (n : BitVec 3) (b : Bool) : (t.writeP n b).v = t.v := by
  unfold writeP; split <;> rfl
@[simp] theorem writeP_t (t : Stream) (n : BitVec 3) (b : Bool) : (t.writeP n b).t = t.t := by
  unfold writeP; split <;> rfl
@[simp] theorem writeP_c (t : Stream) (n : BitVec 3) (b : Bool) : (t.writeP n b).c = t.c := by
  unfold writeP; split <;> rfl
@[simp] theorem writeP_k (t : Stream) (n : BitVec 3) (b : Bool) : (t.writeP n b).k = t.k := by
  unfold writeP; split <;> rfl
@[simp] theorem writeP_srseed (t : Stream) (n : BitVec 3) (b : Bool) : (t.writeP n b).srseed = t.srseed := by
  unfold writeP; split <;> rfl
@[simp] theorem writeP_nftrap (t : Stream) (n : BitVec 3) (b : Bool) : (t.writeP n b).nftrap = t.nftrap := by
  unfold writeP; split <;> rfl
@[simp] theorem writeP_fewait (t : Stream) (n : BitVec 3) (b : Bool) : (t.writeP n b).fewait = t.fewait := by
  unfold writeP; split <;> rfl
@[simp] theorem writeP_epc (t : Stream) (n : BitVec 3) (b : Bool) : (t.writeP n b).epc = t.epc := by
  unfold writeP; split <;> rfl
@[simp] theorem writeP_ecause (t : Stream) (n : BitVec 3) (b : Bool) : (t.writeP n b).ecause = t.ecause := by
  unfold writeP; split <;> rfl
@[simp] theorem writeP_eaddr (t : Stream) (n : BitVec 3) (b : Bool) : (t.writeP n b).eaddr = t.eaddr := by
  unfold writeP; split <;> rfl
@[simp] theorem writeP_trapbase (t : Stream) (n : BitVec 3) (b : Bool) : (t.writeP n b).trapbase = t.trapbase := by
  unfold writeP; split <;> rfl
@[simp] theorem writeP_tdead (t : Stream) (n : BitVec 3) (b : Bool) : (t.writeP n b).tdead = t.tdead := by
  unfold writeP; split <;> rfl
@[simp] theorem writeP_bp (t : Stream) (n : BitVec 3) (b : Bool) : (t.writeP n b).bp = t.bp := by
  unfold writeP; split <;> rfl
@[simp] theorem writeP_level (t : Stream) (n : BitVec 3) (b : Bool) : (t.writeP n b).level = t.level := by
  unfold writeP; split <;> rfl
@[simp] theorem writeP_step (t : Stream) (n : BitVec 3) (b : Bool) : (t.writeP n b).step = t.step := by
  unfold writeP; split <;> rfl
@[simp] theorem writeP_skip (t : Stream) (n : BitVec 3) (b : Bool) : (t.writeP n b).skip = t.skip := by
  unfold writeP; split <;> rfl
@[simp] theorem writeP_pend (t : Stream) (n : BitVec 3) (b : Bool) : (t.writeP n b).pend = t.pend := by
  unfold writeP; split <;> rfl
@[simp] theorem writeP_hval (t : Stream) (n : BitVec 3) (b : Bool) : (t.writeP n b).hval = t.hval := by
  unfold writeP; split <;> rfl
@[simp] theorem writeP_hostQueue (t : Stream) (n : BitVec 3) (b : Bool) : (t.writeP n b).hostQueue = t.hostQueue := by
  unfold writeP; split <;> rfl
@[simp] theorem writeP_sb28 (t : Stream) (n : BitVec 3) (b : Bool) : (t.writeP n b).sb28 = t.sb28 := by
  unfold writeP; split <;> rfl
@[simp] theorem writeP_sb29 (t : Stream) (n : BitVec 3) (b : Bool) : (t.writeP n b).sb29 = t.sb29 := by
  unfold writeP; split <;> rfl
@[simp] theorem writeP_faultMark (t : Stream) (n : BitVec 3) (b : Bool) : (t.writeP n b).faultMark = t.faultMark := by
  unfold writeP; split <;> rfl
@[simp] theorem writeP_brokenGroup (t : Stream) (n : BitVec 3) (b : Bool) : (t.writeP n b).brokenGroup = t.brokenGroup := by
  unfold writeP; split <;> rfl
@[simp] theorem writeP_meshBefore (t : Stream) (n : BitVec 3) (b : Bool) : (t.writeP n b).meshBefore = t.meshBefore := by
  unfold writeP; split <;> rfl
@[simp] theorem writeP_n (t : Stream) (n : BitVec 3) (b : Bool) : (t.writeP n b).n = t.n := by
  unfold writeP; split <;> rfl
@[simp] theorem writeP_m (t : Stream) (n : BitVec 3) (b : Bool) : (t.writeP n b).m = t.m := by
  unfold writeP; split <;> rfl
@[simp] theorem writeP_wait (t : Stream) (n : BitVec 3) (b : Bool) : (t.writeP n b).wait = t.wait := by
  unfold writeP; split <;> rfl
@[simp] theorem writeP_task (t : Stream) (n : BitVec 3) (b : Bool) : (t.writeP n b).task = t.task := by
  unfold writeP; split <;> rfl
@[simp] theorem writeP_groups (t : Stream) (n : BitVec 3) (b : Bool) : (t.writeP n b).groups = t.groups := by
  unfold writeP; split <;> rfl
@[simp] theorem writeP_trb (t : Stream) (n : BitVec 3) (b : Bool) : (t.writeP n b).trb = t.trb := by
  unfold writeP; split <;> rfl
@[simp] theorem writeP_storeQ (t : Stream) (n : BitVec 3) (b : Bool) : (t.writeP n b).storeQ = t.storeQ := by
  unfold writeP; split <;> rfl
@[simp] theorem writeP_pending (t : Stream) (n : BitVec 3) (b : Bool) : (t.writeP n b).pending = t.pending := by
  unfold writeP; split <;> rfl
@[simp] theorem writeP_seqNext (t : Stream) (n : BitVec 3) (b : Bool) : (t.writeP n b).seqNext = t.seqNext := by
  unfold writeP; split <;> rfl
@[simp] theorem writeP_fresh (t : Stream) (n : BitVec 3) (b : Bool) : (t.writeP n b).fresh = t.fresh := by
  unfold writeP; split <;> rfl

/-- `S0` reads 0. -/
@[simp] theorem readS_zero (t : Stream) : t.readS 0#5 = 0 := by simp [readS]
/-- `P0` is true. -/
@[simp] theorem readP_zero (t : Stream) : t.readP 0#3 = true := by simp [readP]
/-- A write to `S0` stores nothing. -/
@[simp] theorem putS_zero (t : Stream) (v : Word) : t.putS 0#5 v = t := by simp [putS]
@[simp] theorem writeP_zero (t : Stream) (b : Bool) : t.writeP 0#3 b = t := by simp [writeP]

/-- Reading a scalar register after a write. -/
theorem readS_putS (t : Stream) (n m : BitVec 5) (v : Word) :
    (t.putS n v).readS m = if m = n ∧ n ≠ 0#5 then v else t.readS m := by
  have hn := n.isLt
  have hm := m.isLt
  have key : m ≠ n → ¬ n.toNat = m.toNat := fun h e => h (BitVec.eq_of_toNat_eq e.symm)
  by_cases h0 : m = 0#5
  · subst h0; by_cases h1 : n = 0#5 <;> simp_all [readS]
    intro h; exact absurd h.symm h1
  · by_cases hn0 : n = 0#5
    · subst hn0; simp
    · by_cases hl : t.level = true
      · by_cases a : n = 28#5
        · subst a
          by_cases b : m = 28#5
          · subst b; simp [readS, putS, hl]
          · by_cases c : m = 29#5 <;> simp [readS, putS, hl, b, c, h0]
        · by_cases a2 : n = 29#5
          · subst a2
            by_cases b : m = 28#5
            · subst b; simp [readS, putS, hl]
            · by_cases c : m = 29#5 <;> simp [readS, putS, hl, b, c, h0]
          · by_cases e : m = n
            · subst e; simp [readS, putS, hl, a, a2, h0]
            · have k := key e
              simp only [readS, putS, hl, hn0, h0, a, a2, e, beq_iff_eq, Bool.true_and, if_false, false_and]
              simp only [Vector.getElem_set, k, if_false]
      · by_cases e : m = n
        · subst e; simp [readS, putS, hl, h0]
        · have k := key e
          simp [readS, putS, hl, hn0, h0, e, k]

@[simp] theorem readS_writeS_same (t : Stream) {n : BitVec 5} (v : Word) (h : n ≠ 0#5) :
    (t.writeS n v).readS n = v := by
  have : (t.writeS n v).readS n = (t.putS n v).readS n := rfl
  rw [this, readS_putS]; simp [h]
theorem readS_writeS_ne (t : Stream) {n m : BitVec 5} (v : Word) (h : m ≠ n) :
    (t.writeS n v).readS m = t.readS m := by
  have : (t.writeS n v).readS m = (t.putS n v).readS m := rfl
  rw [this, readS_putS]; simp [h]

theorem readP_writeP (t : Stream) (n m : BitVec 3) (b : Bool) :
    (t.writeP n b).readP m = if m = n ∧ n ≠ 0#3 then b else t.readP m := by
  have hn := n.isLt
  have hm := m.isLt
  by_cases h0 : m = 0#3
  · subst h0; simp only [readP_zero]
    by_cases h1 : n = 0#3
    · simp [h1]
    · simp [Ne.symm h1]
  · by_cases hn0 : n = 0#3
    · subst hn0; simp
    · by_cases e : m = n
      · subst e; simp [readP, writeP, h0]
      · have k : ¬ n.toNat = m.toNat := fun h => e (BitVec.eq_of_toNat_eq h.symm)
        simp [readP, writeP, h0, hn0, e, k]

@[simp] theorem readP_writeS (t : Stream) (n : BitVec 5) (v : Word) (m : BitVec 3) :
    (t.writeS n v).readP m = t.readP m := by simp [readP]
@[simp] theorem readS_writeP (t : Stream) (n : BitVec 3) (b : Bool) (m : BitVec 5) :
    (t.writeP n b).readS m = t.readS m := by simp [readS]

/-! ## Loop pairs (R92, R116) -/

@[simp] theorem endsAt_writeS (t : Stream) (n : BitVec 5) (v : Word) (k : BitVec 2) (a : Word) :
    (t.writeS n v).endsAt k a = t.endsAt k a := by simp [endsAt, loopEnd, lbStart, lbLen]
@[simp] theorem endsAt_writeP (t : Stream) (n : BitVec 3) (b : Bool) (k : BitVec 2) (a : Word) :
    (t.writeP n b).endsAt k a = t.endsAt k a := by simp [endsAt, loopEnd, lbStart, lbLen]

/-- Where no pair ends at the address, the end check changes nothing. -/
theorem endCheckFrom_of_none (t : Stream) (a : Word) (h : ∀ n, t.endsAt n a = false) (k : Nat) :
    t.endCheckFrom a k = (t, a) := by
  induction k with
  | zero => rfl
  | succ k ih => simp [endCheckFrom, h, ih]
theorem endCheck_of_none (t : Stream) (a : Word) (h : ∀ n, t.endsAt n a = false) : t.endCheck a = (t, a) :=
  endCheckFrom_of_none t a h 4

end Stream

end Machine

end Sys2Proof
end

