-- ==== Sys2Proof/Laws/Memory.lean ====
section
/-! SUPPORT. The memory: what a store reads back as, and that every operation on it keeps its canonical form. -/

namespace Sys2Proof.Machine

namespace Memory

@[simp] theorem get_nil (a : Nat) : get [] a = 0 := rfl

theorem wfFrom_cons (o : Option Nat) (a : Nat) (b : Byte) (l : List Host.Cell) :
    wfFrom o ((a, b) :: l) = true ↔ (∀ k, o = some k → k < a) ∧ b ≠ 0 ∧ wfFrom (some a) l = true := by
  cases o <;> simp [wfFrom, and_assoc]

/-- A list that is canonical above one address is canonical above a lower one, and above none. -/
theorem wfFrom_weaken {o o' : Option Nat} {l : List Host.Cell} (h : wfFrom o l = true)
    (hle : ∀ k, o' = some k → ∃ j, o = some j ∧ k ≤ j) : wfFrom o' l = true := by
  match l with
  | [] => rfl
  | (a, b) :: l =>
    rw [wfFrom_cons] at h ⊢
    refine ⟨fun k hk => ?_, h.2⟩
    obtain ⟨j, hj, hkj⟩ := hle k hk
    exact Nat.lt_of_le_of_lt hkj (h.1 j hj)

theorem wfFrom_none {o : Option Nat} {l : List Host.Cell} (h : wfFrom o l = true) : wf l = true :=
  wfFrom_weaken h (by simp)

/-- Above the least address of a canonical list nothing lower is listed. -/
theorem get_below {l : List Host.Cell} {a k : Nat} (h : wfFrom (some k) l = true) (hle : a ≤ k) : get l a = 0 := by
  match l with
  | [] => rfl
  | (x, b) :: l =>
    rw [wfFrom_cons] at h
    have := h.1 k rfl
    simp only [get]
    rw [if_neg (by omega), if_pos (by omega)]

theorem wfFrom_put {o : Option Nat} {l : List Host.Cell} {a : Nat} {b : Byte} (h : wfFrom o l = true)
    (hlo : ∀ k, o = some k → k < a) : wfFrom o (put l a b) = true := by
  induction l generalizing o with
  | nil =>
    rw [put]
    split
    · rfl
    · exact (wfFrom_cons _ _ _ _).2 ⟨hlo, ‹_›, rfl⟩
  | cons e l ih =>
    obtain ⟨x, c⟩ := e
    have hw := (wfFrom_cons _ _ _ _).1 h
    simp only [put]
    split
    · rename_i he; subst he
      split
      · exact wfFrom_weaken hw.2.2 fun k hk => ⟨_, rfl, Nat.le_of_lt (hw.1 k hk)⟩
      · exact (wfFrom_cons _ _ _ _).2 ⟨hw.1, ‹_›, hw.2.2⟩
    · split
      · split
        · exact h
        · refine (wfFrom_cons _ _ _ _).2 ⟨hlo, ‹_›, (wfFrom_cons _ _ _ _).2 ⟨?_, hw.2⟩⟩
          rintro k ⟨⟩; assumption
      · refine (wfFrom_cons _ _ _ _).2 ⟨hw.1, hw.2.1, ih hw.2.2 ?_⟩
        rintro k ⟨⟩; omega

/-- Storing a byte keeps the canonical form. -/
theorem wf_put {l : List Host.Cell} (h : wf l = true) (a : Nat) (b : Byte) : wf (put l a b) = true :=
  wfFrom_put h (by simp)

theorem wfFrom_filter {o : Option Nat} {l : List Host.Cell} (f : Host.Cell → Bool) (h : wfFrom o l = true) :
    wfFrom o (l.filter f) = true := by
  induction l generalizing o with
  | nil => rfl
  | cons e l ih =>
    obtain ⟨x, c⟩ := e
    have hw := (wfFrom_cons _ _ _ _).1 h
    rw [List.filter_cons]
    split
    · exact (wfFrom_cons _ _ _ _).2 ⟨hw.1, hw.2.1, ih hw.2.2⟩
    · exact wfFrom_weaken (ih hw.2.2) fun k hk => ⟨_, rfl, Nat.le_of_lt (hw.1 k hk)⟩

/-- Dropping entries keeps the canonical form. -/
theorem wf_filter {l : List Host.Cell} (f : Host.Cell → Bool) (h : wf l = true) : wf (l.filter f) = true :=
  wfFrom_filter f h

theorem wf_clear {l : List Host.Cell} (h : wf l = true) (lo n : Nat) : wf (clear l lo n) = true := wf_filter _ h

/-- What keeps the canonical form once keeps it over a list. -/
theorem wf_foldl {α : Type} (f : List Host.Cell → α → List Host.Cell) (hf : ∀ l x, wf l = true → wf (f l x) = true) :
    ∀ (xs : List α) (l : List Host.Cell), wf l = true → wf (xs.foldl f l) = true
  | [], _, h => h
  | x :: xs, l, h => wf_foldl f hf xs (f l x) (hf l x h)

/-- Storing a list of bytes keeps the canonical form. -/
theorem wf_puts {α : Type} (key : α → Nat) (val : α → Byte) (xs : List α) {l : List Host.Cell} (h : wf l = true) :
    wf (xs.foldl (fun m e => put m (key e) (val e)) l) = true :=
  wf_foldl _ (fun _ _ hl => wf_put hl _ _) xs l h

theorem get_put_from {o : Option Nat} {l : List Host.Cell} (h : wfFrom o l = true) (a : Nat) (b : Byte) (x : Nat) :
    get (put l a b) x = if x = a then b else get l x := by
  induction l generalizing o with
  | nil =>
    rw [put]
    split
    · rename_i hb; subst hb; simp
    · by_cases hx : x = a
      · subst hx; simp [get]
      · simp [get, hx, Ne.symm hx]
  | cons e l ih =>
    obtain ⟨y, c⟩ := e
    have hw := (wfFrom_cons _ _ _ _).1 h
    have hb0 := fun (z : Nat) (hz : z ≤ y) => get_below hw.2.2 hz
    simp only [put]
    split
    · rename_i he; subst he
      split
      · rename_i hb; subst hb
        by_cases hx : x = y
        · simp [hx, hb0 y (Nat.le_refl y)]
        · simp only [hx, if_false, get, Ne.symm hx]
          split
          · exact hb0 x (by omega)
          · rfl
      · by_cases hx : x = y
        · simp [get, hx]
        · simp [get, hx, Ne.symm hx]
    · split
      · split
        · rename_i hb; subst hb
          by_cases hx : x = a
          · subst hx; simp only [get, if_true]; rw [if_neg (by omega), if_pos (by omega)]
          · simp [hx]
        · by_cases hx : x = a
          · simp [get, hx]
          · simp only [get, hx, Ne.symm hx, if_false]
            by_cases hy : y = x
            · subst hy; simp; omega
            · simp only [hy, if_false]
              repeat' split
              all_goals first | rfl | omega
      · rw [get, ih hw.2.2]
        by_cases hx : x = a
        · subst hx; simp only [if_true]; rw [if_neg (by omega), if_neg (by omega)]
        · simp [hx, get]

/-- Reading back a store: the byte stored at its address, every other byte as before. -/
theorem get_put {l : List Host.Cell} (h : wf l = true) (a : Nat) (b : Byte) (x : Nat) :
    get (put l a b) x = if x = a then b else get l x := get_put_from h a b x

end Memory

namespace State

/-- An update that leaves the cells alone keeps the canonical form. -/
theorem memWf_of_cells {s t : State} (h : s.memWf) (e : t.cells = s.cells) : t.memWf := by rw [memWf, e]; exact h

/-- What keeps the canonical form once keeps it over a list. -/
theorem memWf_foldl {α : Type} (f : State → α → State) (hf : ∀ s x, s.memWf → (f s x).memWf) :
    ∀ (xs : List α) (s : State), s.memWf → (xs.foldl f s).memWf
  | [], _, h => h
  | x :: xs, s, h => memWf_foldl f hf xs (f s x) (hf s x h)

theorem memWf_putByte {s : State} (h : s.memWf) (p : Nat) (b : Byte) : (s.putByte p b).memWf := Memory.wf_put h _ _

theorem memWf_putBytes (l : List (Nat × Byte)) : ∀ {s : State}, s.memWf → (s.putBytes l).memWf := by
  induction l with
  | nil => intro s h; exact h
  | cons e l ih => intro s h; exact ih (memWf_putByte h e.1 e.2)

@[simp] theorem markDirty_cells (s : State) (p : Nat) : (s.markDirty p).cells = s.cells := by
  unfold markDirty; split
  · dsimp only; split <;> rfl
  · rfl

/-- Merging a write at its home keeps the canonical form. -/
theorem memWf_merge {s : State} (h : s.memWf) (w : BitVec 12) (l : List (Nat × Byte)) : (s.merge w l).memWf :=
  memWf_foldl _ (fun _ _ ht => memWf_of_cells ht (by simp)) _ _ (memWf_putBytes l h)

/-- A page written back or brought in keeps the canonical form. -/
theorem memWf_copyLines (keys : List (Nat × Nat)) : ∀ {s : State}, s.memWf → (s.copyLines keys).memWf := by
  induction keys with
  | nil => intro s h; exact h
  | cons e l ih =>
    intro s h
    unfold copyLines
    rw [List.foldl_cons]
    refine ih ?_
    simp only [memWf]
    exact Memory.wf_puts Prod.fst Prod.snd _ h

/-- What leaves the cells alone once leaves them alone over a list. -/
theorem cells_foldl {α : Type} (f : State → α → State) (hf : ∀ s x, (f s x).cells = s.cells) :
    ∀ (xs : List α) (s : State), (xs.foldl f s).cells = s.cells
  | [], _ => rfl
  | x :: xs, s => (cells_foldl f hf xs (f s x)).trans (hf s x)

/-! ### The ways of L2 and the order of scratchpad pages hold no bytes -/

@[simp] theorem charge_cells (s : State) (x : Option Nat) (k n : Nat) : (s.charge x k n).cells = s.cells := by
  unfold charge; split
  · rfl
  · dsimp only; split <;> rfl

@[simp] theorem toHostBulk_cells (s : State) (m : HostData) : (s.toHostBulk m).cells = s.cells := rfl
@[simp] theorem toHostBare_cells (s : State) : s.toHostBare.cells = s.cells := rfl
@[simp] theorem setLines_cells (s : State) (k line : Nat) (l : List L2Line) : (s.setLines k line l).cells = s.cells := rfl

@[simp] theorem replaceLine_cells (s : State) (x : Option Nat) (k : Nat) (e : L2Line) :
    (s.replaceLine x k e).cells = s.cells := by
  unfold replaceLine; dsimp only
  repeat' split
  all_goals first | rfl | exact charge_cells _ _ _ _

@[simp] theorem useLine_cells (s : State) (x : Option Nat) (k line : Nat) (w : Bool) :
    (s.useLine x k line w).cells = s.cells := by
  unfold useLine; dsimp only
  repeat' split
  all_goals first | rfl | simp

@[simp] theorem useHomes_cells (s : State) (x : Option Nat) (l : List Nat) (w : Bool) :
    (s.useHomes x l w).cells = s.cells := cells_foldl _ (fun _ _ => useLine_cells _ _ _ _ _) _ _

@[simp] theorem lockInWay_cells (s : State) (x : Option Nat) (line w : Nat) :
    (s.lockInWay x line w).cells = s.cells := by
  unfold lockInWay; dsimp only
  repeat' split
  all_goals simp

@[simp] theorem lockEntry_cells (s : State) (a : Nat) : (s.lockEntry a).cells = s.cells :=
  cells_foldl _ (fun t o => by split
                               · rfl
                               · dsimp only; split <;> simp) _ _

@[simp] theorem unlockEntry_cells (s : State) (a : Nat) : (s.unlockEntry a).cells = s.cells := rfl

@[simp] theorem usePageLines_cells (s : State) (c p : Nat) (w : Bool) : (s.usePageLines c p w).cells = s.cells :=
  useHomes_cells _ _ _ _

/-! ### Scratchpad pages -/

theorem memWf_evictPage {s : State} (h : s.memWf) (c p : Nat) : (s.evictPage c p).memWf := by
  unfold evictPage
  dsimp only
  split
  · refine memWf_of_cells (s := if (s.page c p).dirty then
      (s.usePageLines c p true).copyLines (s.pageLines c p (s.page c p).frame.toNat) else s) ?_ (by simp)
    split
    · exact memWf_copyLines _ (memWf_of_cells h (usePageLines_cells _ _ _ _))
    · exact h
  · exact h

theorem memWf_fillPage {s : State} (h : s.memWf) (c p f : Nat) : (s.fillPage c p f).memWf := by
  unfold fillPage
  dsimp only
  refine memWf_of_cells
    (s := (s.usePageLines c p false).copyLines ((s.pageLines c p f).map fun e => (e.2, e.1))) ?_ (by simp)
  exact memWf_copyLines _ (memWf_of_cells h (usePageLines_cells _ _ _ _))

/-- Making a page resident keeps the canonical form. -/
theorem memWf_refill {s : State} (h : s.memWf) (c p : Nat) : (s.refill c p).memWf := by
  unfold refill
  split
  · exact h
  · split
    · exact memWf_fillPage h _ _ _
    · split
      · exact h
      · exact memWf_fillPage (memWf_evictPage h _ _) _ _ _

/-- An access that makes its page resident keeps the canonical form. -/
theorem memWf_usePage {s : State} (h : s.memWf) (a : Nat) : (s.usePage a).memWf := by
  unfold usePage; split
  · dsimp only
    have hr := memWf_refill h (pageOfPlace a).1 (pageOfPlace a).2
    repeat' split
    all_goals first | exact hr | exact h
  · exact h

theorem memWf_usePages {s : State} (h : s.memWf) (l : List (Nat × Byte)) : (s.usePages l).memWf :=
  memWf_foldl _ (fun _ _ ht => memWf_usePage ht _) _ _ h

/-- Another table of address ranges keeps the canonical form. -/
theorem memWf_rehome {s : State} (h : s.memWf) (t : SMap (BitVec 256)) (moved : Nat → Bool) : (s.rehome t moved).memWf :=
  Memory.wf_foldl _ (fun _ _ hl => Memory.wf_puts _ _ _ hl) _ _ (Memory.wf_filter _ h)

/-- A reset keeps the canonical form. -/
theorem memWf_heldInReset {s : State} (h : s.memWf) : s.heldInReset.memWf := Memory.wf_filter _ h

/-- Reading back one stored byte. -/
theorem byteAt_putByte {s : State} (h : s.memWf) (p q : Nat) (b : Byte) :
    (s.putByte p b).byteAt q = if s.cellKey q = s.cellKey p then b else s.byteAt q := by
  exact Memory.get_put h _ _ _

end State

end Sys2Proof.Machine
end

