-- ==== Sys2Proof/Laws/Stores.lean ====
section
/-! SUPPORT. The shared operations that read and store at a home, stop a stream or end a word: each keeps the memory in
its canonical form. -/

namespace Sys2Proof.Machine.State

theorem memWf_setDie {s : State} (h : s.memWf) (d : Nat) (x : Die) : (s.setDie d x).memWf := h
theorem memWf_setCore {s : State} (h : s.memWf) (c : Nat) (x : Core) : (s.setCore c x).memWf := h
@[simp] theorem report_cells (s : State) (d : Nat) (m : HostMsg) : (s.report d m).cells = s.cells := by
  unfold report; split <;> rfl
theorem memWf_toHost {s : State} (h : s.memWf) (v c : Nat) (x : Word) (d : Nat) : (s.toHost v c x d).memWf :=
  memWf_of_cells h (report_cells _ _ _)

/-! ## Groups, stops and traps -/

theorem memWf_setGroup {s : State} (h : s.memWf) (c : Nat) (g : BitVec 8) (x : Group) : (s.setGroup c g x).memWf := by
  unfold setGroup
  dsimp only
  split
  · exact memWf_of_cells (memWf_merge h _ _) (unlockEntry_cells _ _)
  · exact memWf_of_cells (memWf_merge h _ _) (lockEntry_cells _ _)

theorem memWf_breakMember {s : State} (h : s.memWf) (c : Nat) (g : BitVec 8) (x : Group) (except i : Nat) :
    (s.breakMember c g x except i).memWf := by
  unfold breakMember
  dsimp only
  repeat' split
  all_goals exact h

/-- Breaking a group keeps the canonical form. -/
theorem memWf_breakGroup {s : State} (h : s.memWf) (c except : Nat) (g : BitVec 8) : (s.breakGroup c except g).memWf :=
  memWf_foldl _ (fun _ _ ht => memWf_breakMember ht _ _ _ _ _) _ _ (memWf_setGroup h _ _ _)

@[simp] theorem releasePageLocks_cells (s : State) (q : Nat) : (s.releasePageLocks q).cells = s.cells := rfl
@[simp] theorem withdraw_cells (s : State) (q : Nat) : (s.withdraw q).cells = s.cells := rfl

/-! The link's ports, the TRB and the squashes hold no bytes of memory. -/

@[simp] theorem setInPort_cells (s : State) (p : Nat) (x : InPort) : (s.setInPort p x).cells = s.cells := rfl
@[simp] theorem setOutPort_cells (s : State) (p : Nat) (x : OutPort) : (s.setOutPort p x).cells = s.cells := rfl
@[simp] theorem setMortarDir_cells (s : State) (l : Nat) (x : MortarDir) : (s.setMortarDir l x).cells = s.cells := rfl
@[simp] theorem freeSlot_cells (s : State) (p k n : Nat) : (s.freeSlot p k n).cells = s.cells := rfl
@[simp] theorem sendAlert_cells (s : State) (p : Nat) (f : FlitBits) : (s.sendAlert p f).cells = s.cells := rfl
@[simp] theorem addTelemetry_cells (s : State) (d o n : Nat) : (s.addTelemetry d o n).cells = s.cells := rfl

@[simp] theorem unreserve_cells (s : State) (p n : Nat) : (s.unreserve p n).cells = s.cells := rfl

@[simp] theorem cutPacket_cells (s : State) (p i : Nat) (c : BitVec 2) (f : FlitBits) : (s.cutPacket p i c f).cells = s.cells := by
  unfold cutPacket; dsimp only
  repeat' split
  all_goals rfl

@[simp] theorem discardOpen_cells (s : State) (p : Nat) (c : BitVec 2) (r : Reassembly) (f : FlitBits) :
    (s.discardOpen p c r f).cells = s.cells := by
  unfold discardOpen; dsimp only
  by_cases h : 4 ≤ p % 8 <;> by_cases g : r.flits.isEmpty <;> simp [h, g]

@[simp] theorem endOpen_cells (s : State) (p : Nat) (c : BitVec 2) : (s.endOpen p c).cells = s.cells := by
  unfold endOpen; split
  · rfl
  · simp

@[simp] theorem endInjected_cells (s : State) (c : Nat) (w : BitVec 12) : (s.endInjected c w).cells = s.cells :=
  cells_foldl _ (fun t e => by split <;> simp) _ _

@[simp] theorem countRetired_cells (s : State) (q n : Nat) : (s.countRetired q n).cells = s.cells := by
  unfold countRetired; split <;> rfl

@[simp] theorem retireEntry_cells (s : State) (q n : Nat) : (s.retireEntry q n).cells = s.cells := by
  unfold retireEntry; split
  · exact countRetired_cells _ _ _
  · rfl

@[simp] theorem squashFrom_cells (s : State) (q : Nat) (e : TrbEntry) : (s.squashFrom q e).cells = s.cells := rfl

@[simp] theorem squashAll_cells (s : State) (q : Nat) : (s.squashAll q).cells = s.cells := by
  unfold squashAll; dsimp only
  repeat' split
  all_goals simp

@[simp] theorem passAhead_streams (s : State) (q : Nat) (w : Bool) (p n : Nat) : (s.passAhead q w p n).streams = s.streams := rfl
@[simp] theorem passAhead_cores (s : State) (q : Nat) (w : Bool) (p n : Nat) : (s.passAhead q w p n).cores = s.cores := rfl
@[simp] theorem passAhead_dies (s : State) (q : Nat) (w : Bool) (p n : Nat) : (s.passAhead q w p n).dies = s.dies := rfl
@[simp] theorem passAhead_cur (s : State) (q : Nat) (w : Bool) (p n : Nat) : (s.passAhead q w p n).cur = s.cur := rfl
/-- A word that has read nothing ahead gives the bytes that it reads now. -/
theorem bindAhead_of_none {s : State} (h : ∀ a ∈ s.ahead, a.stream = s.cur → a.word ≠ s.me.seqNext) (via : Via) (whole : Bool)
    (p : Nat) (b : List Byte) : s.bindAhead via whole p b = b := by
  have : (s.ahead.filter fun a => a.stream == s.cur && a.word == s.me.seqNext && a.via == routeOf via p) = [] := by
    rw [List.filter_eq_nil_iff]
    intro a ha
    have := h a ha
    simp_all
  simp [bindAhead, this]
@[simp] theorem passAhead_cells (s : State) (q : Nat) (w : Bool) (p n : Nat) : (s.passAhead q w p n).cells = s.cells := rfl

/-- Stopping a stream keeps the canonical form. -/
theorem memWf_stopStream {s : State} (h : s.memWf) (q : Nat) (c : Cause) (a b : Word) (d : Bool) :
    (s.stopStream q c a b d).memWf := by
  unfold stopStream
  dsimp only
  split
  · exact memWf_of_cells h (by simp)
  · split
    · exact memWf_foldl _ (fun _ _ ht => memWf_breakGroup ht _ _ _) _ _ (memWf_toHost (memWf_of_cells h (by simp)) _ _ _ _)
    · exact memWf_toHost (memWf_of_cells h (by simp)) _ _ _ _

theorem memWf_stopNow {s : State} (h : s.memWf) (q : Nat) (c : Cause) (a : Word) : (s.stopNow q c a).memWf :=
  memWf_stopStream (s := s.squashAll q) (memWf_of_cells h (squashAll_cells _ _)) _ _ _ _ _

/-- Taking a cause keeps the canonical form. -/
theorem memWf_raiseAt {s : State} (h : s.memWf) (q : Nat) (c : Cause) (a b : Word) : (s.raiseAt q c a b).memWf := by
  have hr : (if c = .step then s.retireEntry q (s.stream q).seqNext else s).memWf := by
    split
    · exact memWf_of_cells h (by simp)
    · exact h
  unfold raiseAt
  dsimp only
  generalize (if c = .step then s.retireEntry q (s.stream q).seqNext else s) = t at hr ⊢
  repeat' split
  all_goals first | exact memWf_stopStream hr _ _ _ _ _ | exact memWf_of_cells hr (by simp)

theorem memWf_raise {s : State} (h : s.memWf) (c : Cause) (a : Word) : (s.raise c a).memWf := memWf_raiseAt h _ _ _ _

/-! ## The end of a word -/

theorem memWf_afterWord {s : State} (h : s.memWf) (w : Word) : (s.afterWord w).memWf := by
  unfold afterWord; split
  · exact memWf_raiseAt h _ _ _ _
  · exact h

theorem memWf_sequential {s0 s : State} (h0 : s0.memWf) (h : s.memWf) (a : Word) : (s0.sequential s a).memWf := by
  unfold sequential
  dsimp only
  split
  · exact memWf_raise h0 _ _
  · exact memWf_afterWord (memWf_of_cells h (by simp)) _

theorem memWf_transfer {s0 s : State} (h0 : s0.memWf) (h : s.memWf) (a : Word) : (s0.transfer s a).memWf := by
  unfold transfer
  split
  · exact memWf_raise h0 _ _
  · split
    · exact memWf_raise h0 _ _
    · exact memWf_afterWord (memWf_of_cells h (by simp)) _

@[simp] theorem cutOff_cells (s0 s : State) : (s0.cutOff s).cells = s.cells := rfl

/-- The end of a word keeps the canonical form when its body does. -/
theorem memWf_finish {s : State} (h : s.memWf) (len : Nat) (e : Effect)
    (he : match e with
      | .done t | .after t _ | .jump t _ | .keep t => t.memWf
      | .trap _ _ | .hold _ => True) : (s.finish len e).memWf := by
  cases e with
  | done t => simp only [finish]; split
              · exact memWf_of_cells he (by simp)
              · exact memWf_sequential h he _
  | after t a => simp only [finish]; split
                 · exact memWf_of_cells he (by simp)
                 · exact memWf_sequential h he _
  | jump t a => simp only [finish]; split
                · exact memWf_of_cells he (by simp)
                · exact memWf_transfer h he _
  | trap c a => exact memWf_raise h _ _
  | hold w => exact memWf_of_cells h (by simp [finish])
  | keep t => exact he

/-! ## Sectors checked and bytes read -/

theorem memWf_freezeMaster {s : State} (h : s.memWf) (id : BitVec 12) (a : Nat) : (s.freezeMaster id a).memWf := by
  have engines : ∀ l : List Nat,
      (l.foldl (fun t k => if t.steWriter k = id then t.setSte k { t.ste k with frozen := true } else t) s).memWf :=
    fun l => memWf_foldl _ (fun t k ht => by dsimp only; split <;> exact ht) l s h
  unfold freezeMaster
  dsimp only
  split
  · split
    · exact memWf_stopNow h _ _ _
    · exact h
  split
  · exact memWf_of_cells h (endInjected_cells _ _ _)
  split
  · exact memWf_of_cells (engines _) (endInjected_cells _ _ _)
  split
  · exact memWf_of_cells h (endInjected_cells _ _ _)
  · exact h

@[simp] theorem reportFailure_cells (s : State) (v : Word) (w : BitVec 12) (who : Consumer) (d : Nat) :
    (s.reportFailure v w who d).cells = s.cells := report_cells _ _ _

theorem memWf_badSector {s : State} (h : s.memWf) (p : Nat) (who : Consumer) : (s.badSector p who).memWf := by
  unfold badSector badData
  dsimp only
  refine memWf_of_cells (memWf_freezeMaster (memWf_of_cells h ?_) _ _) (reportFailure_cells _ _ _ _ _)
  split <;> rfl

/-- Checking a sector keeps the canonical form. -/
theorem memWf_checkSector {s : State} (h : s.memWf) (who : Consumer) (p : Nat) : (s.checkSector who p).memWf := by
  unfold checkSector; split
  · exact h
  · exact memWf_badSector h p who

theorem memWf_useRead {s : State} (h : s.memWf) (x : Option Nat) (p n : Nat) : (s.useRead x p n).memWf := by
  unfold useRead; split
  · exact memWf_usePage h _
  · exact memWf_of_cells h (by simp)

/-- Reading at a home keeps the canonical form. -/
theorem memWf_readHome {s : State} (h : s.memWf) (p n : Nat) (who : Consumer) : (s.readHome p n who).1.memWf := by
  have := memWf_foldl (checkSector · who) (fun _ _ ht => memWf_checkSector ht _ _)
    ((List.range ((p % 32 + n + 31) / 32)).map fun j => p / 32 * 32 + 32 * j)
    (s.useRead (s.payer who) p n) (memWf_useRead h _ _ _)
  unfold readHome
  dsimp only
  split <;> exact this

theorem memWf_homeLine {s : State} (h : s.memWf) (line ctx va : Nat) (who : Consumer) :
    (s.homeLine line ctx va who).1.memWf :=
  memWf_foldl _ (fun _ _ ht => memWf_checkSector ht _ _) _
    (s.useLine (s.payer who) (s.homeSlice line) line false) (memWf_of_cells h (by simp))

theorem memWf_l2Line {s : State} (h : s.memWf) (d line ctx va : Nat) (who : Consumer) :
    (s.l2Line d line ctx va who).1.memWf := by
  have hh := memWf_homeLine h line ctx va who
  unfold l2Line
  split
  · dsimp only
    split
    · exact memWf_of_cells h (by simp)
    · split
      · exact memWf_of_cells hh (by simp)
      · exact hh
  · exact hh

@[simp] theorem fillL1_cells (s : State) (c line : Nat) (l : Line) : (s.fillL1 c line l).cells = s.cells := by
  unfold fillL1; dsimp only; split <;> rfl

theorem memWf_fillL1 {s : State} (h : s.memWf) (c line : Nat) (l : Line) : (s.fillL1 c line l).memWf :=
  memWf_of_cells h (fillL1_cells _ _ _ _)

/-- Reading a line through the L1D keeps the canonical form. -/
theorem memWf_l1Line {s : State} (h : s.memWf) (c line ctx va : Nat) : (s.l1Line c line ctx va).1.memWf := by
  unfold l1Line
  split
  · exact h
  · exact memWf_fillL1 (memWf_l2Line h _ line ctx va (.core c)) _ _ _

theorem memWf_cachedLine {s : State} (h : s.memWf) (c ctx : Nat) (via : Via) (va line : Nat) (who : Consumer) :
    (s.cachedLine c ctx via va line who).1.memWf := by
  unfold cachedLine
  split
  · exact memWf_l1Line h _ _ _ _
  · exact memWf_l2Line h _ _ _ _ _

@[simp] theorem passCopies_cells (s : State) (q : Nat) (g : Bool) (p : Nat) (b : List Byte) :
    (s.passCopies q g p b).cells = s.cells := by
  unfold passCopies; dsimp only; split <;> rfl

@[simp] theorem seenPast_cells (s : State) (q : Nat) (via : Via) (p : Nat) (r : Except Nat (List Byte)) :
    (s.seenPast q via p r).cells = s.cells := by
  cases r with
  | error k => rfl
  | ok b => simp only [seenPast]; split <;> simp

@[simp] theorem bound_cells (s : State) (via : Via) (w : Bool) (p n : Nat) (r : State × Except Nat (List Byte)) :
    (s.bound via w p n r).1.cells = r.1.cells := by
  unfold bound; dsimp only
  rw [seenPast_cells]
  split <;> rfl

/-- Reading a piece of a line, through a cache or at its home, keeps the canonical form. -/
theorem memWf_readPiece {s : State} (h : s.memWf) (c ctx : Nat) (via : Via) (va p n : Nat) (who : Consumer)
    (whole : Bool) : (s.readPiece c ctx via va p n who whole).1.memWf := by
  unfold readPiece
  have key : ((if servedAtHome via p then s.readHome p n who else
      ((s.cachedLine c ctx via (va / 128 * 128) (p / 128 * 128) who).1,
        lineBytes (s.cachedLine c ctx via (va / 128 * 128) (p / 128 * 128) who).2 (p / 128 * 128) p n)) :
      State × Except Nat (List Byte)).1.memWf := by
    split
    · exact memWf_readHome h _ _ _
    · exact memWf_cachedLine h _ _ _ _ _ _
  dsimp only at key ⊢
  split
  · exact memWf_of_cells key (bound_cells _ _ _ _ _ _)
  · exact key

/-! ## Writes at a home -/

theorem memWf_recordWake {s : State} (h : s.memWf) (p : ParkedArm) : (s.recordWake p).memWf := by
  unfold recordWake
  split
  · exact h
  · dsimp only
    split <;> exact memWf_merge h _ _

@[simp] theorem setFired_cells (s : State) (q k : Nat) : (s.setFired q k).cells = s.cells := by
  unfold setFired; dsimp only; split <;> rfl

theorem memWf_fireLine {s : State} (h : s.memWf) (line : Nat) : (s.fireLine line).memWf := by
  have h1 : (s.monEntries.foldl (fun t e => if e.line = line then t.setFired e.stream e.reg else t) s).memWf := by
    refine memWf_foldl _ (fun t e ht => ?_) _ _ h
    split
    · exact memWf_of_cells ht (by simp)
    · exact ht
  unfold fireLine
  dsimp only
  split
  · refine memWf_foldl _ (fun t e ht => ?_) _ _ h1
    split
    · exact memWf_recordWake ht _
    · exact ht
  · exact h1

/-- A write performed at its homes keeps the canonical form. -/
theorem memWf_writeAtHome {s : State} (h : s.memWf) (w : BitVec 12) (l : List (Nat × Byte)) (x : Option Nat) :
    (s.writeAtHome w l x).memWf := by
  have h1 : ((sectorsOf l).foldl (fun t k => if bytesIn l k < 32 then t.checkSector .home k else t) s).memWf := by
    refine memWf_foldl _ (fun t e ht => ?_) _ _ h
    split
    · exact memWf_checkSector ht _ _
    · exact ht
  unfold writeAtHome
  dsimp only
  refine memWf_foldl _ (fun t e ht => memWf_fireLine ht e) _ _ ?_
  exact memWf_of_cells (memWf_merge (memWf_usePages h1 l) w l) (by simp)

@[simp] theorem patchGuests_cells (s : State) (d : Nat) (l : List (Nat × Byte)) : (s.patchGuests d l).cells = s.cells := rfl

theorem memWf_homeWrite {s : State} (h : s.memWf) (d : Nat) (w : BitVec 12) (l : List (Nat × Byte)) (x : Option Nat) :
    (s.homeWrite d w l x).memWf := memWf_of_cells (memWf_writeAtHome h w l x) (patchGuests_cells _ _ _)

@[simp] theorem cancelFills_cells (s : State) (c : Nat) (f : Nat → Nat → Nat → Bool) : (s.cancelFills c f).cells = s.cells := rfl
@[simp] theorem patchL1_cells (s : State) (c : Nat) (l : List (Nat × Byte)) : (s.patchL1 c l).cells = s.cells := rfl
@[simp] theorem dropL1_cells (s : State) (c : Nat) (l : List Nat) : (s.dropL1 c l).cells = s.cells := rfl
@[simp] theorem setFull_cells (s : State) (p : Nat) (b : Bool) : (s.setFull p b).cells = s.cells := rfl
@[simp] theorem mapStores_cells (s : State) (q : Nat) (f : StoreEntry → StoreEntry) : (s.mapStores q f).cells = s.cells := rfl
@[simp] theorem dropStore_cells (s : State) (q : Nat) (e : StoreEntry) : (s.dropStore q e).cells = s.cells := rfl
@[simp] theorem storeDone_cells (s : State) (q : Nat) (k : StoreKind) (l : List (Nat × Byte)) :
    (s.storeDone q k l).cells = s.cells := by
  have far := (cells_foldl (fun t e => t.passAhead q true e.1 1) (fun _ _ => rfl) (s.homedOn (1 - dieOfCore (q / 4)) l)
    (s.patchGuests (dieOfCore (q / 4)) (s.homedOn (1 - dieOfCore (q / 4)) l))).trans (patchGuests_cells _ _ _)
  unfold storeDone; dsimp only
  split <;> simpa using far
@[simp] theorem retireStore_cells (s : State) (q : Nat) (e : StoreEntry) : (s.retireStore q e).cells = s.cells :=
  storeDone_cells _ _ _ _

theorem memWf_storeData {s : State} (h : s.memWf) (q : Nat) (k : StoreKind) (l : List (Nat × Byte)) :
    (s.storeData q k l).memWf := by
  have hp : (l.foldl (fun t e => t.passAhead q true e.1 1) s).memWf :=
    memWf_foldl _ (fun _ _ ht => memWf_of_cells ht (passAhead_cells _ _ _ _ _)) _ _ h
  have := memWf_writeAtHome hp (writerOfStream q) l (s.payer (.core (q / 4)))
  unfold storeData
  dsimp only
  split <;> exact memWf_of_cells this (by simp)

theorem memWf_formedWrite {s : State} (h : s.memWf) (q p : Nat) (l : List Byte) : (s.formedWrite q p l).memWf :=
  memWf_of_cells (memWf_writeAtHome (memWf_of_cells h (passAhead_cells _ _ _ _ _)) _ _ _) (dropL1_cells _ _ _)

theorem memWf_readAtHome {s : State} (h : s.memWf) (q p n : Nat) : (s.readAtHome q p n).1.memWf :=
  memWf_of_cells (memWf_readHome h p n (.core (q / 4))) (by simp [readAtHome])

/-- An atomic at its home keeps the canonical form. -/
theorem memWf_atomAtHome {s : State} (h : s.memWf) (q : Nat) (op : AtomOp) : (s.atomAtHome q op).1.memWf := by
  have h0 : (if 2 ^ 52 ≤ op.place then s.toHostBare else s).memWf := by split <;> exact h
  unfold atomAtHome
  dsimp only
  generalize (if 2 ^ 52 ≤ op.place then s.toHostBare else s) = t at h0 ⊢
  have hr := memWf_readAtHome h0 q op.place (atomSize op.aux.toNat)
  revert hr
  rcases t.readAtHome q op.place (atomSize op.aux.toNat) with ⟨u, k | l⟩ <;> intro (hr : u.memWf)
  · exact hr
  · dsimp only
    repeat' split
    all_goals first | exact hr | exact memWf_formedWrite hr _ _ _

theorem memWf_of_atomAtHome {s t : State} {q : Nat} {op : AtomOp} {r : HomeReply} (h : s.memWf)
    (he : s.atomAtHome q op = (t, r)) : t.memWf := by
  have := memWf_atomAtHome h q op
  rw [he] at this
  exact this

theorem memWf_setFull {s : State} (h : s.memWf) (p : Nat) (b : Bool) : (s.setFull p b).memWf := h

theorem memWf_takeFull {s : State} (h : s.memWf) (q p : Nat) (b : Bool) : (s.takeFull q p b).1.memWf := by
  have hr := memWf_readAtHome h q p 8
  unfold takeFull
  revert hr
  rcases s.readAtHome q p 8 with ⟨t, k | l⟩ <;> intro (hr : t.memWf)
  · exact hr
  · cases b
    · exact hr
    · exact memWf_of_cells (memWf_formedWrite hr _ _ _) (setFull_cells _ _ _)

theorem memWf_serveRequests (n : Nat) : ∀ {s : State}, s.memWf → ∀ p : Nat, (s.serveRequests p n).memWf := by
  induction n with
  | zero => intro s h p; exact h
  | succ n ih =>
    intro s h p
    simp only [serveRequests]
    split
    · exact h
    · rename_i r _
      refine ih (memWf_of_cells (memWf_takeFull h r.stream p r.take) ?_) p
      rfl

theorem memWf_serveFull {s : State} (h : s.memWf) (p : Nat) : (s.serveFull p).memWf := memWf_serveRequests _ h p

theorem memWf_retireStore {s : State} (h : s.memWf) (q : Nat) (e : StoreEntry) : (s.retireStore q e).memWf :=
  memWf_of_cells h (retireStore_cells _ _ _)

/-- A queued write carried out at its home keeps the canonical form. -/
theorem memWf_carryOut {s : State} (h : s.memWf) (q : Nat) (e : StoreEntry) : (s.carryOut q e).memWf := by
  have hd := memWf_storeData h q e.kind e.cells
  match hk : e.kind with
  | .red op x =>
    rw [carryOut, hk]
    dsimp only
    split
    · exact h
    · split
      · rename_i he; exact memWf_stopNow (memWf_of_atomAtHome h he) _ _ _
      · rename_i he; exact memWf_of_atomAtHome h he
  | .stfl _ =>
    rw [carryOut, hk]
    dsimp only
    split
    · exact h
    · exact memWf_serveFull (memWf_setFull (hk ▸ hd) _ _) _
  | .feclr =>
    rw [carryOut, hk]
    dsimp only
    split
    · exact h
    · exact memWf_setFull (hk ▸ hd) _ _
  | .scalar | .remote | .wide => simpa only [carryOut, hk] using hd

theorem sendReduction_cells {s t : State} {q : Nat} {e : StoreEntry} (h : s.sendReduction q e = some t) :
    t.cells = s.cells := by
  unfold sendReduction sendAgent at h
  split at h
  · dsimp only at h
    split at h
    · simp at h
    · simp only [Option.map_some, Option.some.injEq] at h; subst h; rfl
  · simp at h

/-! ### What accesses start -/

theorem memWf_startFill {s : State} (h : s.memWf) (c p n : Nat) (f : Nat → Bool) (w : Bool) : (s.startFill c p n f w).memWf := by
  unfold startFill
  split
  · exact memWf_usePage h _
  · refine memWf_foldl _ (fun t line ht => ?_) _ _ h
    unfold fillHome
    dsimp only
    repeat' split
    all_goals first | exact ht | exact memWf_of_cells ht (useLine_cells _ _ _ _ _)

/-- What a write starts keeps the canonical form. -/
theorem memWf_startWrite {s : State} (h : s.memWf) (q : Nat) (l : List (Nat × Byte)) : (s.startWrite q l).memWf := by
  unfold startWrite
  repeat' split
  all_goals first | exact h | exact memWf_foldl _ (fun _ _ ht => memWf_startFill ht _ _ _ _ _) _ _ h

@[simp] theorem walkIn_cells (s : State) (c x va p : Nat) : (s.walkIn c x va p).cells = s.cells := by
  have know (d : Nat) : (s.knowOnDie d x va).cells = s.cells := by
    unfold knowOnDie walkOnDie
    repeat' split
    all_goals simp
  unfold walkIn fillTlb
  dsimp only
  repeat' split
  all_goals first | rfl | exact know _

/-- What the reads of a word start keeps the canonical form. -/
theorem memWf_startReads {s : State} (h : s.memWf) (via : Via) (l : List (Nat × Nat × Nat)) : (s.startReads via l).memWf := by
  have hw := memWf_foldl (fun u p => u.walkIn u.myCore s.myCtxId p.1 p.2.1) (fun _ _ ht => memWf_of_cells ht (walkIn_cells _ _ _ _ _)) l s h
  unfold startReads
  dsimp only
  split
  · exact memWf_foldl _ (fun _ _ ht => memWf_startFill ht _ _ _ _ _) _ _ hw
  · exact hw

/-- Performing the oldest entry of a store queue keeps the canonical form. -/
theorem memWf_performHead {s : State} (h : s.memWf) (q : Nat) : (s.performHead q).1.memWf := by
  unfold performHead
  split
  · exact h
  · rename_i e _ _
    split
    · exact h
    split
    · split
      · cases hs : s.sendReduction q e with
        | none => exact h
        | some t => exact memWf_of_cells h (sendReduction_cells hs)
      · exact h
    split
    · exact memWf_retireStore h _ _
    · have hw : (if e.phase = .queued then s.startWrite q e.cells else s).memWf := by
        split
        · exact memWf_startWrite h _ _
        · exact h
      dsimp only
      generalize (if e.phase = .queued then s.startWrite q e.cells else s) = t at hw ⊢
      split
      · exact memWf_retireStore (memWf_carryOut hw _ _) _ _
      · exact hw

theorem memWf_performMany (n : Nat) : ∀ {s : State}, s.memWf → ∀ q : Nat, (s.performMany q n).1.memWf := by
  induction n with
  | zero => intro s h q; exact h
  | succ n ih =>
    intro s h q
    have hp := memWf_performHead h q
    simp only [performMany]
    split
    · rename_i he; rw [he] at hp; exact hp
    · rename_i he; rw [he] at hp; exact ih hp q

theorem countRead_cells (s : State) (l : List (Nat × Nat × Nat)) : (s.countRead l).1.cells = s.cells := by
  unfold countRead; dsimp only
  repeat' split
  all_goals rfl

/-- The older stores that a word waits for keep the canonical form. -/
theorem memWf_drainFor {s : State} (h : s.memWf) (l : List (Nat × Nat × Nat)) : (s.drainFor l).1.memWf := by
  have hd : (s.drainOver l).1.memWf := memWf_performMany _ h _
  unfold drainFor
  split
  · rename_i t he
    rw [he] at hd
    exact memWf_of_cells hd (countRead_cells _ _)
  · exact hd

theorem memWf_drainAll {s : State} (h : s.memWf) : s.drainAll.1.memWf := memWf_performMany _ h _

/-- Queueing a write changes no byte of memory. -/
theorem enqueue_cells {s t : State} {k : StoreKind} {l : List (Nat × Byte)} {va : Word} {r : List (Nat × Nat × Nat)}
    {o : ReleaseOf} {z : Pieces} {g : List (Nat × Nat)} (h : s.enqueue k l va r o z g = .done t) : t.cells = s.cells := by
  unfold enqueue at h
  dsimp only at h
  split at h
  · cases h
  · cases h
    exact cells_foldl _ (fun _ _ => walkIn_cells _ _ _ _ _) _ _

end Sys2Proof.Machine.State
end

