-- ==== Sys2Proof/Laws/Words.lean ====
section
/-! SUPPORT. What the shared operations on words can do: completion, transfers, guards, traps. -/

namespace Sys2Proof.Machine

namespace Stream

theorem PassesTo.endCheck {t : Stream} {a : Word} (h : t.PassesTo a) : t.endCheck a = (t, a) :=
  endCheck_of_none t a h.1

@[simp] theorem passesTo_writeS (t : Stream) (n : BitVec 5) (v a : Word) :
    (t.writeS n v).PassesTo a ↔ t.PassesTo a := by simp [PassesTo]

@[simp] theorem passesTo_writeP (t : Stream) (n : BitVec 3) (b : Bool) (a : Word) :
    (t.writeP n b).PassesTo a ↔ t.PassesTo a := by simp [PassesTo]

end Stream

namespace State

@[simp] theorem readS_eq (s : State) (n : BitVec 5) : s.me.readS n = s.readS n := rfl
@[simp] theorem readP_eq (s : State) (n : BitVec 3) : s.me.readP n = s.readP n := rfl

@[simp] theorem setMe_goTo (s : State) (t : Stream) (a : Word) :
    (s.setMe t).goTo a = s.setMe { t with pc := a, run := .ready, wait := .none } := by simp [goTo]

/-- Without a single step, nothing follows a word. -/
theorem afterWord_of_not_step (s : State) (w : Word) (h : s.me.step = false) : s.afterWord w = s := by
  simp [afterWord, h]

/-- Sequential completion where the stream passes to the address: it goes on there. -/
theorem sequential_of_passes (s0 s : State) {a : Word} (h : s.me.PassesTo a) : s0.sequential s a = s.goTo a := by
  have h3 : (s.goTo a).me.step = false := by rw [me_goTo]; exact h.2.2
  simp only [sequential, h.endCheck, h.2.1, Bool.false_eq_true, if_false, setMe_goTo]
  exact afterWord_of_not_step (s.goTo a) _ h3

/-- A taken transfer to an even address that may be fetched: the stream goes on there. -/
theorem transfer_of_ok (s0 s : State) {a : Word} (h1 : a.getLsbD 0 = false) (h2 : neverFetched a = false)
    (h3 : s.me.step = false) : s0.transfer s a = s.goTo a := by
  have h3 : (s.goTo a).me.step = false := by rw [me_goTo]; exact h3
  simp only [transfer, h1, h2, Bool.false_eq_true, if_false]
  exact afterWord_of_not_step (s.goTo a) _ h3

/-- A transfer to an odd address raises ALIGN at the word (R35). -/
theorem transfer_odd (s0 s : State) {a : Word} (h : a.getLsbD 0 = true) : s0.transfer s a = s0.raise .align a := by
  simp [transfer, h]

/-- A transfer to an even address that is never fetched raises PAGE at the word (R35). -/
theorem transfer_beyond (s0 s : State) {a : Word} (h1 : a.getLsbD 0 = false) (h2 : neverFetched a = true) :
    s0.transfer s a = s0.raise .page a := by
  simp only [transfer, h1, h2, Bool.false_eq_true, if_false, if_true]

/-- A word that leaves its stream's fault mark alone has not stopped it. -/
theorem stoppedSince_of_eq {s0 s : State} (h : s.me.faultMark = s0.me.faultMark) : s0.stoppedSince s = false := by
  simp [stoppedSince, h]

/-- The end of a word whose effect leaves the stream running and able to pass on. -/
theorem finish_done (s s' : State) (len : Nat) (hf : s'.me.faultMark = s.me.faultMark) (hpc : s'.me.pc = s.me.pc)
    (hp : s'.Passes len) : s.finish len (.done s') = s'.nextWord len := by
  unfold Passes at hp
  rw [hpc] at hp
  simp only [finish, stoppedSince_of_eq hf, Bool.false_eq_true, if_false, sequential_of_passes s s' hp, nextWord, hpc]

theorem finish_after (s s' : State) (len : Nat) {a : Word} (hf : s'.me.faultMark = s.me.faultMark)
    (hp : s'.me.PassesTo a) : s.finish len (.after s' a) = s'.goTo a := by
  simp only [finish, stoppedSince_of_eq hf, Bool.false_eq_true, if_false, sequential_of_passes s s' hp]

theorem finish_jump (s s' : State) (len : Nat) (a : Word) (hf : s'.me.faultMark = s.me.faultMark) :
    s.finish len (.jump s' a) = s.transfer s' a := by
  simp only [finish, stoppedSince_of_eq hf, Bool.false_eq_true, if_false]

/-- A brick whose guard is true runs its body. -/
theorem brick_true (s : State) {g : BitVec 3} (body : State → Effect) (h : s.readP g = true) :
    s.brick g body = .next (s.finish 4 (body s)) := by simp [brick, guarded, h]

/-- A brick whose guard is false passes control without effect. -/
theorem brick_false (s : State) {g : BitVec 3} (body : State → Effect) (h : s.readP g = false) :
    s.brick g body = .next (s.sequential s (s.me.pc + 4#64)) := by
  simp [brick, guarded, h, finish, stoppedSince]

/-- A brick that does its work and passes on. -/
theorem brick_done (s : State) {g : BitVec 3} {body : State → Effect} {s' : State} (hg : s.readP g = true)
    (hb : body s = .done s') (hf : s'.me.faultMark = s.me.faultMark) (hpc : s'.me.pc = s.me.pc) (hp : s'.Passes 4) :
    s.brick g body = .next (s'.nextWord 4) := by
  rw [brick_true s body hg, hb, finish_done s s' 4 hf hpc hp]

/-- A brick that raises a cause. -/
theorem brick_trap (s : State) {g : BitVec 3} {body : State → Effect} {c : Cause} {ea : Word} (hg : s.readP g = true)
    (hb : body s = .trap c ea) : s.brick g body = .next (s.raise c ea) := by
  rw [brick_true s body hg, hb]; rfl

/-- A bat that does its work and passes on. -/
theorem bat_done (s : State) {body : State → Effect} {s' : State} (hb : body s = .done s')
    (hf : s'.me.faultMark = s.me.faultMark) (hpc : s'.me.pc = s.me.pc) (hp : s'.Passes 2) :
    s.bat body = .next (s'.nextWord 2) := by
  simp only [bat, hb, finish_done s s' 2 hf hpc hp]

/-- Passing on, once the running stream is replaced by one with the same address, loop pairs and single-step bit. -/
theorem passes_setMe (s : State) (t : Stream) (len : Nat) (hp : s.Passes len) (h1 : t.pc = s.me.pc)
    (h2 : t.lc = s.me.lc) (h3 : t.lb = s.me.lb) (h4 : t.step = s.me.step) : (s.setMe t).Passes len := by
  unfold Passes Stream.PassesTo at *
  simpa [h1, h4, Stream.endsAt, Stream.loopEnd, Stream.lbStart, Stream.lbLen, h2, h3] using hp

/-- A brick that only writes S[d]. -/
theorem setS_next (s : State) {g : BitVec 3} (d : BitVec 5) (f : State → Word) (hg : s.readP g = true)
    (hp : s.Passes 4) : s.setS g d f = .next ((s.writeS d (f s)).nextWord 4) :=
  brick_done s hg rfl (by simp) (by simp) (passes_setMe s _ 4 hp (by simp) (by simp) (by simp) (by simp))

/-- A brick that only writes P[d]. -/
theorem setP_next (s : State) {g : BitVec 3} (d : BitVec 3) (f : State → Bool) (hg : s.readP g = true)
    (hp : s.Passes 4) : s.setP g d f = .next ((s.writeP d (f s)).nextWord 4) :=
  brick_done s hg rfl (by simp) (by simp) (passes_setMe s _ 4 hp (by simp) (by simp) (by simp) (by simp))

/-- A bat that only writes S[a]. -/
theorem batOp_next (s : State) (a b : BitVec 5) (f : Word → Word → Word) (hp : s.Passes 2) :
    s.batOp a b f = .next ((s.writeS a (f (s.readS a) (s.readS b))).nextWord 2) :=
  bat_done s rfl (by simp) (by simp) (passes_setMe s _ 2 hp (by simp) (by simp) (by simp) (by simp))

end State

end Sys2Proof.Machine
end

