-- ==== Sys2Proof/Tests/Slice0.lean ====
section
/-! SUPPORT. The model's own tests: words of the spec decode to their instructions, decode refuses ill-formed fields, single
words have their effect; and for each statement states and operands that meet its hypotheses. -/

namespace Sys2Proof.Tests

/- One theorem at a time: run side by side, the evaluations below need too much memory together. -/
set_option Elab.async false

/-! ## Words that the spec writes out -/

/-- Chapter 02 of the spec. -/
theorem test_decode_bat_add : decodeTableWord 16 0x0867 = some (.batAdd 3 7) := by decide

/-- Chapter 02 of the spec. -/
theorem test_decode_bat_b : decodeTableWord 16 0x3BFB = some (.batB (-5)) := by decide

/-- Chapter 02 of the spec. -/
theorem test_decode_imx : decodeTableWord 32 0x2345FF10 = some (.imx 1 0x2345) := by decide

/-- Chapter 02 of the spec. -/
theorem test_decode_movi : decodeTableWord 32 0x06788809 = some (.movi 0 0x678 9) := by decide

/-- Chapter 02 of the spec. -/
theorem test_decode_ld_d : decodeTableWord 32 0xE040A645 = some (.ldD 2 14 0x040 5) := by decide

/-- Chapter 17 of the spec. -/
theorem test_decode_ldx_d : decodeTableWord 32 0xF000A71B = some (.ldxD 0 15 0 27) := by decide

/-- Chapter 18 of the spec. -/
theorem test_decode_ld_bu : decodeTableWord 32 0x3000A10D = some (.ldBu 0 3 0 13) := by decide

/-- Chapter 04 of the spec. -/
theorem test_decode_loop : decodeTableWord 32 0x0A049A00 = some (.loop 0 5 4) := by decide

/-- Chapter 04 of the spec. -/
theorem test_decode_rdi : decodeTableWord 32 0x30008400 = some (.rdi 0 6 0) := by decide

/-- Chapter 04 of the spec. -/
theorem test_decode_icmpi : decodeTableWord 32 0x000A8901 = some (.icmpi 0 0 .eq 0x00A 1) := by decide

/-- Chapters 17 to 19 of the spec. -/
theorem test_decode_min : decodeTableWord 32 0x520C800A = some (.min 0 10 8 6) := by decide

/-- Chapters 17 to 19 of the spec. -/
theorem test_decode_zxt_h : decodeTableWord 32 0xC3808209 = some (.zxtH 0 24 14) := by decide

/-- Chapters 17 to 19 of the spec. -/
theorem test_decode_cmp : decodeTableWord 32 0x141E9004 = some (.cmp 0 2 16 15 .gt) := by decide

/-- Chapters 17 to 19 of the spec. -/
theorem test_decode_sel : decodeTableWord 32 0x36329201 = some (.sel 0 6 24 25 1) := by decide

/-- Chapters 17 to 19 of the spec. -/
theorem test_decode_cset : decodeTableWord 32 0x4800920A = some (.cset 0 9 2) := by decide

/-- Chapter 05 of the spec. -/
theorem test_decode_hoff : decodeTableWord 32 0x3138F005 = some (.hoff 0 3 1 7) := by decide

/-- Chapters 17 to 19 of the spec. -/
theorem test_decode_sysw : decodeTableWord 32 0x1012FC1C = some (.sysw 0 .fewait 28) := by decide

/-- Chapter 06 of the spec. -/
theorem test_decode_vred : decodeTableWord 32 0x5200C700 = some (.vredAddF 0 5 2 .rn) := by decide

/-- Chapters 17 to 19 of the spec. -/
theorem test_decode_vpack : decodeTableWord 32 0xF990C604 = some (.vpackF16 0 15 9 9 .rn) := by decide

/-- Chapters 17 to 19 of the spec. -/
theorem test_decode_vrot : decodeTableWord 32 0x1130D201 = some (.vrot 0 1 1 48) := by decide

/-- Chapters 17 to 19 of the spec. -/
theorem test_decode_vlds : decodeTableWord 32 0x40A1D003 = some (.vlds 0 4 20 1) := by decide

/-- Chapters 17 to 19 of the spec. -/
theorem test_decode_vgth : decodeTableWord 32 0x0C70D005 = some (.vgth 0 0 12 14) := by decide

/-- Chapters 17 to 19 of the spec. -/
theorem test_decode_vsct : decodeTableWord 32 0xC8A8D104 = some (.vsct 0 12 8 21) := by decide

/-- Chapters 17 to 19 of the spec. -/
theorem test_decode_vstm : decodeTableWord 32 0xAF60D107 = some (.vstmL 0 10 15 12) := by decide

/-- Chapter 07 of the spec. -/
theorem test_decode_tld : decodeTableWord 32 0x4500D801 = some (.tldT 0 4 5 0) := by decide

/-- Chapters 17 to 19 of the spec. -/
theorem test_decode_tst : decodeTableWord 32 0x2200D900 = some (.tst 0 2 2 0) := by decide

/-- Chapter 07 of the spec. -/
theorem test_decode_mma : decodeTableWord 32 0x0120E804 = some (.mma 0 0 1 2 .rn .f16) := by decide

/-- Chapter 07 of the spec. -/
theorem test_decode_ccvt : decodeTableWord 32 0x4011EC04 = some (.ccvtF32 0 4 0 1 .rz) := by decide

/-- Chapter 08 of the spec. -/
theorem test_decode_brk : decodeTableWord 32 0x0005FD02 = some (.brk 0 5) := by decide

/-- Chapter 08 of the spec. -/
theorem test_decode_rdus : decodeTableWord 32 0x2F00FD03 = some (.rdus 0 5 0) := by decide

/-- Chapters 17 to 19 of the spec. -/
theorem test_decode_stl : decodeTableWord 32 0x188CAE03 = some (.stl 0 0 .device 2 6 1) := by decide

/-- Chapter 09 of the spec. -/
theorem test_decode_atom : decodeTableWord 32 0x190AAD03 = some (.atomMin 0 3 4 5 1) := by decide

/-- Chapter 09 of the spec. -/
theorem test_decode_red : decodeTableWord 32 0x010AAD1D = some (.redAddF32 0 4 5) := by decide

/-- Chapters 17 to 19 of the spec. -/
theorem test_decode_red_d : decodeTableWord 32 0x0044AD12 = some (.redAddD 0 1 2) := by decide

/-- Chapters 17 to 19 of the spec. -/
theorem test_decode_ldfe : decodeTableWord 32 0x7540AFC0 = some (.ldfe 6 14 21) := by decide

/-- Chapters 17 to 19 of the spec. -/
theorem test_decode_fence : decodeTableWord 32 0x180BB000 = some (.fenceRel 0 1 1 .device) := by decide

/-- Chapter 09 of the spec. -/
theorem test_decode_copy : decodeTableWord 32 0x2160F200 = some (.copyG2l 0 2 1 12) := by decide

/-- Chapter 11 of the spec. -/
theorem test_decode_spawn : decodeTableWord 32 0x09C0B800 = some (.taskSpawn 0 1 7 0) := by decide

/-- Chapters 17 to 19 of the spec. -/
theorem test_decode_cancel : decodeTableWord 32 0xE700B804 = some (.cancel 0 28 28) := by decide

/-- Chapters 17 to 19 of the spec. -/
theorem test_decode_info : decodeTableWord 32 0xE001B805 = some (.taskInfo 0 28 1) := by decide

/-- Chapter 11 of the spec. -/
theorem test_decode_bar : decodeTableWord 32 0x1240B902 = some (.bar 0 2 9) := by decide

/-- Chapter 14 of the spec. -/
theorem test_decode_ste_draw : decodeTableWord 32 0x5B03F803 = some (.steDraw 0 11 12 3) := by decide

/-- Chapter 14 of the spec. -/
theorem test_decode_ste_ins : decodeTableWord 32 0x4240F801 = some (.steIns 0 8 9) := by decide

/-- Chapter 14 of the spec. -/
theorem test_decode_ste_upd : decodeTableWord 32 0x5240F802 = some (.steUpd 0 10 9) := by decide

/-- Chapter 15 of the spec. -/
theorem test_decode_range_tag : decodeTableWord 32 0x0516FE00 = some (.rangeTag 0 0 20 22) := by decide

/-- Chapter 15 of the spec. -/
theorem test_decode_range_rd : decodeTableWord 32 0x3880FE03 = some (.rangeRd 0 7 2 0) := by decide

/-- Chapter 15 of the spec. -/
theorem test_decode_nest : decodeTableWord 32 0x2980FE04 = some (.nestClaim 0 5 6) := by decide

/-! ## Field checks (R49): each refuses an ill-formed term -/

theorem test_wf_shli : Instr.wf (.shli 0 64 1) = false := by decide

theorem test_wf_shri : Instr.wf (.shri 0 64 1) = false := by decide

theorem test_wf_srai : Instr.wf (.srai 0 4095 1) = false := by decide

theorem test_wf_b : Instr.wf (.bL 0 1 1) = false := by decide

theorem test_wf_call : Instr.wf (.callL 0 1 1) = false := by decide

theorem test_wf_jr : Instr.wf (.jrL 0 3 1) = false := by decide

theorem test_wf_callr : Instr.wf (.callr 0 3 1) = false := by decide

theorem test_wf_loop : Instr.wf (.loop 1 5 0) = false := by decide

theorem test_wf_sysw : Instr.wf (.sysw 0 .gen 3) = false := by decide

theorem test_wf_sysx : Instr.wf (.sysx 0 .status 3) = false := by decide

theorem test_wf_tcvt_same : Instr.wf (.tcvt 0 1 2 .e4m3 0 0 .e4m3) = false := by decide

theorem test_wf_tcvt_tc8 : Instr.wf (.tcvt 0 1 2 .e4m3 0 0 .tc8) = false := by decide

theorem test_wf_tcvt_f4 : Instr.wf (.tcvt 0 1 2 .fp32 0 0 .f4) = false := by decide

theorem test_wf_tcvt_book : Instr.wf (.tcvt 0 1 2 .e4m3 0 1 .fp16) = false := by decide

theorem test_wf_tcvt_part : Instr.wf (.tcvt 0 1 2 .e4m3 2 0 .fp16) = false := by decide

theorem test_wf_tred : Instr.wf (.tred 0 1 2 1 .rn .e4m3) = false := by decide

theorem test_wf_mma_tc_a : Instr.wf (.mmaTc 0 1 2 3 0 1 .e4m3Tc8) = false := by decide

theorem test_wf_mma_tc_b : Instr.wf (.mmaTc 0 1 2 3 1 0 .tc8E4m3) = false := by decide

theorem test_wf_ccvt_e4m3 : Instr.wf (.ccvtE4m3 0 1 2 1 .rn) = false := by decide

theorem test_wf_ccvt_e5m2 : Instr.wf (.ccvtE5m2 0 1 2 1 .rn) = false := by decide

theorem test_wf_ccvt_f16 : Instr.wf (.ccvtF16 0 1 2 2 .rn) = false := by decide

theorem test_wf_ccvt_bf16 : Instr.wf (.ccvtBf16 0 1 2 2 .rn) = false := by decide

theorem test_wf_ccvt_f32 : Instr.wf (.ccvtF32 0 1 2 4 .rn) = false := by decide

theorem test_wf_ccvt_f4 : Instr.wf (.ccvtF4 0 1 2 2 .rn) = false := by decide

theorem test_wf_fence_acq : Instr.wf (.fenceAcq 0 0 1 .core) = false := by decide

theorem test_wf_fence_rel : Instr.wf (.fenceRel 0 0 128 .core) = false := by decide

theorem test_wf_fence_ar : Instr.wf (.fenceAr 0 0 3 .core) = false := by decide

theorem test_wf_copy_g2l : Instr.wf (.copyG2l 0 2 1 0) = false := by decide

theorem test_wf_copy_l2g : Instr.wf (.copyL2g 0 2 1 0) = false := by decide

theorem test_wf_copy_g2l_b : Instr.wf (.copyG2lB 0 2 1 0 3) = false := by decide

theorem test_wf_copy_l2g_b : Instr.wf (.copyL2gB 0 2 1 0 3) = false := by decide

theorem test_wf_copy_resume : Instr.wf (.copyResume 0 0) = false := by decide

theorem test_wf_copy_cancel : Instr.wf (.copyCancel 0 0) = false := by decide

theorem test_wf_copy_chk : Instr.wf (.copyChk 0 0) = false := by decide

theorem test_wf_task_info : Instr.wf (.taskInfo 0 1 7) = false := by decide

theorem test_wf_ste_cfg : Instr.wf (.steCfg 0 0 1) = false := by decide

theorem test_wf_ste_ins : Instr.wf (.steIns 0 0 1) = false := by decide

theorem test_wf_ste_upd : Instr.wf (.steUpd 0 0 1) = false := by decide

theorem test_wf_ste_draw : Instr.wf (.steDraw 0 0 1 0) = false := by decide

theorem test_wf_ste_sum_d : Instr.wf (.steSum 0 0 1) = false := by decide

theorem test_wf_ste_sum_q : Instr.wf (.steSum 0 1 5) = false := by decide

theorem test_wf_range_rd : Instr.wf (.rangeRd 0 1 2 3) = false := by decide

/-! ## States -/

open Sys2Proof.Machine

/-- A stream that is ready at 0x4000, with the registers after reset, of a core that no context holds. -/
def plain : State := State.reset.setStream 0 { State.reset.stream 0 with run := .ready, pc := 0x4000 }

/-- The machine with a word at 0x4000 of stream 0, whose context maps the first GiB onto itself. -/
def word (w : Nat) : State := State.reset.withFetchWord 32 w

/-- The machine with two words at 0x4000. -/
def words (w : Nat) : State := (word 0).merge unitWriter (placed 0x4000 (leBytes 8 w))

/-- `mapped` has a second GiB that allows nothing, a third of full/empty words, a fourth with a malformed entry; and S1. -/
def mapped (x : Word) : State :=
  let s := (word 0).merge unitWriter (placed 0x2008 (leBytes 8 3) ++ placed 0x2010 (leBytes 8 (0xF + 2 ^ 52)) ++
    placed 0x2018 (leBytes 8 0x11F))
  s.writeS 1 x

/-- The running stream changed. -/
def tune (s : State) (f : Stream → Stream) : State := s.setMe (f s.me)

/-- The next state of an outcome has the property. -/
def after (o : Out) (f : State → Bool) : Bool :=
  match o with
  | .next t => f t
  | _ => false

/-- What an operation answers, where it answers, has the property. -/
def gives {σ ε α : Type} (p : σ × Except ε α) (f : σ → α → Bool) : Bool :=
  match p with
  | (t, .ok a) => f t a
  | _ => false

/-- A checked address is the place. -/
def isPlace (c : Checked Nat) (place : Nat) : Bool :=
  match c with
  | .ok p => p == place
  | _ => false

/-! ## One word each -/

/-- An immediate is sign-extended (R52). -/
theorem test_movi : after (exec (.movi 0 0xFFF 5) plain) (fun t => t.readS 5 == BitVec.allOnes 64 && t.me.pc == 0x4004) = true := by
  decide +kernel

/-- -2^63 / -1 saturates (R98). -/
theorem test_div : after (exec (.div 0 5 1 2) ((plain.writeS 1 0x8000000000000000).writeS 2 0xFFFFFFFFFFFFFFFF))
    (fun t => t.readS 5 == 0x7FFFFFFFFFFFFFFF) = true := by decide +kernel

/-- A shift reads bits 5 to 0 of its amount (R99). -/
theorem test_shl : after (exec (.shl 0 5 1 2) ((plain.writeS 1 3).writeS 2 65)) (fun t => t.readS 5 == 6) = true := by
  decide +kernel

/-- A field past bit 63 is cut, and sign-extended from its top bit (R100). -/
theorem test_bfx : after (exec (.bfx 0 5 1 2) ((plain.writeS 1 0xF000000000000000).writeS 2 0x083C))
    (fun t => t.readS 5 == 0xFFFFFFFFFFFFFFFF) = true := by decide +kernel

/-- The word at 0x0678_8809 is `MOVI s9, 0x678` (chapter 02 of the spec). -/
theorem test_step_movi : after (step (word 0x06788809)) (fun t => t.readS 9 == 0x678 && t.me.pc == 0x4004) = true := by
  decide +kernel

/-- The all-zero parcel raises ILLEGAL, here at user level with `SYS.TRAPBASE` 0 (R37, R203). -/
theorem test_step_zero : after (step (word 0)) (fun t => t.me.ecause == 0 && t.me.epc == 0x4000 && t.me.pc == 0 && t.me.level) = true := by
  decide +kernel

/-- 1 + 2 is 3 in FP32 (R108). -/
theorem test_fadd : after (exec (.fadd 0 5 1 2 .rn) ((plain.writeS 1 0x3F800000).writeS 2 0x40000000))
    (fun t => t.readS 5 == 0x40400000) = true := by decide +kernel

/-- A load reads little-endian bytes (R53). -/
theorem test_ldw : after (exec (.ldW 0 0 8 5) ((word 0).merge unitWriter (placed 8 [0x78, 0x56, 0x34, 0x92])))
    (fun t => t.readS 5 == 0xFFFFFFFF92345678) = true := by decide +kernel

/-- A load of a page that is not mapped raises PAGE with its address (R223). -/
theorem test_ldd_page : after (exec (.batLdD 5 1) (mapped 0x200000000))
    (fun t => t.me.ecause == 4 && t.me.eaddr == 0x200000000 && t.readS 5 == 0) = true := by decide +kernel

/-- An atomic returns the old value and leaves the sum at the home (R244). -/
theorem test_atom_add : after (exec (.atomAdd 0 5 1 2 1) (((mapped 0x4000).writeS 2 5).merge unitWriter [(0x4000, 10)]))
    (fun t => t.readS 5 == 10 && t.byteAt 0x4000 == 15 && t.me.pc == 0x4004) = true := by decide +kernel

/-- A lane wraps and does not carry into the next (R139). -/
theorem test_vadd_lanes : after (exec (.vaddI 0 2 0 1) (tune plain fun t => { t with
      v := (t.v.set 0 0xFFFFFFFF).set 1 1 })) (fun t => t.me.v[2] == 0) = true := by decide +kernel

/-- The first member of a free group gives it its size (R312). -/
theorem test_gjoin : after (exec (.gjoin 0 1 1 0) (mapped 0x20001)) (fun t => t.readP 1 && (t.group 0 1).size == 2 && t.isMember 1) = true := by
  decide +kernel

/-- A store enters the queue and memory stays (R234); the steps of the queue carry it out. -/
theorem test_store_queue : after (exec (.stB 0 1 0 5) ((mapped 0).writeS 5 7)) (fun t =>
    t.me.storeQ.length == 1 && t.byteAt 0 == 0) = true := by decide +kernel

/-! ## Witnesses: states and operands that meet the hypotheses of the statements -/

/-- The words of the register files need a true guard and a word that passes on: RegistersReadBack,
BatAndImmediateArithmetic, IntegerAndLogicWords, BitAndNarrowWords, MovesAndPredicateWords, ScalarFloatingPoint and the
vector and tile statements. -/
theorem witness_plain_word : plain.readP 0 = true ∧ plain.Passes 2 ∧ plain.Passes 4 ∧ plain.Passes 8 ∧
    plain.me.level = false ∧ (tune plain fun t => { t with level := true }).me.level = true := by
  simp only [State.Passes, Stream.PassesTo]; decide +kernel

/-- The writes of loop pairs, at each pair (MovesAndPredicateWords). -/
theorem witness_loop_writes : ∀ n : Fin 4,
    (tune plain fun t => { t with i := t.i.set n 5 }).Passes 4 ∧ (tune plain fun t => { t with lc := t.lc.set n 5 }).Passes 4 ∧
    (tune plain fun t => { t with lb := t.lb.set n 0x0001000000005000 }).Passes 4 := by
  simp only [State.Passes, Stream.PassesTo]; decide +kernel

/-- What a word waits for is there: Spec.operandsAtHand. -/
def atHand (t : State) (ps : List (BitVec 16)) : Bool :=
  (!t.readP (guardOf ps) || (!(scalarReads ps).any t.me.isPending && (!blocksStream ps || t.me.unproduced (t.me.readNames ps) == []))) &&
    (!actsOnce ps || t.me.trb == []) && (!(t.readP (guardField ps) && takesToken ps) || t.tokenRoom t.myCore)

/-- Stream 0 may take a word: Spec.mayDecode. -/
def decodes (s : State) : Bool := s.rotation 0 == some 0 && decide ((s.stream 0).trb.length < 24)

/-- A brick at the head of stream 0 arrives, with no breakpoint on it. -/
def arrives (w : Nat) (valid : Bool) : Bool :=
  let s1 : State := { word w with agenda := [], cur := 0 }
  let l := [BitVec.ofNat 16 w, BitVec.ofNat 16 (w / 65536)]
  (word w).agenda == [.slot 0] && decodes s1 && gives (s1.takeSlot 0).fetchAll fun t ps => ps == (l, l) &&
    (t.breakpointAt t.me.pc).isNone && validWord l == valid && (!valid || ((t.frontCause l).isNone && atHand t l))

/-- The first reserved minor of each major, the last one; words that decode: a plain one, one that takes effect once, one that
takes a token's register (IntegerAndLogicWords, BitAndNarrowWords, MovesAndPredicateWords, StepRunsTheDecodedInstruction). -/
theorem witness_arrivals : ([0x8014, 0x801F, 0x810B, 0x820E, 0x830A, 0x8506, 0x8409, 0x900C, 0x9108].all (arrives · false)) = true ∧
    ([0x06788809, 0x190AAD03, 0x2160F200].all (arrives · true)) = true ∧
    actsOnce [0xAD03, 0x190A] = true ∧ takesToken [0xF200, 0x2160] = true ∧
    decodeTableWord 32 0x06788809 = some (.movi 0 0x678 9) := by decide +kernel

/-- RepresentableValuesRoundToThemselves: the largest finite FP32 code, and a subnormal one. -/
theorem witness_finite_code : (0x7F7FFFFF < 2 ^ Fmt.fp32.bits ∧ Fmt.fp32.value 0x7F7FFFFF = .fin false 0xFFFFFF 104) ∧
    Fmt.fp32.value 1 = .fin false 1 (-149) := by decide +kernel

/-- TransfersOfControl: a target in S1, an odd one in S2, one beyond the space in S3; conditions that hold and that do not; a pc from
which an offset leaves the space. StepFollowsTheWord: the single-step bit is set, and no pair ends behind the word. -/
theorem witness_transfers :
    let s := ((plain.writeS 1 0xFFFFFFFFFFFE).writeS 2 1).writeS 3 0x1000000000000
    s.me.step = false ∧ (s.readS 1).getLsbD 0 = false ∧ (s.readS 1).toNat < 2 ^ 48 ∧
    (s.me.pc + BitVec.ofInt 64 (2 * (-1 : Int))).getLsbD 0 = false ∧ (s.me.pc + BitVec.ofInt 64 (2 * (-1 : Int))).toNat < 2 ^ 48 ∧
    s.readP 0 = true ∧ s.readP 1 = false ∧ (s.readS 2).getLsbD 0 = true ∧ (s.readS 3).getLsbD 0 = false ∧
    2 ^ 48 ≤ (s.readS 3).toNat ∧
    (let a : Word := 0xFFFFFFFFFFFC + BitVec.ofInt 64 (2 * (2 : Int))
     a.getLsbD 0 = false ∧ 2 ^ 48 ≤ a.toNat) ∧ ((3 : Word) + BitVec.ofInt 64 (2 * (2 : Int))).getLsbD 0 = true ∧
    (tune s fun t => { t with step := true }).me.step = true ∧
    (∀ n : Fin 4, ¬ Spec.ends s.me n.val 0x4004) ∧ (0x4004 : Word).toNat < 2 ^ 48 := by
  simp only [Spec.ends, Spec.bodyEnd, Spec.bodyStart]; decide +kernel

/-- A stream at the end of the one-parcel bodies of pairs 0 and 2. -/
def looping (n : BitVec 32) : Stream :=
  { plain.me with lc := #v[2, 0, n, 0], lb := #v[0x0001000000004002, 0, 0x0001000000004002, 0] }

/-- EndCheckCountsIterations: no pair ends there; one with iterations left; one with its last. -/
theorem witness_end_check : (∀ n, ¬ Spec.ends plain.me n 0x4004) ∧
    (∀ k : Fin 2, Spec.ends (looping (1 + k.val)) 2 0x4004 ∧ ∀ m : BitVec 2, 2 < m → ¬ Spec.ends (looping (1 + k.val)) m 0x4004) ∧
    (looping 2).lc[2] ≠ 1 ∧ (looping 1).lc[2] = 1 := by
  simp only [Spec.ends, Spec.bodyEnd, Spec.bodyStart]; decide +kernel

/-- Stream 0 at the end of the body of pairs 0 and 2, of a bat or a brick, with `n` iterations left to pair 2. -/
def atEnd (n : BitVec 32) : State :=
  tune plain fun t => { t with lc := #v[0, 0, n, 0], lb := #v[0, 0, 0x0001000000004002 + (if n < 4 then 0 else 2), 0] }

/-- WordsLoopBack: bodies that end behind a bat and behind a brick, with iterations left and with none. -/
theorem witness_words_loop : (∀ k : Fin 2, (∀ n : Fin 2, Spec.ends (atEnd (1 + n.val + 4 * k.val)).me 2 (0x4004 + BitVec.ofNat 64 (2 * k.val))) ∧
      ∀ m : BitVec 2, m ≠ 2 → ¬ Spec.ends (atEnd (1 + 4 * k.val)).me m (0x4004 + BitVec.ofNat 64 (2 * k.val))) ∧
    (atEnd 1).me.step = false ∧ (atEnd 2).me.lc[2] ≠ 1 ∧ (atEnd 1).me.lc[2] = 1 ∧ (0x4006 : Word).toNat < 2 ^ 48 ∧
    ((atEnd 1).writeS 3 ((atEnd 1).readS 4)).me.lc = (atEnd 1).me.lc := by
  simp only [Spec.ends, Spec.bodyEnd, Spec.bodyStart]; decide +kernel

/-- LoopAndLexit: a count of 3, one of 0 and the exit of an active pair. -/
theorem witness_loop : let t (c : BitVec 32) := tune plain fun t => { t with
      lb := t.lb.set 1 (BitVec.ofNat 64 (4 * 2 ^ 48 + 0x4004)), lc := t.lc.set 1 c, i := t.i.set 1 0 }
    (t 3).Passes 4 ∧ (t 0).me.PassesTo (plain.me.pc + 4 + BitVec.ofNat 64 8) ∧ (t 3).me.lc[1] ≠ 0 ∧
    (tune (t 3) fun u => { u with lc := u.lc.set 1 0 }).me.PassesTo (Spec.bodyEnd (t 3).me 1) ∧ plain.me.lc[1] = 0 := by
  simp only [State.Passes, Stream.PassesTo, Spec.bodyEnd, Spec.bodyStart]; decide +kernel

/-- A prefix and the parcels behind it, ready to run as a pair. -/
def pairReady (w : Nat) (l : List (BitVec 16)) : Bool :=
  let s := words w
  gives (s.fetchWord (s.me.pc + 4)) fun t ps => ps == l && t.me.pc == s.me.pc &&
    (List.range 4).all (fun n => !t.me.endsAt (BitVec.ofNat 2 n) (s.me.pc + 4) && !t.me.endsAt (BitVec.ofNat 2 n) (s.me.pc + 6)) &&
    (t.breakpointAt (s.me.pc + 4)).isNone && t.me.pending == [] && t.readP 0 &&
    (List.range 4).all (fun n => !t.me.endsAt (BitVec.ofNat 2 n) (s.me.pc + 8)) && !neverFetched (s.me.pc + 8) && !t.me.step

/-- Reads of the ranges may be made, in a state with the property: Spec.MayRead. -/
def mayRead (s : State) (via : Via) (ranges pieces : List (Nat × Nat × Nat)) (f : State → Bool) : Bool :=
  !ranges.any (s.rangeHeld s.cur) && match s.drainFor ranges with
    | (v, true) => v.me.faultMark == s.me.faultMark && (let u := v.startReads via pieces; !u.heldBack u.cur && f u)
    | _ => false

/-- The word of `len` bytes goes on after its reads: Spec.GoesOn. -/
def goesOn (s t : State) (len : Nat) : Bool :=
  let a := t.me.pc + BitVec.ofNat 64 len
  t.me.faultMark == s.me.faultMark && t.me.pc == s.me.pc && !neverFetched a && !t.me.step &&
    (List.range 4).all fun n => !t.me.endsAt (BitVec.ofNat 2 n) a

/-- A scalar access of `n` bytes finds its bytes and goes on: Spec.Reads, Spec.GoesOn. -/
def reads (s : State) (via : Via) (n : Nat) (ea : Word) (place len : Nat) : Bool :=
  isPlace (s.checkScalar ea { size := n, acc := .load, window := true, via := some via }) place &&
    mayRead s via [s.rangeOf ea place n] [(ea.toNat % 2 ^ 48, place, n)] fun u =>
      gives (u.readPiece u.myCore u.myCtxId via (ea.toNat % 2 ^ 48) place n) fun t l => l.length == n && goesOn s t len

/-- PairsWithAnImmediate: a prefix before MOVI and before LD.D (whose page is mapped), before a bat and before a prefix. -/
theorem witness_pairs : pairReady 0x067888092345FF10 (encode (.movi 0 0x678 9)) = true ∧
    pairReady 0x0040A6052345FF10 (encode (.ldD 0 0 0x040 5)) = true ∧
    reads (words 0x0040A6052345FF10) .l1 8 0x12345040 0x12345040 8 = true ∧
    gives ((words 0x08672345FF10).fetchWord 0x4004) (fun _ ps => ps == [0x0867]) = true ∧
    gives ((words 0x2345FF102345FF10).fetchWord 0x4004) (fun t ps => ps == encode (.imx 1 0x2345) && t.me.pc == 0x4000) = true := by
  decide +kernel

/-- FalseGuardHasNoEffect: an ADD under P1, which is false. -/
theorem witness_false_guard : encode (.add 1 2 3 4) = [0x8020, 0x10C8] ∧ majorOf 0x8020 = 0 ∧ Spec.levelFits plain (.add 1 2 3 4) ∧
    plain.readP ((0x8020 : BitVec 16).extractLsb' 5 3) = false := by
  refine ⟨by decide, by decide, trivial, by decide +kernel⟩

/-- A stream at supervisor level that core 0 of a context holds. -/
def handler : State := tune (word 0) fun t => { t with level := true }

/-- TakingAnException and StopMarksTheStream: a stream at user level, with a host value held and without; one at supervisor
level with no group, in a context. PrivilegedWordsRaisePriv and ReturnAndTrapWords: both levels. -/
theorem witness_levels : Cause.illegal ≠ .uncorr ∧ Cause.hostIrq ≠ .freeze ∧ plain.me.level = false ∧ plain.me.hostQueue = [] ∧
    (tune plain fun t => { t with hostQueue := [7] }).me.hostQueue = 7 :: [] ∧
    handler.me.level = true ∧ (handler.stream 0).groups = [] ∧ handler.ownerOf (0 / 4) = some (0, 0) ∧
    (handler.me.pending.any fun e => e.reg == 28) = false ∧ handler.readP 0 = true ∧ handler.me.step = false := by decide +kernel

/-- SystemRegisterWords: at supervisor level every register is in reach; a cause code of 18 and one of 19; a deadline ahead of
the time and one at it. -/
theorem witness_system_registers : (∀ r : Fin 2, Spec.levelFits handler (.sysr 0 (if r = 0 then .epc else .srseed) 1)) ∧
    (18 : Word).toNat % 64 ≤ 18 ∧ 18 < (19 : Word).toNat % 64 ∧
    (let s := handler.setDie 0 { handler.die 0 with time := BitVec.ofNat 104 (5 * 2 ^ 40) }
     s.now s.myDie < (6 : Word).toNat ∧ (5 : Word).toNat ≤ s.now s.myDie) := by
  refine ⟨fun r => ?_, by decide, by decide, by decide +kernel⟩
  match r with
  | 0 => exact (by decide +kernel : handler.me.level = true)
  | 1 => exact trivial

/-- DecodeOfEncode, DecodeIsExact and ReservedOpcodesAreRejected. -/
theorem witness_codes : Instr.wf (.shli 0 63 5) = true ∧ encode (.shli 0 63 5) ≠ [] ∧
    decode [0x0867, 1] = .ok (.batAdd 3 7, [1]) ∧ (0x03FF : BitVec 16).getLsbD 15 = false ∧ (0x03FF : BitVec 16).toNat / 2 ^ 10 = 0 ∧
    16 ≤ (0x4000 : BitVec 16).toNat / 2 ^ 10 ∧ (0x8600 : BitVec 16).getLsbD 15 = true ∧
    (0x8600 : BitVec 16).toNat / 2 ^ 8 % 2 ^ 7 = 0x06 ∧ (0xFB00 : BitVec 16).toNat / 2 ^ 8 % 2 ^ 7 = 0x7B := by
  refine ⟨by decide, by decide, rfl, ?_⟩; decide

/-- The bytes of a line of core 0's die are at its home, sound, and their keys follow one another. -/
def soundLine (s : State) (line : Nat) : Bool :=
  s.homeDie line == s.myDie && [0, 32, 64, 96].all (fun o => s.sectorGood (line + o) && !(s.sector (line + o)).poison) &&
  (List.range 128).all fun i => s.cellKey (line + i) == s.cellKey line + i

/-- FetchReadsOrFaults: a parcel of mapped memory. -/
theorem witness_fetch : (let s := word 0x06788809
      s.translate 0x4000 .fetch = .ok 0x4000 false ∧ SMap.find (s.core s.myCore).l1i 0x4000 = none ∧ soundLine s 0x4000 = true ∧
      s.walkReaches s.myCore s.myCtxId 0x4000 = true ∧ s.heldCtx s.myCtxId = false ∧ s.regulated s.myCtxId = false) := by
  decide +kernel

/-- What a fetch answers is the cause with the address. -/
def failsWith {σ α : Type} (p : σ × Except FetchFault α) (c : Cause) (a : Word) : Bool :=
  match p.2 with
  | .error (.cause x e) => x == c && e == a
  | _ => false

/-- FetchReadsOrFaults: pages that are not mapped and that forbid the fetch; a word whose second parcel stands on such a page, and
a pair whose second word does. -/
theorem witness_fetch_causes : (let s := mapped 0
      s.walkReaches s.myCore s.myCtxId 0x200000000 = true ∧ s.translate 0x200000000 .fetch = .page ∧
      s.walkReaches s.myCore s.myCtxId 0x40000000 = true ∧ s.translate 0x40000000 .fetch = .prot) ∧
    (let s := (mapped 0).merge unitWriter (placed 0x3FFFFFFC [0x10, 0xFF, 0x45, 0xA3])
     gives (s.fetchParcel 0x3FFFFFFE) (fun t p => p.getLsbD 15 && failsWith (t.fetchParcel 0x40000000) .prot 0x40000000) = true ∧
     (let u := tune s fun t => { t with pc := 0x3FFFFFFC }
      gives (u.fetchWord u.me.pc) (fun t ps => isPrefix ps && failsWith (t.fetchWord (t.me.pc + 4)) .prot 0x40000000) = true)) := by
  decide +kernel

/-- A fetch at the address fails with PAGE. -/
def fetchFails (a : Word) : Bool :=
  let s1 : State := { tune (word 0) (fun t => { t with pc := a }) with agenda := [], cur := 0 }
  decodes s1 && failsWith (s1.takeSlot 0).fetchAll .page a

/-- FetchReadsOrFaults: a pc beyond the space, and one on a page that is not mapped. -/
theorem witness_fetch_fails : fetchFails 0x1000000000000 = true ∧ fetchFails 0x200000000 = true := by decide +kernel

/-- A scalar store of `n` bytes may enter the queue: Spec.Stores. -/
def stores (s : State) (n : Nat) (ea : Word) (place : Nat) : Bool :=
  isPlace (s.checkScalar ea { size := n, acc := .store, window := true }) place && !s.me.countFull (s.me.tracking s.myCore [s.rangeOf ea place n])

/-- ScalarLoadsWriteTheRegister and ScalarStoresEnterTheQueue: each size at the last place of a line, the 64-bit one at the
home too. -/
theorem witness_scalar_accesses : ([1, 2, 4, 8].all fun n => let a := 0x4080 - n
      reads (mapped 0) .l1 n (BitVec.ofNat 64 a) a 4 && stores (mapped 0) n (BitVec.ofNat 64 a) a) = true ∧
    reads (mapped 0) .home 8 0x4080 0x4080 4 = true ∧ reads (mapped 0) .l1 8 0x4000 0x4000 2 = true := by decide +kernel

/-- The machine with a line in the L1D of core 0, and a copy of a line of die 1 on die 0. -/
def cached : State :=
  let s := mapped 0
  let t := s.setCore 0 { s.core 0 with l1d := [(0x4000, ⟨0, 0x4000, 5, 0, []⟩)] }
  t.setDie 0 { t.die 0 with guest := [(0x5000000, ⟨0, 0x5000000, 6, 0, []⟩)] }

/-- A line whose home is on die 1. -/
def farLine : Nat := (((List.range 64).map fun i => 0x5000000 + 128 * i).find? fun a => (mapped 0).homeDie a == 1).getD 0

/-- ReadsReturnCachedOrHomeBytes: a cached line, the last byte of it; a guest copy; a line that nothing caches. -/
theorem witness_cached : 127 + 1 ≤ 128 ∧ (SMap.find (cached.core 0).l1d 0x4000).map (·.poison) = some 0 ∧
    SMap.find (cached.core 0).l1d farLine = none ∧ cached.homeDie farLine ≠ dieOfCore 0 ∧ farLine ≠ 0 ∧
    SMap.find (cached.core 0).l1d 0x6000 = none ∧ SMap.find (cached.die 0).guest 0x6000 = none ∧
    soundLine (mapped 0) (if (mapped 0).homeDie 0x6000 = 0 then 0x6000 else 0x6080) = true ∧
    cached.ahead = [] ∧ cached.cur = 0 ∧ cached.myCore = 0 ∧ (List.replicate 64 (7 : Byte)).length = 64 ∧
    0x4030 + 16 ≤ 0x4000 + 64 ∧ 0x4000 % 64 = 0 := by decide +kernel

/-- R272: the next word's read of a block is made at once, and a plain load then finds what it read, not the newer bytes. -/
theorem test_read_ahead :
    (((mapped 0).readEarly 0 1 0x6000 64 .l1).ahead.map fun a => (a.word, a.place)) = [((mapped 0).me.seqNext + 1, 0x6000)] ∧
    (let s := tune { cached with ahead := [⟨0, 9, .l1, 0x4000, List.replicate 64 7⟩] } fun t => { t with seqNext := 9 }
     gives (s.readPiece 0 0 .l1 0x4000 0x4000 2) fun _ l => l == [7, 7]) = true := by decide +kernel

/-- A machine none of whose modules is in service. -/
def unlinked : State := { mapped 0 with modules := (List.range 16).map fun m => (m, { inService := false }) }

/-- AddressChecksAndPrefetch: an address for each check, as a load of 8 bytes meets them; a walk that meets no link. -/
theorem witness_address_checks : unlinked.walkReaches 0 0 0x4000 = false ∧
    ([0x200000000, 0x40000000, 0x80000000].all ((mapped 0).walkReaches 0 0)) = true ∧
    Spec.scalarAccess (.ldD 0 1 0 5) = some (0, 1, 0, 8, .load) ∧
    ((0x1000000000000 : Word).toNat / 2 ^ 48 = 1 ∧ (0xFFFF000000000004 : Word).toNat / 2 ^ 48 = 0xFFFF ∧
      (0xFFFF000000000004 : Word).toNat % 8 ≠ 0) ∧
    (mapped 0).localBacked (mapped 0).myCore ((0xFFFF000000000008 : Word).toNat % 2 ^ 48) = false ∧
    (mapped 0).translate 0x200000000 .load = .page ∧ (mapped 0).translate 0x40000000 .load = .prot ∧
    (mapped 0).translate 0x80000000 .load = .ok 0 true ∧
    ([(0x200000000 : Word), 0x40000000, 0x80000000].all fun a => a.toNat / 2 ^ 48 == 0 && a.toNat % 8 == 0) = true := by decide +kernel

/-- TranslationWalksTheTree: leaves that allow and that forbid; entries that are invalid, malformed, leaves and tables. -/
theorem witness_walk : (mapped 0).leafOf 0 0 0x4000 = .leaf 0x1F (2 ^ 30) ∧ (mapped 0).leafOf 0 0 0x40000000 = .leaf 3 (2 ^ 30) ∧
    (3 : Word).getLsbD 2 = false ∧ ((mapped 0).die 0).walks = [] ∧
    (∀ a ∈ [0x1000, 0x2000, 0x2018, 0x2020], ((mapped 0).sector a).poison = false) ∧
    (mapped 0).natAt 0x1000 8 = 0x2001 ∧ malformedPte 0 0x2001 = false ∧ (mapped 0).natAt 0x2018 8 = 0x11F ∧
    malformedPte 1 0x11F = true ∧ malformedPte 1 0x1F = false ∧ (mapped 0).natAt 0x2020 8 = 0 := by decide +kernel

/-- A handle of two dimensions. -/
def handleOf (addr : Nat) (space : Bool) (fmt bounds e0 e1 stride1 : Nat) : Handle :=
  BitVec.ofNat 2048 (addr + space.toNat * 2 ^ 63 + fmt * 2 ^ 64 + 2 * 2 ^ 72 + bounds * 2 ^ 80 + e0 * 2 ^ 512 + e1 * 2 ^ 544 +
    stride1 * 2 ^ 1088)

/-- Reads of pieces find their bytes: Spec.ReadsPieces. -/
def readsPieces (s : State) (via : Via) (range : Nat × Nat × Nat) (pieces : List (Nat × Nat × Nat)) (p : List Byte → Bool)
    (whole : List Nat := []) : Bool :=
  mayRead s via [range] pieces fun u => gives (u.readPieces u.myCore u.myCtxId via pieces whole) fun t l => p l && goesOn s t 4

/-- A place for a window of FP32 elements: 4 by 4, 16 bytes a row. -/
def window4 : Handle := handleOf 0x8000 false 6 0 4 4 16

/-- The machine with the image of `window4` at 0x4100, its address in S1, the handle in H1. -/
def withHandle : State :=
  let s := (mapped 0x4100).merge unitWriter (placed 0x4100 (leBytes 256 window4.toNat))
  tune s fun t => { t with h := t.h.set 1 window4 }

/-- HandleMemoryWords: an image that is a valid handle at an aligned address, which may also be stored to; one at a
misaligned address. -/
theorem witness_handle_images : window4.valid = true ∧ isPlace (withHandle.checkSpace false 0x4100 .load) 0x4100 = true ∧
    isPlace (withHandle.checkSpace false 0x4100 .store) 0x4100 = true ∧
    readsPieces withHandle .l2 (withHandle.spaceRange false 0x4100 256) [(0x4100, 0x4100, 128), (0x4180, 0x4180, 128)]
      (fun l => (Handle.clean (BitVec.ofNat 2048 (leNat l))).valid) = true ∧
    readsPieces withHandle .l2 (withHandle.spaceRange false 0x5000 256) [(0x5000, 0x5000, 128), (0x5080, 0x5080, 128)]
      (fun l => !(Handle.clean (BitVec.ofNat 2048 (leNat l))).valid) = true ∧
    withHandle.me.countFull (withHandle.me.tracking withHandle.myCore [withHandle.spaceRange false 0x4100 256]) = false ∧
    (0x4101 : Word).toNat % 256 ≠ 0 := by decide +kernel

/-- HandleAndExtensionWords: dimension 1 of `window4` set to what it is, and the handle moved by 0, where it stays; the same
dimension with no extent; a dimension that it lacks; packed formats; a move out of the space; a handle that is not valid. -/
theorem witness_handle_words : (1 : BitVec 4).toNat < window4.ndim ∧ window4.valid = true ∧ window4.extent 1 = (4 : Word).toNat % 2 ^ 32 ∧
    window4.stride 1 = (16 : Word).toInt ∧ window4.fmt = some .fp32 ∧ (0 : Int) ≤ window4.addr + 0 * window4.stride 1 ∧
    (window4.addr : Int) + 0 * window4.stride 1 < 2 ^ 48 ∧ window4.space = false ∧
    (let h := handleOf 0x8000 false 6 0 4 0 16
     h.valid = false ∧ h.extent 1 = 0 ∧ h.stride 1 = window4.stride 1) ∧ window4.ndim ≤ 2 ∧
    (0 < (handleOf 0x8000 false 12 0 32 1 64).ndim ∧ (handleOf 0x8000 false 12 0 32 1 64).fmt = some .f4 ∧ (1 : Word).toInt % 32 ≠ 0 ∧
      (handleOf 0x8000 false 13 0 21 1 64).fmt = some .p6 ∧ (1 : Word).toInt % 21 ≠ 0) ∧
    (window4.addr : Int) + (-0x8000) * window4.stride 1 < 0 ∧ (0 : Handle).valid = false := by decide +kernel

/-- ElementAccess: the corners of the window and a coordinate beside it, under each bounds policy. -/
theorem witness_elements : ∀ b : Fin 3, let h := handleOf 0x8000 false 6 b.val 4 4 16
    h.fmt = some .fp32 ∧ h.ndim = 2 ∧ h.bounds = b.val ∧ h.extent 0 = 4 ∧ h.extent 1 = 4 ∧ (0 : Int) ≤ 3 ∧ (3 : Int) < h.extent 0 ∧
    ¬ (4 : Int) < h.extent 0 := by decide +kernel

/-- V0 holds a NaN in lane 0, and the trap for elements that are not finite is on. -/
def unbounded : State := tune plain fun t => { t with v := t.v.set 0 0x7FC00000, nftrap := true }

/-- VectorFloatingPoint, VectorConversions: the trap is off; or on, with the first element that is not finite. -/
theorem witness_vector_floats : plain.me.nftrap = false ∧ unbounded.me.nftrap = true ∧
    Fmt.fp32.nonFinite (Fmt.fp32.sum (Spec.rnd unbounded .rn) 0 [Spec.laneVal unbounded 0 0, Spec.laneVal unbounded 0 0]) = true ∧
    Fmt.fp16.nonFinite (Fmt.fp16.ofVal (Spec.rnd unbounded .rn) 0 (Spec.srcVal unbounded 0 0 0)) = true := by decide +kernel

/-- VectorReductionsAndMoves: the trees and the scans of vectors of zeros. -/
theorem witness_trees : Spec.Tree (fun _ (p q : Nat) => Fmt.fp32.pick true p q) (fun _ => 0) (fun _ => 0) ∧
    Spec.Tree (fun n p q => Fmt.fp32.sum (Spec.rnd plain .rn) n [Fmt.fp32.value p, Fmt.fp32.value q]) (fun _ => 0) (fun _ => 0) ∧
    Spec.Tree (fun _ (p q : BitVec 32) => p + q) (fun _ => 0) (fun _ => 0) ∧
    Spec.ScanOf (fun _ (p q : BitVec 32) => p + q) (fun _ => 0) (fun _ _ => 0) ∧ (∀ i : Fin 64, Spec.lane plain 0 i.val = 0) := by
  refine ⟨⟨fun _ _ => rfl, fun _ _ _ => ?_⟩, ⟨fun _ _ => rfl, fun n _ _ => ?_⟩, ⟨fun _ _ => rfl, fun _ _ _ => rfl⟩,
    ⟨fun _ _ => rfl, fun k i _ _ => ?_⟩, by decide +kernel⟩
  · exact (by decide : (0 : Nat) = Fmt.fp32.pick true 0 0)
  rotate_left
  · show (0 : BitVec 32) = if 2 ^ k ≤ i then 0 + 0 else 0
    split <;> rfl
  have h : Spec.rnd plain .rn = ⟨.rn, 0⟩ := by decide +kernel
  simp only [h]
  have all : ∀ n : Fin 64, 0 = Fmt.fp32.sum ⟨.rn, 0⟩ n.val [Fmt.fp32.value 0, Fmt.fp32.value 0] := by decide +kernel
  exact all ⟨n, by assumption⟩

/-- CodebookAndBlockEncoding: a sorted codebook whose entries are all +0, one that is not sorted, values that are numbers, and a
block with a NaN. -/
theorem witness_codebooks : (plain.me.k[0]).sorted = true ∧ (plain.me.k[0]).entries = 0 ∧
    (Fmt.e8m10.value 0).isNan = false ∧ (Fmt.e8m10.value 0).isInf = false ∧ (Spec.srcVal plain 0 0 127).isNan = false ∧
    ((tune plain fun t => { t with k := t.k.set 1 ⟨0, false⟩ }).me.k[1]).sorted = false ∧
    (encodeF4 (Spec.rnd unbounded .rn) 0 ((List.range 32).map fun i => Spec.srcVal unbounded 0 0 i)).1 = 0xFF := by decide +kernel

/-- Where the lanes of a contiguous vector at S1 stand. -/
def laneAddr (s : State) (i : Nat) : Word := s.readS 1 + BitVec.ofNat 64 (4 * i)

/-- VectorLoadsAndStores: addresses with every lane at its place, which read and may be stored to; a misaligned first lane; a
first lane on a page that is not mapped; a mask without a lane. -/
theorem witness_vector_accesses : (let s := mapped 0x4000
      (List.range 64).all (fun i => (laneAddr s i).toNat % 4 == 0 && isPlace (s.checkSpace false (laneAddr s i) .load) (0x4000 + 4 * i) &&
        isPlace (s.checkSpace false (laneAddr s i) .store) (0x4000 + 4 * i)) = true ∧
      readsPieces s .l1 (s.laneRange false ((List.range 64).map (laneAddr s)))
        ((List.range 64).map fun j => ((laneAddr s j).toNat, 0x4000 + 4 * j, 4)) (fun _ => true) = true ∧
      s.me.countFull (s.me.tracking s.myCore [s.laneRange false ((List.range 64).map (laneAddr s))]) = false ∧
      ((List.range 64).filter fun i => Spec.lane s 0 i != 0) = []) ∧
    (laneAddr (mapped 2) 0).toNat % 4 ≠ 0 ∧
    ((mapped 0x200000000).checkSpace false (laneAddr (mapped 0x200000000) 0) .load matches .no (.trap .page _)) = true := by
  decide +kernel

/-- TileAndAccumulatorMoves, TileConversions and MatrixProducts: modes that are codes and that are not; conversions to as many,
fewer and more elements, and to F4; pattern codes that name a pair, and one that does not; elements that are not finite. -/
theorem witness_tiles : RMode.ofCode (plain.me.x[0].toNat / 2 ^ 8 % 8) = some .rn ∧
    RMode.ofCode ((tune plain fun t => { t with x := t.x.set 0 0x500 }).me.x[0].toNat / 2 ^ 8 % 8) = none ∧
    (Instr.wf (.tcvt 0 0 1 .fp16 0 0 .fp32) = true ∧ perRow .fp32 ≤ perRow .fp16) ∧
    (Instr.wf (.tcvt 0 0 1 .fp32 0 0 .fp16) = true ∧ perRow .fp32 < perRow .fp16) ∧
    (Instr.wf (.tcvt 0 0 1 .fp16 0 0 .f4) = true ∧ perRow .fp16 < perRow .f4) ∧
    Instr.wf (.ccvtE4m3 0 0 1 0 .rn) = true ∧ Instr.wf (.ccvtF32 0 0 1 3 .rn) = true ∧ Instr.wf (.ccvtF4 0 0 1 1 .rn) = true ∧
    (plain.me.t[0]).rows.toNat / 2 ^ 0 % 8 < 6 ∧
    ((tune plain fun t => { t with t := t.t.set 0 ⟨7, 0⟩ }).me.t[0]).rows.toNat / 2 ^ 0 % 8 = 7 ∧
    (let s := tune plain fun t => { t with c := t.c.set 0 0x7F8000000, nftrap := true }
     Fmt.w36.nonFinite (Fmt.w36.ofVal (Spec.rnd s .rn) 0 ((Spec.acc s 0 0 0).mul (Spec.laneVal s 0 0))) = true) := by
  decide +kernel

/-- The reads of the items of a window may be made, in the same state. -/
def mayReadItems (s : State) (h : Handle) (items : List Item) : Bool :=
  mayRead s .l2 [itemRange h s.myCore items] (s.itemReads h .load items) fun u => u == s

/-- The machine with the first GiB in the TLB of core 0. -/
def warm : State := (mapped 0).setCore 0 { (mapped 0).core 0 with tlb := [⟨0, 0, 2 ^ 30, 0x1F⟩] }

/-- A window of a format that pads outside its single element, or its single block of F4 elements. -/
def padded (fmt : Nat) : Handle :=
  handleOf 0x8000 false fmt 1 (if fmt = 12 then 32 else 1) 1 64 + (if fmt = 12 then BitVec.ofNat 2048 (0x9000 * 2 ^ 192 + 0x8000 * 2 ^ 256) else 0)

/-- Items that may be stored, one at least (Spec.storesItems). -/
def storesItems' (s : State) (h : Handle) (l : List (Item × Nat)) : Bool :=
  match s.storeItems h l with
  | .ok cells => !cells.isEmpty && !s.me.countFull (s.me.tracking s.myCore [itemRange h s.myCore (l.map (·.1))])
  | .error _ => false

/-- TileLoadsAndStores: windows of FP32, F4, P6 and W36 elements that are read and stored. -/
theorem witness_windows : (∀ f ∈ [(6, ElemFmt.fp32), (12, .f4), (13, .p6), (14, .w36)], (padded f.1).fmt = some f.2 ∧ (padded f.1).ndim = 2) ∧
    (padded 12).extent 0 % 32 = 0 ∧ transposable .fp32 = true ∧ transposable .f4 = false := by decide +kernel

theorem witness_window_reads : mayReadItems warm (padded 6) (plainItems (padded 6) .fp32 0) = true ∧
    gives (warm.readItems (padded 6) (fun _ => false) (itemBlocks (plainItems (padded 6) .fp32 0)) (plainItems (padded 6) .fp32 0))
      (fun t _ => goesOn warm t 4) = true := by
  decide +kernel

theorem witness_window_stores : storesItems' (mapped 0) (padded 6) ((plainItems (padded 6) .fp32 0).zip (List.replicate 1024 0)) = true := by
  decide +kernel

theorem witness_f4_stores : storesItems' (mapped 0) (padded 12) ((f4Items (padded 12) 0).zip (f4Data default)) = true := by decide +kernel

theorem witness_acc_stores : storesItems' (mapped 0) (padded 14) ((accItems (padded 14)).zip (List.replicate 4096 0)) = true := by
  decide +kernel

/-- A list of items that is read and leaves the state as it is. -/
def leaves (s : State) (h : Handle) (bad : Nat → Bool) (blocks : List Nat) (l : List Item) : Bool :=
  gives (s.readItems h bad blocks l) fun t _ => t == s

theorem leaves_append (s : State) (h : Handle) (bad : Nat → Bool) (blocks : List Nat) (l r : List Item)
    (hl : leaves s h bad blocks l = true) (hr : leaves s h bad blocks r = true) : leaves s h bad blocks (l ++ r) = true := by
  unfold leaves gives at hl hr ⊢
  split at hl
  · rename_i t a h1
    split at hr
    · rename_i u b h2
      obtain rfl : t = s := eq_of_beq hl
      rw [readItems_append h bad blocks r l t t u a b h1 h2]
      exact hr
    · cases hr
  · cases hl

theorem leaves_flatten (s : State) (h : Handle) (bad : Nat → Bool) (blocks : List Nat) (l : List (List Item))
    (hl : l.all (leaves s h bad blocks) = true) : leaves s h bad blocks l.flatten = true := by
  induction l with
  | nil => simp [leaves, State.readItems, gives]
  | cons a l ih =>
    simp only [List.all_cons, Bool.and_eq_true] at hl
    exact leaves_append s h bad blocks a _ hl.1 (ih hl.2)

/-- The rows of a window of F4 elements, beside the block, and of one of W36 elements. -/
theorem witness_f4_reads : mayReadItems warm (padded 12) (f4Items (padded 12) 128) = true ∧
    itemBlocks (f4Items (padded 12) 128) = [] ∧ leaves warm (padded 12) (fun _ => false) [] (f4Items (padded 12) 128) = true ∧
    goesOn warm warm 4 = true := by
  refine ⟨?_, ?_, leaves_flatten _ _ _ _ _ ?_, ?_⟩ <;> decide +kernel

theorem witness_acc_reads : mayReadItems warm (padded 14) (accItems (padded 14)) = true ∧
    itemBlocks (accItems (padded 14)) = [] ∧
    leaves warm (padded 14) (fun w => decide (2 ^ 36 ≤ w)) [] (accItems (padded 14)) = true := by
  refine ⟨?_, ?_, leaves_flatten _ _ _ _ _ ?_⟩ <;> decide +kernel

/-- TileLoadsAndStores: a codebook at an aligned address, of entries that fit and with one that does not. -/
theorem witness_codebook_loads : (0x8001 : Word).toNat % 64 ≠ 0 ∧ (∀ bad : Fin 2,
    let s := (mapped 0x8000).merge unitWriter (placed 0x8004 (leBytes 4 (bad.val * 2 ^ 19)))
    readsPieces s .l2 (s.spaceRange false 0x8000 1024) ((List.range 16).map fun k => (0x8000 + 64 * k, 0x8000 + 64 * k, 64))
      (fun l => leNat ((l.drop 4).take 4) == bad.val * 2 ^ 19) = true) ∧
    ((List.range 16).all fun k => isPlace ((mapped 0).checkSpace false (0x8000 + BitVec.ofNat 64 (64 * k)) .load) (0x8000 + 64 * k)) = true := by
  decide +kernel

/-- An access passes its checks at the place (Spec.Reaches), where its bytes are read at the home (Spec.HomeRead), and what is made
of them has the property. -/
def homeRead (s : State) (ea : Word) (f : State.Form) (place : Nat) (p : State → State → List Byte → Bool) : Bool :=
  isPlace (s.checkScalar ea f) place &&
    mayRead s .home [s.rangeOf ea place f.size] [(ea.toNat % 2 ^ 48, place, f.size)] fun u =>
      gives (u.readAtHome u.cur place f.size) fun t l => l.length == f.size && p u t l

/-- The same of the state after the read, which goes on. -/
def reaches (s : State) (ea : Word) (f : State.Form) (place : Nat) : Bool := homeRead s ea f place fun _ t _ => goesOn s t 4

/-- A write may enter the store queue: Spec.Queues. -/
def queues (s : State) (ea : Word) (f : State.Form) (place : Nat) : Bool :=
  isPlace (s.checkScalar ea f) place && !s.me.countFull (s.me.tracking s.myCore [s.rangeOf ea place f.size])

/-- The access of a load or an acquire of `n` bytes, and that of an atomic or a reduction. -/
def loadForm (n : Nat) : State.Form := { size := n, acc := .load, window := true }
def atomForm (n : Nat) : State.Form := { size := n, acc := .both, via := none }

/-- AcquireReleaseAndRemoteStores: both sizes of LDA and STL; a remote store that names no core, is misaligned, has no page
and has one. -/
theorem witness_acquires : ([4, 8].all fun n => reaches (mapped 0) 0x4000 (loadForm n) 0x4000 &&
      stores (mapped 0) n 0x4000 0x4000) = true ∧
    (mapped 0).myCtx.w = 1 ∧ (mapped 0).myCtx.h = 1 ∧ ¬ (0x1000000 : Nat) / 2 ^ 24 % 16 < 1 ∧ (1 : Nat) % 2 ^ 1 ≠ 0 ∧
    (mapped 0).localBacked 0 0 = false ∧
    (let s := (mapped 0).setPage 0 0 { backed := true }
     s.localBacked s.myCore 0 = true ∧ s.me.countFull (s.me.tracking s.myCore [(1 + s.myCtx.position 0, 0, 8)]) = false) := by
  decide +kernel

/-- An atomic at a home of this die, with the state that it leaves. -/
def addsAtHome (s : State) (n place : Nat) : Bool :=
  homeRead s (BitVec.ofNat 64 place) (atomForm n) place fun u t l => u.homeDie place == u.myDie &&
    goesOn s ((t.formedWrite u.cur place (leBytes n (leNat l + 1))).writeS 5 (BitVec.ofNat 64 (leNat l))) 4

/-- AtomicsAndReductions: a word of this die, of either size; one of the other die, with no request outstanding; and reductions. -/
theorem witness_atomics : ([4, 8].all fun n => addsAtHome (mapped 0) n 0x4000 && queues (mapped 0) 0x4000 (atomForm n) 0x4000 &&
      homeRead (mapped 0) (BitVec.ofNat 64 farLine) (atomForm n) farLine fun u _ _ => u.homeDie farLine != u.myDie &&
        (SMap.get {} (u.die u.myDie).agents (State.agentOf u.myCore)).out == []) = true := by decide +kernel

/-- A full word of a full/empty page, which has been met before. -/
def fullWord : State := { mapped 0x80004000 with full := [0x4000 / 8], feMaps := [(1, 0x80000000, 2 ^ 30, 0)] }

/-- FullEmptyLocksAndPins: a page that has been met and one that has not; an empty word, one that another waits for, a full one, and
a store to one; a word that is read and left empty. -/
theorem witness_full_empty : fullWord.leafOf 0 0 0x80004000 = .leaf 0x1000000000000F (2 ^ 30) ∧
    (fullWord.myCtx.owner, 0x80004000 / 2 ^ 30 * 2 ^ 30, 2 ^ 30, (0x1000000000000F : Word).toNat / 2 ^ 8 % 2 ^ 44 * 2 ^ 8) ∈ fullWord.feMaps ∧
    (fullWord.meetFull 0x80004000).isFull 0x4000 = true ∧
    ({ fullWord with feMaps := [] }.meetFull 0x80004000).isFull 0x4000 = false ∧
    fullWord.isFull 0x4000 = true ∧ fullWord.feQueue = [] ∧
    homeRead fullWord 0x80004000 { size := 8, acc := .load, fe := true } 0x4000 (fun u t l => u.meetFull 0x80004000 == u &&
      goesOn fullWord (t.writeS 5 (BitVec.ofNat 64 (leNat l))) 4) = true ∧
    queues fullWord 0x80004000 { size := 8, acc := .store, fe := true } 0x4000 = true ∧
    homeRead fullWord 0x80004000 { size := 8, acc := .both, fe := true } 0x4000 (fun u t l =>
      let v := ((t.formedWrite u.cur 0x4000 l).setFull 0x4000 false).writeS 5 (BitVec.ofNat 64 (leNat l))
      u.meetFull 0x80004000 == u && !v.isFull 0x4000 && goesOn fullWord v 4) = true := by
  decide +kernel

/-- A context that may lock 4 lines, in every way. -/
def locker : State := (mapped 0x4000).setCtx 0 { firstCtx with desc := firstCtx.desc + BitVec.ofNat 512 (0xFFFFFFFF * 2 ^ 128 + 4 * 2 ^ 160) }

/-- FullEmptyLocksAndPins: a line that is locked; one that is not, by a context that may not lock it and by one that may. -/
theorem witness_locks : isPlace (locker.checkLine 0x4000) 0x4000 = true ∧ locker.locks = [] ∧ (mapped 0).myCtx.resq ≤ 0 ∧
    (locker.locksOfSet 0x4000).length < Config.lockWays ∧ locker.lockableWay 0x4000 = some 0 ∧ 0 < locker.myCtx.resq ∧
    (⟨0x4000, some 0, 0⟩ : LineLock) ∈ { locker with locks := [⟨0x4000, some 0, 0⟩] }.locks := by decide +kernel

/-- A page of the scratchpad of core 0. -/
def pageOf (x : PageState) : State := (mapped 0).setPage 0 0 x

/-- FullEmptyLocksAndPins: pages that are not backed, pinned, not pinned, locked by this stream, by another and by none. -/
theorem witness_pages : (mapped 0).localBacked 0 0 = false ∧ (pageOf { backed := true }).localBacked 0 0 = true ∧
    (pageOf { backed := true, pinned := true }).page 0 0 = { backed := true, pinned := true } ∧
    (pageOf { backed := true }).pinnedCount 0 < Config.pinLimit ∧
    goesOn (mapped 0) ((((pageOf { backed := true }).refill 0 0).setPage 0 0
      { ((pageOf { backed := true }).refill 0 0).page 0 0 with pinned := true }).writeP 1 true) 4 = true ∧
    (pageOf { backed := true, locked := true }).holdsAny = true ∧ (pageOf { backed := true, locked := true, holder := 1 }).holdsAny = false ∧
    (pageOf { backed := true, locked := true }).liveCopies 0 = [] ∧
    ((pageOf { backed := true, resident := true }).page 0 0).resident = true := by decide +kernel

/-- A copy of core 0 between the two windows. -/
def aCopy (phase : CopyPhase) (done : Nat) (binding : Option Binding) : CopyRec :=
  { stream := 0, seq := 0, word := 0, toLocal := true, src := handleOf 0x8000 false 6 0 4 4 16,
    dst := handleOf 0x100 true 6 0 4 4 16, done := done, phase := phase, tokenId := 9, reg := 5, binding := binding,
    counted := [], after := [] }

/-- FencesAndMonitors: a stream with nothing outstanding, and one with an older copy. -/
theorem witness_fences : (mapped 0).me.storeQ = [] ∧ (mapped 0).liveCopies 0 = [] ∧ (mapped 0).steCommands 0 = [] ∧
    (let s := tune ((mapped 0).setCore 0 { (mapped 0).core 0 with copies := [(3, aCopy .active 0 none)] }) fun t => { t with seqNext := 7 }
     ∃ c ∈ s.liveCopies s.cur, c.seq < s.me.seqNext) := by decide +kernel

/-- FencesAndMonitors: a line to monitor; monitors that are not armed, armed, and fired. -/
theorem witness_monitors : isPlace ((mapped 0).checkScalar 0x4000 { size := 1, acc := .load }) 0x4000 = true ∧
    (∀ j : Fin 4, (mapped 0).me.m[j].armed = false) ∧
    (∀ f : Bool, let s := tune (mapped 0) fun t => { t with m := t.m.set 2 ⟨0, f, true⟩ }
      s.me.m[2].armed = true ∧ (s.me.m.toList.getD 2 {}).fired = f ∧ (s.me.m.toList.getD 1 {}).fired = false) := by decide +kernel

/-- CopyWords: copies of either direction between the windows, and one that is none; a core with a free record, and a stream
with eight. -/
theorem witness_copies : State.copyValid true (aCopy .active 0 none).src (aCopy .active 0 none).dst = true ∧
    State.copyValid false (aCopy .active 0 none).dst (aCopy .active 0 none).src = true ∧ State.copyValid true 0 0 = false ∧
    (mapped 0).freeRecord = some 0 ∧ ((mapped 0).core 0).copyFrozen = false ∧
    (mapped 0).me.countFull ((mapped 0).me.tracking 0 [handleRange 0 (aCopy .active 0 none).src, handleRange 0 (aCopy .active 0 none).dst]) = false ∧
    ((mapped 0).setCore 0 { (mapped 0).core 0 with copies := (List.range 8).map fun i => (i, aCopy .active 0 none) }).freeRecord = none := by
  decide +kernel

/-- The stream joined to group 1, of `n` members of which it is member 0, with other bytes of its entry and a word in S1. -/
def grouped (n : Byte) (l : List (Nat × Byte)) (w : Word) : State :=
  tune ((mapped w).merge unitWriter ((0x200, n) :: (0x240, 1) :: l)) fun t => { t with groups := [⟨1, false⟩] }

/-- A faulted copy at element 2, and the word of its token in S1. -/
def faulted (binding : Option Binding) : State :=
  let s := grouped 1 [] 0x0000300400000008
  s.setCore 0 { s.core 0 with copies := [(3, aCopy (.faulted 4 false 0x8008) 2 binding)] }

/-- CopyWords: a token that is no fault, one of a faulted copy, one of none; a record without a binding and with one. -/
theorem witness_tokens : (0 : Nat) / 2 ^ 32 % 2 ^ 8 = 0 ∧ ((faulted none).readS 1).toNat / 2 ^ 32 % 2 ^ 8 = 4 ∧
    (State.tokenRecord (faulted none) ((faulted none).readS 1)).map (·.1) = some 3 ∧ State.tokenRecord (mapped 0) 0 = none ∧
    (faulted none).copyRec 0 3 = some (aCopy (.faulted 4 false 0x8008) 2 none) ∧ ((faulted none).core 0).copyFrozen = false ∧
    (let s := faulted (some ⟨1, 0⟩)
     goesOn s (((s.setCore 0 { s.core 0 with copies := [] }).deliverArrival 0 ⟨1, 0⟩ true).writeS 5 0) 4 = true) := by decide +kernel

/-- A context that may queue 16 tasks, a spawn image of zeros but for what is given at its place. -/
def spawner (at' n v : Nat) : State :=
  ((mapped 0x4200).setCtx 0 { firstCtx with desc := firstCtx.desc + BitVec.ofNat 512 (16 * 2 ^ 224) }).merge unitWriter
    (placed (0x4200 + at') (leBytes n v))

/-- A spawn image is read, and it and the states about the read have the property. -/
def spawns (s : State) (p : State → State → SpawnImage → Bool) : Bool :=
  s.me.storeQ == [] && s.steCommands 0 == [] && isPlace (s.checkScalar 0x4200 { size := 64, acc := .load }) 0x4200 &&
    (let u := s.startReads .home [(0x4200, 0x4200, 64)]
     !u.heldBack u.cur && gives (u.readHome 0x4200 64) fun t l => p u t (SpawnImage.ofBytes l))

/-- The same machine with no module in service; the pages that it needs are in core 0's TLB. -/
def cut (s : State) : State :=
  { s.setCore 0 { s.core 0 with tlb := [⟨0, 0, 2 ^ 30, 0x1F⟩] } with modules := (List.range 16).map fun m => (m, { inService := false }) }

/-- TaskWords: an image that is clean, for either die, and one that is not; a task whose group has no member, and one with room; a
tag that is 0 and one that is not; a link that carries and one that does not. -/
theorem witness_tasks :
    spawns (spawner 0 8 0x4000) (fun u t i => i.clean && !i.far && u.reaches (.core u.myCore) (.heap u.myDie) &&
      t.groupNamed 0 i.task && decide (0 < t.heapRoom 0 0) &&
      goesOn (spawner 0 8 0x4000) ((t.insertTask 0 0 { i.task with owner := t.myCtx.owner }).writeP 1 true) 4) = true ∧
    spawns (spawner 0x30 1 1) (fun _ _ i => !i.clean) = true ∧
    spawns (spawner 0xF 1 4) (fun u _ i => i.clean && i.far && u.reaches (.core u.myCore) (.heap 1)) = true ∧
    spawns (cut (spawner 0xF 1 4)) (fun u _ i => i.clean && i.far && !u.reaches (.core u.myCore) (.heap 1)) = true ∧
    spawns (spawner 0xF 1 1) (fun _ t i => !t.groupNamed 0 i.task && goesOn (spawner 0xF 1 1) (t.writeP 1 false) 4) = true ∧
    unlinked.reaches (.core 0) (.heap 1) = false ∧ (mapped 0).reaches (.core 0) (.heap 1) = true ∧
    ((mapped 0).die 0).heap.length < Config.heapEntries ∧
    (spawner 0 8 0).me.level = false ∧ (spawner 0 8 0).me.task = none ∧ (mapped 0).heapRoom 0 0 = 0 ∧
    (tune (spawner 0 8 0) fun t => { t with task := some {} }).me.task = some {} ∧
    ((mapped 0).readS 1).setWidth 16 = (0 : BitVec 16) ∧ ((mapped 1).readS 1).setWidth 16 ≠ (0 : BitVec 16) := by decide +kernel

/-- GroupAndBarrierWords: a group at this die, and one at the other with no link to it. -/
theorem witness_group_homes : ((grouped 2 [] 1).group 0 1).size ≠ 0 ∧
    (grouped 2 [] 1).reaches (.core 0) (.group ((grouped 2 [] 1).group 0 1).home) = true ∧
    ((cut (grouped 2 [(0x202, 4)] 1)).group 0 1).size ≠ 0 ∧ (cut (grouped 2 [(0x202, 4)] 1)).isMember 1 = true ∧
    (cut (grouped 2 [(0x202, 4)] 1)).reaches (.core 0) (.group ((cut (grouped 2 [(0x202, 4)] 1)).group 0 1).home) = false := by
  decide +kernel

/-- GroupAndBarrierWords: a member and none; a refusal for four memberships; a free group with sizes 0, 1, 1,024 and 1,025; a group
of two that has room; a copy that is not delivered. -/
theorem witness_groups : (grouped 2 [] 1).isMember 1 = true ∧ (mapped 1).isMember 1 = false ∧
    4 ≤ (tune (mapped 1) fun t => { t with groups := [⟨2, false⟩, ⟨3, false⟩, ⟨4, false⟩, ⟨5, false⟩] }).me.groups.length ∧
    ((mapped 1).group 0 1).size = 0 ∧ ((mapped 1).group 0 1).broken = false ∧
    (∀ n : Fin 4, let w := (#v[0, 1, 1024, 1025])[n] * 2 ^ 16 + 1; w / 2 ^ 16 % 2 ^ 11 = (#v[0, 1, 1024, 1025])[n]) ∧
    ((grouped 2 [] 1).group 0 1).memberCount ≠ 2 ∧
    (grouped 2 [] 1).undelivered 0 1 = false ∧ (faulted (some ⟨1, 0⟩)).undelivered 0 1 = true := by decide +kernel

/-- GroupAndBarrierWords: no member; a broken group; a member that has arrived, one that is the last to arrive and one that is not; phases
that are over and that are not. -/
theorem witness_barriers : (mapped 1).isMember 1 = false ∧ ((grouped 1 [(0x202, 1)] 1).group 0 1).broken = true ∧
    (∀ n : Fin 2, let s := grouped (BitVec.ofNat 8 (n.val + 1)) [] 1
      s.isMember 1 = true ∧ (s.group 0 1).broken = false ∧ s.me.storeQ = [] ∧ s.steCommands 0 = [] ∧ s.liveCopies 0 = [] ∧
      (s.group 0 1).arrived.getLsbD s.myMember = false ∧ ((s.arrive 0 1 s.myMember).group 0 1).phase = (if n = 0 then 1 else 0)) ∧
    ((grouped 2 [(0x208, 1), (0x340, 1)] 1).group 0 1).arrived.getLsbD 0 = true ∧
    (((0 : BitVec 32) - 0xFFFFFFFF).toNat = 1 ∧ ((0 : BitVec 32) - 0x80000001).toNat < 2 ^ 31 ∧ ((0 : BitVec 32) - 0).toNat < 1 ∧
      ¬ ((0 : BitVec 32) - 0x80000000).toNat < 2 ^ 31) ∧
    (let s := grouped 1 [] 1
     goesOn s ((((s.arrive 0 1 0).acquireAt 0 .device none).forgetAhead 0).writeP 2 false) 4 = true ∧
     goesOn s ((s.arrive 0 1 0).writeS 5 0) 4 = true) := by
  decide +kernel

/-- TreeRangeAndCounterWords: a stream that may send a command; a tree number at each end and a word with a bit too many; a
destination that fits, is misaligned and is beyond the space; a configuration image of tree 63 and of tree 64. -/
theorem witness_tree_words : (mapped 0).steRoom = true ∧ (∀ k : Fin 8, ((mapped 0).me.n[k]).count ≠ 0xFFFF) ∧
    (0x3F000000 : Nat) / 2 ^ 24 % 64 = 63 ∧ (0x3F000000 : Nat) / 2 ^ 30 % 4 = 0 ∧ (0x40000000 : Nat) / 2 ^ 30 % 4 ≠ 0 ∧
    2 ^ 16 ≤ 0x10000 ∧ (0x4040 : Nat) % 64 = 0 ∧ (0x4041 : Nat) % 64 ≠ 0 ∧ (0x40 : Nat) / 2 ^ 6 % 4 ≠ 0 ∧
    (∀ t : Fin 2, let s := (mapped 0x4000).merge unitWriter (placed 0x4001 [BitVec.ofNat 8 (63 + t.val)])
      isPlace (s.checkScalar 0x4000 { size := 64, acc := .load }) 0x4000 = true ∧
      mayRead s .home [s.rangeOf 0x4000 0x4000 64] [(0x4000, 0x4000, 64)] (fun u => gives (u.readHome 0x4000 64) fun v l =>
        goesOn s v 4 && v.steRoom && v.me.n == s.me.n && leNat l / 2 ^ 8 % 2 ^ 8 == 63 + t.val) = true) := by decide +kernel

/-- A nest of extents 4, 1, 1 and 1 with a claim of at least 1, of 2 claimants, at its next index; its address in S1. -/
def nested (next : Nat) : State :=
  (mapped 0x4000).merge unitWriter (placed 0x4000 (leBytes 8 next ++ leBytes 4 4 ++ leBytes 4 1 ++ leBytes 4 1 ++ leBytes 4 1 ++
    leBytes 2 1 ++ leBytes 2 2))

/-- A nest is read at its home, and it and the state have the property. -/
def claims (s : State) (p : State → Nest → Bool) : Bool :=
  homeRead s 0x4000 (atomForm 32) 0x4000 fun u t l => u.homeDie 0x4000 == u.myDie && p t (Nest.ofBytes l)

/-- TreeRangeAndCounterWords: slots of either space, at its last byte and beyond; a window whose bounding range fits; nests that
are malformed, used up and not; counters 51 and 52. -/
theorem witness_ranges : (0xFFFF0000000FFFFF : Word).toNat / 2 ^ 48 = 0xFFFF ∧ (0xFFFFF : Nat) + 1 ≤ 2 ^ 20 ∧ 2 ^ 20 < (0xFFFFF : Nat) + 2 ∧
    (1 : Nat) < 2 ^ 48 ∧ window4.isEmpty = false ∧ 0 ≤ (Handle.bounding window4).1 ∧ (Handle.bounding window4).2 ≤ window4.limit ∧
    (0 : Handle).isEmpty = true ∧
    claims (nested 1) (fun t x => let u := (t.formedWrite 0 0x4000 (leBytes 8 2)).writeS 5 1
      !x.malformed && decide (x.next < x.total) && goesOn (nested 1) (u.setMe { u.me with i := x.indices 1 }) 4) = true ∧
    claims (nested 4) (fun t x => !x.malformed && x.next == x.total && goesOn (nested 4) t 4) = true ∧
    claims (mapped 0x4000) (fun _ x => x.malformed) = true ∧
    (51 : Nat) % 2 ^ 8 ≤ 51 ∧ ¬ (52 : Nat) % 2 ^ 8 ≤ 51 := by decide +kernel

/-- Stream 0 with one entry of the matrix engine in its partition, issued or completed as given. -/
def issuing (issued completed : Bool) : State :=
  tune (mapped 0) fun t => { t with
    trb := [{ seq := 1, engine := some .matrix, issued := issued, completed := completed, occ := 4 }], seqNext := 1 }

/-- CoreAndMemoryStepsComplete (engines): an entry that an engine may take, one that runs, a completed head; blocked streams
whose wait has ended. -/
theorem witness_engines : State.busyOf ((issuing false false).core 0) .matrix = 0 ∧
    (∃ y ∈ (issuing false false).coreEntries 0, Spec.mayTake (issuing false false) 0 .matrix y) ∧ (∃ y ∈ (issuing true false).coreEntries 0, Spec.runsOn .matrix y) ∧
    (State.mayRetire ((issuing true true).stream (4 * 0 + 0))).isSome = true ∧ 0 < Config.coreCount ∧
    Spec.hasArrived { plain.me with run := .blocked, wait := .operands [(.s, 5)] } ∧
    Spec.hasArrived { plain.me with run := .blocked, wait := .room } ∧
    Spec.hasArrived { plain.me with run := .blocked, wait := .retired } := by
  simp only [Spec.mayTake, Spec.runsOn, Spec.hasArrived]; decide +kernel

/-- Stream 0 waits for the reason. -/
def waiting (w : Wait) : State := tune (mapped 0) fun t => { t with run := .waiting, wait := w }

/-- Stream 0 with pending bits, and what their causes report. -/
def pends (b : BitVec 5) : State := tune (mapped 0) fun t => { t with pend := b, task := some {}, tdead := 3 }

/-- CoreAndMemoryStepsComplete (streams): each event alone pending, at user level; a timer whose time has come; waits that have
ended; a word that is no instruction, one that breaks, and one that cannot be fetched. -/
theorem witness_streams : (∀ k : Fin 5, let s := pends (BitVec.ofNat 5 (2 ^ k.val))
      (s.stream 0).pend.getLsbD k.val = true ∧ ∀ j : Fin 5, k < j → (s.stream 0).pend.getLsbD j.val = false) ∧
    (pends 0).me.level = false ∧ (pends 0).me.step = false ∧ (pends 0).me.run = .ready ∧ (pends 0).me.wait = .none ∧
    (pends 0).me.task = some {} ∧ (pends 0).me.trb = [] ∧
    ((pends 0).stream 0).tdead ≠ 0 ∧ ((pends 0).stream 0).tdead.toNat ≤
      ((pends 0).setDie 0 { (pends 0).die 0 with time := BitVec.ofNat 104 (3 * 2 ^ 40) }).now (dieOfCore (0 / 4)) ∧
    (mapped 0).saved = [] ∧ Spec.waitsWith (waiting (.fe 5 true 0x80004000 0x4000 (some 0))) 0 (.fe 5 true 0x80004000 0x4000 (some 0)) ∧
    (waiting (.fe 5 true 0x80004000 0x4000 (some 0))).fullNews 0 = none ∧ 0 ≤ (mapped 0).now 0 ∧ Spec.waitsWith (waiting (.mon 5 (some 0))) 0 (.mon 5 (some 0)) ∧
    (∃ r ∈ (tune (waiting (.mon 5 none)) fun t => { t with m := t.m.set 2 ⟨0, true, true⟩ }).me.m.toList, r.fired = true) ∧
    decodes { mapped 0 with cur := 0 } = true ∧
    gives ({ mapped 0 with cur := 0 }).fetchAll (fun v l => (v.breakpointAt v.me.pc).isNone && !validWord l.1) = true ∧
    gives ({ (tune (mapped 0) fun t => { t with bp := t.bp.set 1 0x4001 }) with cur := 0 }).fetchAll
      (fun v _ => v.breakpointAt v.me.pc == some 1) = true := by
  simp only [Spec.waitsWith]; decide +kernel

/-- Stream 0 waits for the reason, at a level, and the cancellation of its task is pending. -/
def interrupted (level : Bool) (w : Wait) : State :=
  tune (waiting w) fun t => { t with level := level, pend := 16, task := some {} }

/-- The event that meets stream 0. -/
def isDue (s : State) : Bool := (s.stream 0).run == .waiting && (s.stream 0).dueEvent == some (.cancelled, 0)

/-- The answer to a full/empty request. -/
def feAnswer : Msg := .feReply 0 (.value 7) 0

/-- CoreAndMemoryStepsComplete (events that meet waits): each kind of wait, with nothing answered and with its answer there; a
stream at supervisor level that waits for its monitors; a member that has arrived. -/
theorem witness_event_waits : isDue (interrupted false (.mon 5 none)) = true ∧
    ((interrupted true (.mon 5 none)).stream 0).level = true ∧ ((interrupted true (.mon 5 none)).stream 0).firstEvent.isSome = true ∧
    goesOn (mapped 0) (interrupted false (.mon 5 none)) 4 = true ∧
    (let s := interrupted false (.fe 5 true 0x80004000 0x4000 none)
     isDue s = true ∧ s.fullNews 0 = none ∧ (s.stream 0).trb = [] ∧ { s with net := [feAnswer] }.fullNews 0 = some 0) ∧
    (∀ arrived : Bool, let s := interrupted false (.bar 1 2 3 arrived)
      isDue s = true ∧ s.barrierNews 0 = none) ∧
    ((grouped 2 [(0x208, 1), (0x340, 1)] 1).group 0 1).arrived.getLsbD 0 = true ∧
    (let s := interrupted false (.barWait 1 2 3)
     isDue s = true ∧ s.barrierNews 0 = none ∧ { s with net := [.barDone 0 2 3 false 0] }.barrierNews 0 = some 0) ∧
    (let s := interrupted false (.barArr 5 2 3)
     isDue s = true ∧ s.barrierNews 0 = none) ∧
    (let s := interrupted false (.taskNext false)
     isDue s = true ∧ s.taskNews 0 = none ∧ { s with net := [.taskGiven 0 {} 0] }.taskNews 0 = some (0, {})) ∧
    isDue (interrupted false (.reply 0)) = true := by decide +kernel

/-- Stream 0 with one store in its queue. -/
def storing (k : StoreKind) (p : Phase) (place n : Nat) : State :=
  tune (mapped 0) fun t => { t with
    storeQ := [⟨0, k, placed place (leBytes n 7), BitVec.ofNat 64 place, [(0, place, n)], p, .no, [], [], 0, {}, 0⟩], seqNext := 1 }

/-- Whether the only store of stream 0 may leave the core (Spec.mayLeave), and whether it is a reduction of the other die. -/
def mayGo (s : State) (far : Bool) : Bool :=
  s.me.storeQ.length == 1 && s.me.storeQ.all fun e => e.phase == .queued && !s.inTrb 0 e.seq && s.releaseReady 0 e.seq e.release &&
    e.ranges.all (fun r => !s.rangeHeld 0 r) && s.isFarReduction 0 e == far

/-- A write of stream 0 of the kinds may be carried out whole (Spec.carriesOne). -/
def mayCarry (s : State) (kind : StoreKind → Bool) : Bool :=
  !((s.sentWrites 0 kind).filter fun e => e.cells.all fun x => s.mayLand 0 e x.1).isEmpty

/-- The write of stream 0 that is acknowledged next is its own, for a reduction or another write. -/
def mayAck (s : State) (red : Bool) : Bool :=
  (s.me.storeQ.find? fun f => f.phase == .written && State.isReduction f.kind == red && s.ackReaches 0 f).isSome

/-- CoreAndMemoryStepsComplete (store queues): stores that may leave, that have set out and that are acknowledged; a request of
this core's agent at the other die, without and with its reply; the answer of a full/empty word that is waited for. -/
theorem witness_queues :
    mayGo (storing .scalar .queued 0x4000 8) false = true ∧ mayGo (storing (.red 0 1) .queued farLine 8) true = true ∧
    ([StoreKind.scalar, .wide].all fun k => let s := storing k .sent 0x4000 8
      !((s.sentWrites 0 fun k => k == .scalar || k == .wide).filter fun e => (State.piecesOf e).any (s.mayLand 0 e)).isEmpty) = true ∧
    mayCarry (storing .remote .sent (localPlace 0 0) 8) State.isRemote = true ∧
    mayCarry (storing (.stfl 7) .sent 0x4000 8) State.isFullEmpty = true ∧
    mayCarry (storing .feclr .sent 0x4000 8) State.isFullEmpty = true ∧
    mayCarry (storing (.red 0 1) .sent 0x4000 8) State.isReduction = true ∧
    (∀ red : Bool, mayAck (storing (if red then .red 0 1 else .scalar) .written 0x4000 8) red = true) ∧
    (storing (.red 0 1) .sent 0x4000 8).agentReqs 0 = [] ∧
    ((storing (.red 0 1) .sent 0x4000 8).atomAtHome 0 ⟨0, 0x4000, 0x4000, 1, 0⟩).2 = .value 0 ∧
    (∀ done : Bool, let r : AgentReq :=
        ⟨0, 0, none, 5, ⟨0, 0x4000, 0x4000, 1, 0⟩, if done then some (.value 0) else none, 0, []⟩
      let t := tune (waiting (.reply 0)) fun t => { t with run := .blocked }
      let s := t.setDie 0 { t.die 0 with agents := [(State.agentOf 0, ⟨1, [r]⟩)] }
      s.agentReqs 0 = [(State.agentOf 0, r)] ∧ (s.agentReqs 0).find? (fun r => r.2.reply.isSome == done &&
        s.rowCarries (if done then s.siteRow (s.siteOf r.2.op.place) else r.1 % 16)) = some (State.agentOf 0, r) ∧
      s.heldBack 0 = false ∧ (s.core 0).peg = none ∧ s.holdsFor 0 = false ∧
      (s.stream 0).run ≠ .moving ∧ (s.stream 0).wait = .reply r.reqnum.toNat) ∧
    (let s := { waiting (.fe 5 true 0x80004000 0x4000 none) with net := [feAnswer] }
     Spec.waitsWith s 0 (.fe 5 true 0x80004000 0x4000 none) ∧ s.holdsFor 0 = false ∧ s.fullNews 0 = some 0 ∧
      s.net[0]? = some feAnswer) := by
  simp only [Spec.waitsWith]; decide +kernel

/-- The machine with one message on its way. -/
def sending (m : Msg) : State := { mapped 0 with net := [m] }

/-- CoreAndMemoryStepsComplete (memories): messages of a barrier for streams that wait; a copy that may move its first unit, and one
that is delivered; a page without a frame; a page to walk for; line requests; places. -/
theorem witness_memory :
    (let s := { waiting (.barWait 1 2 3) with net := [.barDone 0 2 3 false 0] }
     s.arrives 0 = true ∧ s.holdsFor 0 = false ∧ Spec.waitsWith s 0 (.barWait 1 2 3)) ∧
    (let s := { waiting (.bar 1 2 3 true) with net := [.barBroken 0 2 0] }
     s.arrives 0 = true ∧ s.holdsFor 0 = false ∧ Spec.waitsWith s 0 (.bar 1 2 3 true)) ∧
    (let t := (mapped 0).setPage 0 0 { backed := true }
     let r := aCopy .active 15 none
     let s := t.setCore 0 { t.core 0 with copies := [(3, r)] }
     s.copyRec 0 3 = some r ∧ s.inTrb 0 0 = false ∧ (s.core 0).copyFrozen = false ∧
     s.copyMayMove 0 r = true ∧ (s.copyStart 0 0 r 15).heldBack 0 = false ∧
     gives ((s.copyStart 0 0 r 15).copyUnit 0 0 r 15) (fun _ _ => true) = true ∧ 15 + 1 = r.total ∧
     s.copiesStopped 0 = false) ∧
    (let s := (mapped 0).setPage 0 7 { backed := true }
     (s.core 0).owner.isSome = true ∧ (s.core 0).moving = false ∧ (s.page 0 7).backed = true ∧ (s.page 0 7).resident = false ∧ (s.freeFrame 0).isSome = true) ∧
    (mapped 0).ownerOf 0 = some (0, 0) ∧ State.tlbHit ((mapped 0).core 0).tlb 0 0x4000 = none ∧
    (mapped 0).walkReaches 0 0 0x4000 = true ∧ (mapped 0).leafOf 0 0 0x4000 = .leaf 0x1F (2 ^ 30) ∧
    (((mapped 0).setCore 0 { (mapped 0).core 0 with moving := true }).core 0).moving = true ∧
    (let s := sending (.readReq 0 0 0x4000 0x4000 true)
     s.net[0]? = some (.readReq 0 0 0x4000 0x4000 true) ∧ s.arrives 0 = true ∧
     ((s.takeMsg 0).l2Line 0 0x4000 0 0x4000 (.core 0)).2.passed = []) ∧
    (let s := (mapped 0).setDie 0 { (mapped 0).die 0 with guest := [(farLine, ⟨0, farLine, 6, 0, [0]⟩)] }
     (s.l2Line 0 farLine 0 farLine (.core 0)).2.passed ≠ []) ∧
    (let s := sending (.readData 0 0 0x4000 0x4000 true 0 0)
     s.arrives 0 = true ∧ (s.core 0).owner = some (0, 0) ∧ SMap.find (s.core 0).l1d 0x4000 = none) ∧ (mapped 0).moves = [] ∧
    (mapped 0).homeSlice 0x4000 < 64 ∧ { mapped 0 with board := { (mapped 0).board with bootState := 2 } }.running = true := by
  simp only [Spec.waitsWith]; decide +kernel

/-- The machine whose tree 0 has two leaves, the first of mass 5 with its sums, and an engine with the command. -/
def treed (c : SteCmd) : State :=
  let s := (mapped 0).merge unitWriter (placed 0x10010 (leBytes 16 (5 + 5 * 2 ^ 64)) ++ placed 0x10020 (leBytes 8 5))
  s.setSte 0 { s.ste 0 with queue := [c], trees := #v[BitVec.ofNat 256 (0x10000 + 2 ^ 48 + 2 ^ 63), 0, 0, 0, 0, 0, 0, 0, 0, 0, 0, 0, 0, 0, 0, 0] }

/-- A command of stream 0 to tree 0, or to another tree. -/
def steCmd (minor : Nat) (tree : Nat) (sa sd : Word) (k6 : Nat) (op : Nat) : SteCmd :=
  { minor := BitVec.ofNat 5 minor, tree := tree, ctx := 0, owner := 0, stream := 0, replyId := 9, reg := 5, sa := sa, sd := sd,
    k6 := BitVec.ofNat 6 k6, image := BitVec.ofNat 512 (op + (if op < 2 then 2 ^ 16 + 0x10000 * 2 ^ 64 else 0)), seq := 0,
    counted := [] }

/-- The engine has the command of the tree as its oldest. -/
def oldest (tree : Nat) (c : SteCmd) : Bool :=
  ((treed c).ste (tree / 16)).queue.find? (fun c => c.tree = tree) == some c && !((treed c).ste (tree / 16)).frozen &&
    !(treed c).heldCtx c.ctx

/-- EngineAndLaunchStepsComplete (trees): the four configurations, an insertion, an update, a draw and a sum of an owned tree, and
commands of a tree that is not owned. -/
theorem witness_trees_steps :
    (([0, 1, 2, 3].map fun op => steCmd 0 0 0 0 0 op) ++ [steCmd 1 0 0x3F80000000000000 0 0 0, steCmd 2 0 0x3F80000000000000 0 0 0,
      steCmd 3 0 0x4000 0 0 0, steCmd 4 0 0 0 0 0]).all (oldest 0) = true ∧
    ([0, 1, 2, 3].all fun op => !State.malformedCfg (steCmd 0 0 0 0 0 op).image) = true ∧
    (treed (steCmd 0 0 0 0 0 0)).ownsTree 0 0 = true ∧ (treed (steCmd 0 0 0 0 0 0)).ownsTree 1 0 = false ∧
    (State.steWorst ((treed (steCmd 0 0 0 0 0 0)).steSpan 0 0 0x10000 48 .store) matches none) ∧
    gives ((treed (steCmd 0 0 0 0 0 1)).steBuild (steCmd 0 0 0 0 0 1)) (fun _ _ => true) = true ∧
    gives ((treed (steCmd 0 0 0 0 0 2)).steSet (steCmd 0 0 0 0 0 2)) (fun _ _ => true) = true ∧
    gives ((treed (steCmd 1 0 0 0 0 0)).stePut (steCmd 1 0 0x3F80000000000000 0 0 0) none) (fun _ _ => true) = true ∧
    gives ((treed (steCmd 2 0 0 0 0 0)).stePut (steCmd 2 0 0x3F80000000000000 0 0 0) (some 0)) (fun _ _ => true) = true ∧
    gives ((treed (steCmd 3 0 0 0 0 0)).steDraw (steCmd 3 0 0x4000 0 0 0)) (fun _ _ => true) = true ∧
    gives ((treed (steCmd 4 0 0 0 0 0)).steRead 0 0 0x10010 16) (fun _ x => x == 5 + 5 * 2 ^ 64) = true ∧
    oldest 0 { steCmd 1 0 0 0 0 0 with owner := 1 } = true ∧
    (let s := sending (.steCmd 0 (steCmd 1 0 0 0 0 0))
     s.steBehind 0 0 0 = false ∧ s.inTrb 0 0 = false ∧ s.sends (.core 0) (.ste 0) = true) ∧
    (let s := sending (.steReply 0 9 0 0)
     s.arrives 0 = true ∧ (s.stream 0).run ≠ .moving ∧ (s.core 0).peg = none) := by decide +kernel

/-- EngineAndLaunchStepsComplete (trees): a command that has begun, and one whose fills a regulator holds. -/
theorem witness_tree_fills : ({ steCmd 1 0 0 0 0 0 with begun := true } : SteCmd).begun = true ∧
    ((mapped 0).setRegulator 0 ⟨0x8000000400000000, 0, [1]⟩).heldCtx 0 = true ∧ (mapped 0).heldCtx 0 = false := by decide +kernel

/-- The machine at work, with a launch entry of the kind next in the queue of context 0 on die 0. -/
def launching (kind more : Nat) : State :=
  let s := (spawner 0 1 0).merge unitWriter (placed 0x20000 (leBytes 64 (kind + more)))
  { s.setQueueOf 0 0 ⟨true, 0x20000, 4, 0, 0, 1⟩ with board := { s.board with bootState := 2 } }

/-- The entry is the next that the command processor serves, and passes its checks (Spec.launches). -/
def served (kind more : Nat) : Bool :=
  let s := launching kind more
  s.nextQueue 0 == some 0 && s.ringReaches 0 (s.queueOf 0 0) && match s.ringEntry (s.queueOf 0 0) with
    | (u, some b) => (Launch.ofImage b).kind == kind && u.launchReaches 0 0 (Launch.ofImage b) &&
        (u.setDie 0 { u.die 0 with served := 0 }).launchCode 0 (Launch.ofImage b) == 0
    | _ => false

/-- Streams 0 and 1 wait for tasks, and their requests are registered as given; a task is queued on die 1, or on none. -/
def taking (here there : List Nat) (task : Bool) : State :=
  let s := waiting (.taskNext false)
  let t := s.setStream 1 (s.stream 0)
  let u := (t.setDie 0 { t.die 0 with takes := here }).setDie 1 { t.die 1 with takes := there }
  if task then u.insertTask 0 1 { entry := 0x4000, owner := 1 } else u

/-- The first request of die 0 that passes to the other die. -/
def passes (s : State) : Option Nat :=
  (s.die 0).takes.find? fun q => dieOfCore (q / 4) == 0 && s.takesNow q && !s.serves 0 q && !(s.die 1).takes.contains q &&
    s.reaches (.core (q / 4)) (.heap 1)

/-- EngineAndLaunchStepsComplete (launches and heaps): an entry of each kind, and one whose tag was cancelled while it was in
flight; a tail at the last place; a start for idle streams; takes that a task serves, of either die; takes that pass to the other die,
behind another there, to a task, and to none; a task held for a stream; a spill to refill from; a host event, with one pending and none. -/
theorem witness_launches : served 0 0 = true ∧ served 1 (2 ^ 16) = true ∧ served 2 (2 ^ 424) = true ∧ served 3 (2 ^ 424) = true ∧
    served 4 (2 ^ 384) = true ∧ (launching 0 0).startsOut 0 = false ∧
    (let s := launching 0 0
     (s.ctx? 0).isSome = true ∧ (s.ctx 0).contained = false ∧ (s.queueOf 0 0).present = true ∧ (15 : Nat) % 2 ^ 16 < 2 ^ (s.queueOf 0 0).n) ∧
    (let s := launching 1 (2 ^ 16 + 5 * 2 ^ 384)
     let t := s.setCtx 0 { s.ctx 0 with cancels := [(0, 5, 1)] }
     (Launch.ofImage (BitVec.ofNat 512 (1 + 2 ^ 16 + 5 * 2 ^ 384))).task.tag = 5 ∧ (5 : BitVec 16) ≠ 0 ∧
      ∃ e ∈ (t.ctx 0).cancels, e.1 = 0 ∧ e.2.1 = 5) ∧ served 1 (2 ^ 16 + 5 * 2 ^ 384) = true ∧
    (let s := tune (sending (.start 0 0 1 false {} 0 0)) fun t => { t with run := .idle }
     s.arrives 0 = true ∧ (s.ctx? 0).isSome = true ∧ (s.core ((s.ctx 0).position 0)).moving = false ∧ (s.stream 0).run = .idle ∧
     (s.stream 0).faultMark = false ∧ s.statusReaches 0 0 0 = true) ∧
    (let s := (taking [0] [] false).insertTask 0 0 { entry := 0x4000, owner := 1 }
     s.heldTask 0 = none ∧ s.holdsFor 0 = false ∧ (s.die 0).takes.find? (s.mayServe 0) = some 0) ∧
    (let s := taking [] [0] true
     s.heldTask 1 = none ∧ s.holdsFor 0 = false ∧ (s.die 1).takes.find? (s.mayServe 1) = some 0 ∧ dieOfCore (0 / 4) ≠ 1) ∧
    (passes (taking [0] [] true) = some 0 ∧ (taking [0] [] true).stealable 1 0 ≠ [] ∧ (taking [0] [] true).holdsFor 0 = false ∧
      passes (taking [0] [] false) = some 0 ∧ (taking [0] [] false).stealable 1 0 = [] ∧
      passes (taking [0] [1] true) = some 0 ∧
      ((taking [0] [1] true).die 1).takes.any ((taking [0] [1] true).mayServe 1) = true ∧
      ((taking [0] [] true).die 1).takes.any ((taking [0] [] true).mayServe 1) = false) ∧
    (let s := { waiting (.taskNext false) with net := [.taskGiven 0 {} 0] }
     s.heldTask 0 = some 0) ∧
    (mapped 0).sends .hostPort (.command 0) = true ∧ (mapped 0).sends .hostPort (.core 0) = true ∧
    (let s := (mapped 0).setDie 0 { (mapped 0).die 0 with spill := [0], spillRegion := some (0x50000, 0x1000) }
     ((s.queued 0).map (·.seq)).Nodup ∧ (s.die 0).heap.length < Config.heapRefillBelow ∧ (s.die 0).spill ≠ []) ∧
    ((mapped 0).stream 0).pend.getLsbD 2 = false ∧ ((pends 4).stream 0).pend.getLsbD 2 = true ∧ 0 < (firstCtx).w := by decide +kernel

/-- The machine at work, its streams idle, with a control command next in the ring of die 0 and more bytes in memory. -/
def commanding (kind ctx op0 op1 op2 : Nat) (l : List (Nat × Byte)) : State :=
  let s := (mapped 0).merge unitWriter (placed 0x30000 (leBytes 64 (kind + ctx * 2 ^ 8 + op0 * 2 ^ 64 + op1 * 2 ^ 128 + op2 * 2 ^ 192)) ++ l)
  let t := tune s fun t => { t with run := .idle }
  { t.setDie 0 { t.die 0 with control := ⟨true, 0x30000, 4, 0, 0, 1⟩ } with board := { t.board with bootState := 2 } }

/-- The command is the next of its ring and passes its checks (Spec.commanded), and the state after its read has the property. -/
def commandsWith (kind ctx op0 op1 op2 : Nat) (l : List (Nat × Byte)) (f : State → Bool) : Bool :=
  let s := commanding kind ctx op0 op1 op2 l
  s.board.bootState == 2 && s.controlWaits 0 && s.ringReaches 0 (s.die 0).control && match s.ringEntry (s.die 0).control with
    | (t, some b) =>
      let c := Control.ofImage b
      s.controlReaches 0 c && c.kind == kind && c.op0.toNat == op0 && !c.malformed && (!c.namesContext || ((t.ctx? c.ctx).isSome && !(t.ctx c.ctx).contained)) && f t
    | _ => false

/-- What a read of an image gives has the property. -/
def some' {α : Type} (p : State × Option α) (f : State → α → Bool) : Bool :=
  match p with
  | (t, some a) => f t a
  | _ => false

/-- The image of a descriptor: one core at x = 1, ways in both dies. -/
def descAt : List (Nat × Byte) := placed 0x40000 (leBytes 64 (2 ^ 80 + 2 ^ 88 + 2 ^ 96 + 0xFFFFFFFF * 2 ^ 128))

/-- ControlCommandsComplete: the commands on tables and registers. -/
theorem witness_tables :
    commandsWith 1 0 0x40000 0 0 descAt (fun t => some' (t.descImage 0x40000) fun v b =>
      let x : Ctx := { desc := b, table := [] }
      State.rectangleGood x.x0 x.y0 x.w x.h && State.waysGood x && State.spqGood x &&
        (State.rectangle x.x0 x.y0 x.w x.h).all v.isFree && !v.freeIds.isEmpty) = true ∧
    commandsWith 2 0 0x40000 0xF 0 descAt (fun t => some' (t.descImage 0x40000) fun _ b =>
      State.waysGood { desc := b, table := [] } && State.spqGood { desc := b, table := [] }) = true ∧
    commandsWith 3 0 0x10000 0x20000 0 [] (fun t => !t.isMovingCtx 0 && !(t.dropTranslations 0 0x10000 0x20000).usesRange 0 0x10000 0x20000) = true ∧
    commandsWith 8 0 0x300 0 0 [] (fun t => t.namedStream 0 0 0 3 == some 3) = true ∧
    commandsWith 9 0 0 0 0 [] (fun t => (t.ctx? 0).isSome && (t.streamsOf 0).all (fun q => (t.stream q).run == .idle) && !t.busyCtx 0) = true ∧
    commandsWith 10 0 63 0x5000 0 [] (fun t => some' (t.image 0x5000 32) fun _ l => State.homeImageGood (BitVec.ofNat 256 (leNat l))) = true ∧
    commandsWith 11 0 0x5000 0x110 8 [] (fun t => !(t.queueOf 0 1).present && 0x110 % 32 == 16) = true ∧
    commandsWith 12 0 0x5000 0x1000 0 [] (fun t => (t.die 0).spill.isEmpty) = true ∧
    commandsWith 13 0 0xF00 0x5000 0 [] (fun t => some' (t.image 0x5000 128) fun v l => leNat ((l.drop 48).take 16) == 0 &&
      [0, 1, 2, 3].all fun q => (v.stream q).run == .idle && (v.stream q).task.isNone) = true := by decide +kernel

/-- CTXCREATE: a free owner number. -/
theorem witness_owner : 2 ∈ (mapped 0).freeOwners := by
  have h : (((mapped 0).ctxs.map fun e => e.2.owner) ++ (mapped 0).saved.map fun x => x.desc.extractLsb' 64 16).contains (BitVec.ofNat 16 2) = false := by
    decide +kernel
  simp only [State.freeOwners, List.mem_filter, h, List.mem_map, List.mem_range]
  exact ⟨⟨1, by decide, rfl⟩, rfl⟩

/-- ControlCommandsComplete: a move to a free core; a list of one; a context at rest; one that was saved. -/
theorem witness_moves :
    commandsWith 4 0 0 1 1 [] (fun t => !t.hasMoves 0 && !t.coreBusy 0 0 && t.isFree 1) = true ∧
    commandsWith 5 0 0x5000 1 1 [(0x5001, 1)] (fun t => !t.hasMoves 0 && !(t.ctx 0).leaving && !t.isMovingCtx 0 &&
      some' (t.image 0x5000 2) fun v l => Spec.repartPlan (t.ctx 0) 1 l == [(0, 1)] && v.mayReceive 0 1 &&
        (State.rectangle 1 0 1 1).all (fun k => !v.heldByOther k (some 0)) &&
        (State.positionsAfter (t.ctx 0) [(0, 1)]) == [1] && (State.rectangle 1 0 1 1) == [1]) = true ∧
    commandsWith 6 0 0 0 0 [] (fun t =>
      let u := t.setCtx 0 { t.ctx 0 with leaving := true }
      let v := u.settleCtx 0
      !u.startsOut 0 && !u.isMovingCtx 0 && u.cores.all (fun e => e.2.peg.isNone) && v.settledCtx 0 && v.roomForArms (v.armsOf 0)) = true ∧
    (let y : SavedCtx := ⟨firstCtx.desc, [0x20100], #v[{}, {}], [], 0, [], [], [], []⟩
     commandsWith 7 0 0x5000 2 0 [(0x5002, 2)] (fun t =>
      some' (t.image 0x5000 16) fun v l => { t with saved := [y] }.savedAt 0x5000 == some y && State.rectangleGood 2 0 1 1 &&
        State.tableGood y ((State.numbers l 0 16 1).map (BitVec.ofNat 128)) && (State.rectangle 2 0 1 1).all v.isFree && !v.freeIds.isEmpty) = true) := by
  decide +kernel

/-- ControlCommandsComplete: the image of a core at position (0, 0) of its pitch, of streams that are idle. -/
theorem witness_image : State.imageGood 0 0 (leBytes 4 0x59375341 ++ leBytes 4 2 ++ [0, 0, 0, 0, 1]) = true := by decide +kernel

/-- A move of core 0 to core 1. -/
def aMove (drained : Bool) : Move := ⟨0, 0, 0, 1, true, true, drained, 0, 0, none, false⟩

/-- ControlCommandsComplete: a move that drains and one that has; a message and a marker for a vacated core. -/
theorem witness_move_steps : (∀ d : Bool, let s := { mapped 0 with moves := [aMove d] }
      s.moves[0]? = some (aMove d) ∧ (aMove d).started = true ∧ (aMove d).drained = d ∧ (aMove d).dst ≠ (aMove d).src) ∧
    ((List.range 4).all fun j => ({ mapped 0 with moves := [aMove false] }.settleCore 0).drained (4 * 0 + j)) = true ∧
    (let s := (sending (.barBroken 0 2 0)).setCore 0 { (mapped 0).core 0 with peg := some ⟨0, 1, 2⟩ }
     State.targetOf (.barBroken 0 2 0) = some 0 ∧ (s.core (0 / 4)).peg = some ⟨0, 1, 2⟩) ∧
    (let s := (sending (.marker 0 0 false 2)).setCore 0 { (mapped 0).core 0 with peg := some ⟨0, 1, 1⟩ }
     s.net[0]? = some (.marker 0 0 false 2) ∧ s.arrives 0 = true ∧ s.writesTo 2 1 false = false ∧ s.net.take 0 = [] ∧
     (s.dies.all fun e => e.2.agents.isEmpty) = true ∧ (s.core 0).peg = some ⟨0, 1, 1⟩) := by decide +kernel

/-- A data flit, with its check; a control flit; and a flit whose check fails. -/
def dataFlit : FlitBits := Flit.withCrc (Flit.setCtl 0 14 2 3)
def controlFlit : FlitBits := Flit.withCrc (Flit.setCtl 0 12 2 3)
def brokenFlit : FlitBits := setField dataFlit 0 1 1

/-- The one flit of a read of 32 bytes by stream 0. -/
def requestFlit : FlitBits :=
  let h : Header := { kind := 1, dest := 16, master := 0, addr := 0x4000, len := 32 }
  Flit.withCrc (Flit.setCtl (h.bits.setWidth 512) 12 4 13)

/-- The machine at work, with other units. -/
def working : State := { mapped 0 with board := { (mapped 0).board with bootState := 2 } }

/-- The machine at work, with a flit on the link behind an output port. -/
def onLink (p : Nat) (f : FlitBits) : State := working.setOutPort p { working.outPort p with sent := some f }

/-- A packet of one flit, in a class. -/
def onePacket (c : BitVec 2) (f : FlitBits) : OutPacket := { id := 0, cls := c, flits := [f], left := 1, pool := 2 }

/-- LinkStepsComplete (ports): mesh ports, their neighbours, those of modules; links that are clear; queues that send and that do
not; messages of each class for the host; packets that are late; reports. -/
theorem witness_ports : mortarPort 2048 = none ∧ mortarPort 9 = none ∧ mortarPort (7 * 8 + 1) = some 0 ∧ working.carries 0 = true ∧
    State.neighbourPort 4 = none ∧ State.neighbourPort 9 = some 19 ∧ (working.outPort 9).sent = none ∧
    (working.outPort (7 * 8 + 1)).sent = none ∧ State.choose (State.takeTurns (working.outPort 9)) = none ∧
    State.choose (State.takeTurns { working.outPort 9 with prompt := [onePacket 1 dataFlit] }) = some 1 ∧
    (∀ b p a : Bool, State.chooseFrom (working.outPort 2048) b p a =
      if a then some 2 else if p then some 1 else if b then some 0 else none) ∧
    (let s := working.setInPort 0 { bulk := some ⟨0, [], 1, 0, 0, 8192⟩ }
     State.reasm (s.inPort 0) 0 = some ⟨0, [], 1, 0, 0, 8192⟩ ∧ State.reasm (s.inPort 0) 1 = none) ∧
    (let s := sending (.mgmt 1 9 7)
     s.net[0]? = some (.mgmt 1 9 7) ∧ s.arrives 0 = true) ∧
    (let s := sending (.report 1 { vector := 0, code := 3, value := 0 })
     s.net[0]? = some (.report 1 { vector := 0, code := 3, value := 0 }) ∧ s.arrives 0 = true) := by decide +kernel

/-- LinkStepsComplete (ports): flits that have come to a router from its neighbour, and from its unit: a request, a control flit, one
that goes on with no packet. -/
theorem witness_flits : State.neighbourPort 0xB = some 1 ∧ (onLink 1 dataFlit |>.outPort 1).sent = some dataFlit ∧
    Flit.good dataFlit = true ∧ Flit.good brokenFlit = false ∧ Flit.isFirst requestFlit = true ∧ Flit.isControl requestFlit = false ∧
    Flit.good requestFlit = true ∧ working.unitSends 4 controlFlit = true ∧ Flit.isControl controlFlit = true ∧
    working.unitSends 4 (Flit.withCrc (Flit.setCtl 0 12 4 8)) = false := by decide +kernel

theorem witness_request : working.unitSends 4 requestFlit = true := by
  have room : working.hasReplyRoom 4 (Flit.header requestFlit) = true :=
    decide_eq_true (Nat.le_trans (by decide +kernel : _ ≤ 9) (Nat.le_add_right _ _))
  have rest : Flit.isControl requestFlit = false ∧ Flit.isFirst requestFlit = true ∧
      (State.fieldsGood (Flit.header requestFlit) && State.masterHere (routerOf 4) (Flit.header requestFlit) &&
        working.formed (Flit.header requestFlit) 0 requestFlit) = true := by decide +kernel
  simp only [Bool.and_eq_true] at rest
  simp [State.unitSends, room, rest]

/-- LinkStepsComplete (modules): a flit that the sender sent, and one that fails its check on the way. -/
theorem witness_comes : Spec.comesFrom (onLink (senderPort 0) dataFlit) (senderPort 0) dataFlit
      ((onLink (senderPort 0) dataFlit).offLink (senderPort 0)) ∧
    Spec.comesFrom (onLink (senderPort 0) dataFlit) (senderPort 0) brokenFlit
      ((onLink (senderPort 0) dataFlit).offLink (senderPort 0)) := by
  have h : ((onLink (senderPort 0) dataFlit).outPort (senderPort 0)).sent = some dataFlit := by decide +kernel
  exact ⟨⟨_, h, .inl rfl, rfl⟩, ⟨_, h, .inr (by decide +kernel), rfl⟩⟩

/-- LinkStepsComplete (modules): flits that are expected and that are not, of each kind, on the link that sent them; a flit that
has waited, for the first time and for the third; modules that carry and that retrain. -/
theorem witness_modules : working.carries 15 = true ∧
    Flit.good dataFlit = true ∧ Flit.isControl dataFlit = false ∧ Flit.good controlFlit = true ∧ Flit.isControl controlFlit = true ∧
    Flit.seq dataFlit = ((onLink (senderPort 0) dataFlit).mortarDir 0).expected ∧
    Flit.seq dataFlit ≠ ((working.setMortarDir 0 { expected := 1 }).mortarDir 0).expected ∧
    (∀ n : Fin 3, let d : MortarDir :=
        { slots := 512, sentAt := [(0, 0)], replay := [dataFlit], failedSeq := if n = 0 then none else some 0, fails := n }
      512 ≤ d.waited ∧ d.again = [] ∧ d.unacked = [dataFlit] ∧
        ((d.failedSeq = some (Flit.seq dataFlit) ∧ 3 ≤ d.fails + 1) ↔ n = 2)) ∧
    (working.module 3).retraining = false ∧ ((working.setModule 3 { retraining := true }).module 3).retraining = true := by
  decide +kernel

/-- The header of a POISON for a packet of a kind from a master. -/
def ended (kind master : Nat) : BitVec 128 := BitVec.ofNat 128 (kind * 2 ^ 8 + master * 2 ^ 32)

/-- The same state 100,000 ticks after reset on die 0. -/
def late (s : State) : State := s.setDie 0 { s.die 0 with time := BitVec.ofNat 104 (100000 * 2 ^ 40) }

/-- Nothing that the reply timer of stream 0 ends first is late. -/
def quiet (s : State) : Bool := (s.lateWrite 0).isNone && (s.lateLink 0).isNone

/-- LinkStepsComplete (what is late): headers of every kind, of streams, of a copy engine and of no master. -/
theorem witness_ended :
    (([0xC, 0xD, 1, 2, 3, 7, 0xE, 0xF] : List Nat).all fun k => [0, 3, 4, 8].all fun m =>
      Flit.kind (ended k m) == k && (Flit.master (ended k m)).toNat % 16 == m &&
        (sending (.poison (ended k m))).net[0]? == some (.poison (ended k m))) = true ∧
    ((mapped 0).steCommands 0).head? = none ∧
    ((sending (.steCmd 0 (steCmd 1 0 0 0 0 0))).steCommands 0).head? = some (steCmd 1 0 0 0 0 0) := by decide +kernel

/-- LinkStepsComplete (what is late): a write, a word that waits for the link, an answer and a task that the link keeps away, a copy,
a command, and a request to the other die whose time has passed. -/
theorem witness_late :
    (let s := late (storing .scalar .sent 0x4000 8)
     ((s.stream 0).storeQ.find? fun e => e.phase ≠ .queued && !s.isFarReduction 0 e &&
      decide (e.sentAt + 100000 ≤ s.now (dieOfCore (0 / 4)))).isSome = true) ∧
    (let s := late (tune (mapped 0) fun t => { t with run := .blocked, wait := .link 0 [0] 0x4000 })
     s.lateWrite 0 = none ∧ (s.stream 0).wait = .link 0 [0] 0x4000 ∧ 0 + 100000 ≤ s.now (dieOfCore (0 / 4))) ∧
    (let s := late (cut { waiting (.fe 5 true 0x80004000 farLine none) with net := [.feReply 0 (.value 7) 0] })
     quiet s = true ∧ s.lateNews 0 = some (.feReply 0 (.value 7) 0)) ∧
    (let s := late (cut { waiting (.taskNext false) with net := [.taskGiven 0 { die := 1 } 0] })
     quiet s = true ∧ s.lateNews 0 = some (.taskGiven 0 { die := 1 } 0)) ∧
    (let r := { aCopy .active 0 none with waitsFrom := some 0 }
     let s := late ((mapped 0).setCore 0 { (mapped 0).core 0 with copies := [(3, r)] })
     quiet s = true ∧ s.lateNews 0 = none ∧ s.lateCopy 0 = some (3, r)) ∧
    (let s := late (sending (.steCmd 0 (steCmd 1 0 0 0 0 0)))
     (s.steCommands 0).head? = some (steCmd 1 0 0 0 0 0) ∧ quiet s = true ∧ s.lateNews 0 = none ∧ s.lateCopy 0 = none ∧
      (steCmd 1 0 0 0 0 0).sentAt + 100000 ≤ s.now (dieOfCore (0 / 4))) ∧
    (let r : AgentReq := ⟨0, 0, none, 5, ⟨0, 0x4000, 0x4000, 1, 0⟩, none, 0, []⟩
     let s := late ((mapped 0).setDie 0 { (mapped 0).die 0 with agents := [(State.agentOf 0, ⟨1, [r]⟩)] })
     State.agentOf 0 < 32 ∧ ((SMap.get {} (s.die (State.agentOf 0 / 16)).agents (State.agentOf 0)).out.find? fun x =>
        x.reqnum = 0 && decide (x.sentAt + 20000 ≤ s.now (State.agentOf 0 / 16)) && s.rowCarries (State.agentOf 0 % 16)) = some r) := by
  decide +kernel

/-- ClockAndHostStepsComplete (clocks): register values that are off, that fit and whose rate is too small; requests that fit the
level and that do not; alarms alone and with another; a clock within its bounds; ticks within the bound and beyond it; links. -/
theorem witness_clocks : (0 : Word).getLsbD 63 = false ∧ (0x8000000400000000 : Word).getLsbD 63 = true ∧
    4 ≤ (0x8000000400000000 : Word).toNat / 2 ^ 32 % 2 ^ 24 ∧ (0x8000000300000000 : Word).toNat / 2 ^ 32 % 2 ^ 24 < 4 ∧
    (let s := working.setRegulator 5 ⟨0x8000000400000000, 4000, [4, 5]⟩
     (s.regulator (64 * 0 + 5)).reg.getLsbD 63 = true ∧ 1000 * ([4, 5].take 1).sum ≤ (s.regulator 5).level ∧
     (s.regulator 5).level < 1000 * 5) ∧
    (let s : State := { working with board := { working.board with narrow := true, alarms := [.droop, .board] } }
     s.board.narrow = true ∧ Config.clockFloor < s.board.clock ∧ ∃ a ∈ s.board.alarms, a ≠ .droop) ∧
    (let s : State := { working with board := { working.board with alarms := [.droop], clock := 25 } }
     s.board.narrow = false ∧ s.board.clock < Config.clockTop ∧ ∀ a ∈ s.board.alarms, a = .droop) ∧
    (let ahead (n : Nat) : State := working.setDie 0 { working.die 0 with time := BitVec.ofNat 104 (n * 2 ^ 40) }
     working.skew = 0 ∧ (ahead 1).skew = 1 ∧ (ahead 10).skew = 10 ∧ (ahead 11).skew = 11) ∧
    working.board.bootState = 2 ∧ (working.sends .hostPort (.command 0) && working.sends .hostPort (.command 1) &&
      working.reaches (.command 0) (.command 1) && (List.range 4).all fun k => working.sends .hostPort (.slice (16 * k))) = true := by
  decide +kernel

/-- ClockAndHostStepsComplete (host): units in reach; a write and a read of bytes that no range seals, a write to a sealed range, and
one to a port that is frozen; an empty flash fails its record check. -/
theorem witness_host : working.board.bootState = 2 ∧ working.board.hostFrozen = false ∧ (0x1000000 : Nat) + [1, 2].length ≤ 2 ^ 38 ∧
    working.reachesSealed 0x1000000 2 = false ∧ working.hostReaches 0x1000000 2 = true ∧
    ({ working with board := { working.board with sealed := [(0x1000000, 0x10000)] } }.reachesSealed 0x1000000 2) = true ∧
    { working with board := { working.board with hostFrozen := true } }.board.hostFrozen = true ∧
    working.hostReaches 0x4000 4 = true ∧ gives (working.readHome 0x4000 4 .host) (fun _ _ => true) = true ∧
    (working.sends .hostPort (.ste 3) && working.sends .hostPort (.core 255) && working.sends .hostPort (.command 1)) = true ∧
    Boot.reason State.reset.heldInReset.board State.reset.board.flash 0x20000 true = 1 := by decide +kernel

/-- A word completes, and its stream has not stopped. -/
def completes (i : Instr) (s : State) : Bool := after (exec i s) fun t => !t.me.faultMark

/-- RegisterWordsKeepTheRest and LoadsAndStoresKeepTheRest (words): words of each kind that complete. -/
theorem witness_frames : Spec.destination (.movi 0 1 5) = some (.scalar, 5) ∧ completes (.movi 0 1 5) plain = true ∧
    (∀ k : BitVec 2, plain.me.endsAt k 0x4004 = false) ∧ (mapped 0).me.storeQ = [] ∧
    Spec.loads (.ldD 0 0 0 5) = some (.scalar, 5) ∧ completes (.ldD 0 0 0 5) (mapped 0) = true ∧
    Spec.loads (.vld 0 3 1) = some (.vector, 3) ∧ completes (.vld 0 3 1) (mapped 0x4000) = true ∧
    Spec.loads (.hld 0 2 1) = some (.handle, 2) ∧ completes (.hld 0 2 1) withHandle = true ∧
    Spec.stores (.stD 0 0 0 5) = true ∧ completes (.stD 0 0 0 5) (mapped 0) = true ∧
    Spec.stores (.vst 0 3 1) = true ∧ completes (.vst 0 3 1) (mapped 0x4000) = true ∧
    Spec.atoms (.atomAdd 0 5 1 2 1) = some (5, 1) ∧ completes (.atomAdd 0 5 1 2 1) (mapped 0x4000) = true ∧
    ((mapped 0x4000).dies.all fun d => d.2.parked.isEmpty) = true := by decide +kernel

/-- The writes of stream 0 that a step may carry out, a part or whole. -/
def readyWrites (s : State) (kind : StoreKind → Bool) (whole : Bool) : List StoreEntry :=
  (s.sentWrites 0 kind).filter fun e =>
    if whole then e.cells.all fun b => s.mayLand 0 e b.1 else (State.piecesOf e).any (s.mayLand 0 e)

/-- LoadsAndStoresKeepTheRest (writes): writes at the head of their queue, of each kind, in a machine with memory in its form and
nothing parked, which are carried out; the page of an `STR` packet is resident. -/
theorem witness_writes :
    (let s := storing .scalar .sent 0x4000 8
     s.memWf ∧ (s.dies.all fun d => d.2.parked.isEmpty) = true ∧ readyWrites s (fun k => k == .scalar || k == .wide) false ≠ [] ∧
     (s.me.storeQ.all fun e => e.cells.all fun b => !State.isLocalPlace b.1) = true ∧
     after (exec (.write 0) s) (fun t => t.byteAt 0x4000 == 7) = true) ∧
    (let s := (storing .remote .sent (localPlace 0 0) 8).setPage 0 0 { backed := true, resident := true }
     s.memWf ∧ readyWrites s State.isRemote true ≠ [] ∧ (s.page 0 0).resident = true ∧
     State.pageOfPlace (localPlace 0 0) = (0, 0) ∧ State.pageOfPlace (localPlace 0 7) = (0, 0) ∧
     after (exec (.strPacket 0) s) (fun t => t.byteAt (localPlace 0 0) == 7) = true) ∧
    (let s := storing (.red 0 1) .sent 0x4000 8
     s.memWf ∧ readyWrites s State.isReduction true ≠ [] ∧ (s.agentReqs 0).isEmpty = true ∧
     after (exec (.atom 0) s) (fun t => !(t.stream 0).faultMark) = true) := by
  simp only [State.memWf]; decide +kernel

/-- StepKeepsMemoryCanonical: a state with its memory in its form, which steps. -/
theorem witness_form : (word 0x06788809).memWf ∧ after (step (word 0x06788809)) (fun _ => true) = true := by
  simp only [State.memWf]; decide +kernel

/-- A stream all of whose registers are legal, as those of reset are. -/
theorem legal_of_empty (t : Stream) (h : t.trb = []) (hr : Spec.LegalRegs t.regs) : Spec.LegalRegs t.regs ∧
    t.trb.length ≤ Config.trbPartition ∧ ∀ e ∈ t.trb, Spec.LegalRegs e.before :=
  ⟨hr, by rw [h]; decide, by rw [h]; simp⟩

/-- StepKeepsStreamsLegal: a legal state that steps; a store queue whose numbers differ, of a core that retires. -/
theorem witness_legal : Spec.Legal (word 0x06788809) ∧ after (step (word 0x06788809)) (fun _ => true) = true ∧
    (((storing .scalar .queued 0x4000 8).stream 0).storeQ.map (·.seq)).Nodup ∧
    after (exec (.trbRetire 0) (storing .scalar .queued 0x4000 8)) (fun _ => true) = true := by
  refine ⟨fun q => ?_, by decide +kernel, by decide +kernel, by decide +kernel⟩
  by_cases hq : q = 0
  · subst hq
    refine legal_of_empty _ (by decide +kernel) ?_
    simp only [Spec.LegalRegs]; decide +kernel
  · have h : ∃ x, (word 0x06788809).streams = [(0, x)] := ⟨_, rfl⟩
    obtain ⟨x, h⟩ := h
    have e : (word 0x06788809).stream q = {} := by
      simp only [State.stream, h, SMap.get, Ne.symm hq, if_false]
    rw [e]
    refine legal_of_empty _ rfl ?_
    simp only [Spec.LegalRegs]; decide +kernel

end Sys2Proof.Tests
end

section
/-! The decode slot (R25, R49): a stream that may take a word is as `release` leaves it, and what its step then does with the
parcels that arrive, check by check. -/

namespace Sys2Proof.Machine

namespace State

/-! ## The slot -/

/-- The rotation comes only to a stream whose word the decoder may take. -/
theorem decodes_of_rotation {s : State} {q : Nat} (h : s.rotation (q / 4) = some (q % 4)) : s.decodes q = true := by
  simp only [rotation, Option.ite_none_left_eq_some] at h
  have found := List.find?_some h.2
  rw [Nat.div_add_mod] at found
  simp only [Bool.and_eq_true] at found
  exact found.1.1

theorem run_eq_ready_of_decodes {s : State} {q : Nat} (h : s.decodes q = true) : (s.stream q).run = .ready := by
  simp only [decodes, Bool.and_eq_true, decide_eq_true_eq] at h
  exact h.1

/-- A ready stream has no wait to be released from. -/
theorem release_of_decodes {s : State} {q : Nat} (h : s.decodes q = true) : s.release q = s := by
  simp [release, run_eq_ready_of_decodes h]

/-- A slot that comes to its stream in the rotation is a step of its decoder. -/
theorem step_of_slot {s : State} {q : Nat} {rest : List Turn} (ha : s.agenda = .slot q :: rest) (hq : q < 1024)
    (hr : ({ s with agenda := rest, cur := q } : State).rotation (q / 4) = some (q % 4)) :
    step s = ({ s with agenda := rest, cur := q } : State).decodeStep q := by
  have hr' : ({ s with agenda := rest } : State).rotation (q / 4) = some (q % 4) := hr
  simp only [step, ha, turn, Config.streamCount, Nat.not_le.mpr hq, hr', if_false, if_true]
  rfl

/-- The running stream, where it may take a word and its parcels arrive, decodes them. -/
theorem decodeStep_of_fetched {s t : State} {ps eff : List (BitVec 16)} (hm : Spec.mayDecode s s.cur)
    (hf : (s.takeSlot s.cur).fetchAll = (t, .ok (ps, eff))) : s.decodeStep s.cur = t.decodeWord ps eff := by
  obtain ⟨turn, room⟩ := hm
  have hd := decodes_of_rotation turn
  have room' : ¬ Config.trbPartition ≤ s.me.trb.length := Nat.not_le.mpr room
  simp only [decodeStep, release_of_decodes hd, hd, Bool.not_true, Bool.false_eq_true, room', if_false, hf]

/-- The step of a slot whose stream may take a word and whose parcels arrive. -/
theorem step_of_fetched {s t : State} {q : Nat} {rest : List Turn} {ps eff : List (BitVec 16)}
    (ha : s.agenda = .slot q :: rest) (hq : q < 1024) (hm : Spec.mayDecode { s with agenda := rest, cur := q } q)
    (hf : (({ s with agenda := rest, cur := q } : State).takeSlot q).fetchAll = (t, .ok (ps, eff))) :
    step s = t.decodeWord ps eff := by
  rw [step_of_slot ha hq hm.1]
  exact decodeStep_of_fetched hm hf

/-! ## The checks of a word -/

/-- Parcels that are no instruction are ILLEGAL where no breakpoint stands (R49). -/
theorem frontCause_of_invalid {s : State} {ps : List (BitVec 16)} (hb : s.breakpointAt s.me.pc = none)
    (hv : validWord ps = false) : s.frontCause ps = some (.illegal, 0) := by
  simp [frontCause, hb, hv]

theorem decodeWord_of_frontCause {s : State} {ps eff : List (BitVec 16)} {c : Cause} {ea : Word}
    (h : s.frontCause ps = some (c, ea)) :
    s.decodeWord ps eff = .next (s.raiseAtDecode eff fun u => u.raise c ea) := by
  simp only [decodeWord, h]

/-- What becomes of a word of `s` that entered as number `seq` and was executed: one that raises its cause too early is held
(R166), any other leaves or keeps its entry as `ran` has it, and an outcome without a next state stands. -/
def settleWord (s : State) (seq : Nat) (eff : List (BitVec 16)) : Out → Out
  | .next v => .next (if s.tooEarly v then s.holdFor .retired else v.ran s seq eff)
  | r => r

/-- The word that the parcels decode to runs. -/
theorem runDecoded_of_decode {ps rest : List (BitVec 16)} {i : Instr} (h : decode ps = .ok (i, rest)) (s : State) :
    runDecoded ps s = exec i s := by
  simp only [runDecoded, h]

/-- A word that no check stops and that has all it waits for enters the TRB and executes. -/
theorem decodeWord_of_operandsAtHand {s : State} {ps eff rest : List (BitVec 16)} {i : Instr}
    (hc : s.frontCause ps = none) (hw : Spec.operandsAtHand s eff) (hd : decode ps = .ok (i, rest)) :
    s.decodeWord ps eff = s.settleWord (s.enterTrb eff).me.seqNext eff
      (exec i (if isPrefix ps then s.enterTrb eff else (s.enterTrb eff).clearSkip)) := by
  obtain ⟨arrived, produced, oldest, room⟩ := hw
  have noToken : (s.readP (guardOf eff) && !(((scalarReads eff).filter s.me.isPending).map s.me.scalarName).isEmpty) = false := by
    cases hg : s.readP (guardOf eff)
    · rfl
    · simpa using arrived hg
  have noOperand : (s.readP (guardOf eff) &&
      !(if blocksStream eff then s.me.unproduced (s.me.readNames eff) else []).isEmpty) = false := by
    cases hg : s.readP (guardOf eff) <;> cases hb : blocksStream eff <;> simp [produced, hg, hb]
  have noOlder : (actsOnce eff && !s.me.trb.isEmpty) = false := by
    cases ho : actsOnce eff <;> simp [oldest, ho]
  have hasRoom : (s.readP (guardField eff) && takesToken eff && !s.tokenRoom s.myCore) = false := by
    cases hg : s.readP (guardField eff) <;> cases ht : takesToken eff <;> simp [room, hg, ht]
  simp only [decodeWord, hc, noToken, noOperand, noOlder, hasRoom, Bool.false_eq_true, if_false, runDecoded_of_decode hd]
  generalize exec i _ = r
  cases r <;> rfl

end State

/-- Settles O23: the slot is a step of the decoder, whose checks the hypotheses answer one by one. -/
theorem stepRunsTheDecodedInstruction : Obligations.StepRunsTheDecodedInstruction := by
  intro s t q rest ps eff hagenda hq s1 hmay hfetch
  rw [State.step_of_fetched hagenda hq hmay hfetch]
  constructor
  · intro noBreak invalid
    exact State.decodeWord_of_frontCause (State.frontCause_of_invalid noBreak invalid)
  · intro i noCause atHand hdecode u
    rw [State.decodeWord_of_operandsAtHand noCause atHand hdecode]
    generalize exec i _ = r
    cases r <;> rfl

end Sys2Proof.Machine
end
